-- ==== Sys2Proof/Word.lean ====
section
/-! DEFINITION. The word types of the block and their plainest arithmetic (R6, R7). -/

namespace Sys2Proof

/-- One byte. -/
abbrev Byte := BitVec 8

/-- A 32-bit word of a structure table (R7). -/
abbrev Word := BitVec 32

/-- A 64-bit register, flag or address. -/
abbrev W64 := BitVec 64

/-- One DMA read data beat (R201). -/
abbrev Beat := BitVec 256

end Sys2Proof
end

