-- ==== Sys2Proof/Syntax.lean ====
section
/-! DEFINITION. The commands of the block: one constructor of `Instr` for each row of the table of operations and
events, with the operands the outside world supplies. -/

namespace Sys2Proof

/-- One MMIO write on `hp_mr_` (R70): offset within its BAR, data, byte enables, and whether it comes from the
service function. -/
structure MmioWrite where
  addr : BitVec 24
  data : W64
  be   : BitVec 8
  fn   : Bool
deriving DecidableEq, Repr

/-- A packet of a queue: the queue's global number, whether the packet lies in the turn template, and the byte
offset of its header. -/
structure PktRef where
  q   : Nat
  tpl : Bool
  off : Nat
deriving DecidableEq, Repr

/-- The two streams of a tile program (R172). -/
inductive StreamSel where
  | access
  | execute
deriving DecidableEq, Repr

/-- A Serdo message as received on a link port (R292): header fields
and body bytes. `tag` is the 16-byte authentication tag of a version-2 message with AUTH set; `err` says that `fm_rx_err` was
set on one of its beats (R291). -/
structure SerdoMsg where
  ver    : Nat
  auth   : Bool
  typ    : Nat
  src    : Nat
  dst    : Nat
  mosaic : Nat
  hops   : Nat
  epoch  : Nat
  seq    : Nat
  body   : List Byte
  tag    : List Byte
  err    : Bool := false
deriving DecidableEq, Repr

/-- The three licensed configurations (R1). -/
inductive ChipConfig where
  | qcp4k
  | qcp8k
  | qcp16k
deriving DecidableEq, Repr

/-- What the fuse array returns on `fu_` (R395 step 2). -/
structure Fuses where
  config   : ChipConfig
  testLock : Bool
  pmaxW    : BitVec 16
  tmaxC    : BitVec 8
  stepMin  : BitVec 3
  vmaxMv   : BitVec 12
  vminMv   : BitVec 12
  vsafeMv  : BitVec 12
  keyHash  : List Byte
  minSvn   : BitVec 16
  seed     : List Byte
deriving DecidableEq, Repr

/-- What the image flash holds when the boot ROM reads it (R396): SFDP readable, density in MiB, the two boot
records, the identity area and the two banks. -/
structure FlashView where
  sfdp     : Bool
  mib      : Nat
  rec0     : List Byte
  rec1     : List Byte
  identity : List Byte
  bankA    : List Byte
  bankB    : List Byte
deriving DecidableEq, Repr

/-- What a start-up step takes from the surroundings (R395). -/
inductive StartInput where
  | idle
  | clockEdges (perRef : List Nat)
  | fuses (f : Fuses)
  | flash (v : FlashView)
deriving DecidableEq, Repr

/-- The two emergency inputs of `pm_` (R392). -/
inductive EmergPin where
  | thermTrip
  | alert
deriving DecidableEq, Repr

/-- How a flash operation on `fl_` ended (R400, R402): done, failed, or with the bytes read back. -/
inductive FlashResult where
  | done
  | failed
  | bytes (b : List Byte)
deriving DecidableEq, Repr

/-- The commands, in the table's order. -/
inductive Instr where
  /-- `POR_N_ASSERT` (R394). -/
  | porNAssert
  /-- `HRST_N_ASSERT` (R394). -/
  | hrstNAssert (edges : Nat)
  /-- `RESET_RELEASE` (R395). -/
  | resetRelease
  /-- `STARTUP_STEP` (R395). -/
  | startupStep (input : StartInput)
  /-- `TAIL_DOORBELL` (R42). -/
  | tailDoorbell (a : MmioWrite)
  /-- `CQ_HEAD_DOORBELL` (R42). -/
  | cqHeadDoorbell (a : MmioWrite)
  /-- `RENEW` (R374). -/
  | renew (a : MmioWrite)
  /-- `ADM_CMD_TAIL` (R408). -/
  | admCmdTail (a : MmioWrite)
  /-- `ADM_RPL_HEAD` (R411). -/
  | admRplHead (a : MmioWrite)
  /-- `SEQ_PCACHE_INV` (R177). -/
  | seqPcacheInv (a : MmioWrite)
  /-- `FLT_FORCE` (R362). -/
  | fltForce (a : MmioWrite)
  /-- `DUMP_UNLOCK` (R376). -/
  | dumpUnlock (a : MmioWrite)
  /-- `FLT_SUMMARY_CLEAR` (R360). -/
  | fltSummaryClear (a : MmioWrite)
  /-- `RESCAN` (R310). -/
  | rescan (a : MmioWrite)
  /-- `BAT_CTX_TR_CFG` (R259). -/
  | batCtxTrCfg (a : MmioWrite)
  /-- `BAT_CTX_TR_HEAD` (R259). -/
  | batCtxTrHead (a : MmioWrite)
  /-- `DSP_CORE_FAILED` (R165). -/
  | dspCoreFailed (a : MmioWrite)
  /-- `SCH_BW_CFG` (R326). -/
  | schBwCfg (a : MmioWrite)
  /-- `REGISTER_WRITE` (R430). -/
  | registerWrite (a : MmioWrite)
  /-- `ADMIN_COMMAND_TAKE` (R408). -/
  | adminCommandTake
  /-- `IDENTIFY` (R422). -/
  | identify (i : Nat)
  /-- `CTX_CREATE` (R33). -/
  | ctxCreate (i : Nat)
  /-- `CTX_DESTROY` (R347). -/
  | ctxDestroy (i : Nat)
  /-- `QUEUE_CONFIG` (R36). -/
  | queueConfig (i : Nat)
  /-- `QUEUE_RESET` (R67). -/
  | queueReset (i : Nat)
  /-- `MOSAIC_CREATE` (R271). -/
  | mosaicCreate (i : Nat)
  /-- `MOSAIC_BIND` (R272). -/
  | mosaicBind (i : Nat)
  /-- `MOSAIC_REBIND` (R274). -/
  | mosaicRebind (i : Nat)
  /-- `MOSAIC_RELEASE` (R275). -/
  | mosaicRelease (i : Nat)
  /-- `SHARES_SET` (R317). -/
  | sharesSet (i : Nat)
  /-- `BOARD_LOAD` (R314). -/
  | boardLoad (i : Nat)
  /-- `KEY_IMPORT` (R338). -/
  | keyImport (i : Nat)
  /-- `KEY_REVOKE` (R346). -/
  | keyRevoke (i : Nat)
  /-- `ATTEST` (R331). -/
  | attest (i : Nat)
  /-- `POOL_CONFIG` (R237). -/
  | poolConfig (i : Nat)
  /-- `PD_SET` (R382). -/
  | pdSet (i : Nat)
  /-- `DVFS_SET` (R388). -/
  | dvfsSet (i : Nat)
  /-- `IMAGE_STAGE` (R400). -/
  | imageStage (i : Nat)
  /-- `IMAGE_ACTIVATE` (R401). -/
  | imageActivate (i : Nat)
  /-- `DUMP_READ` (R421). -/
  | dumpRead (i : Nat)
  /-- `PARTITION_RESET` (R368). -/
  | partitionReset (i : Nat)
  /-- `LEASE_CONFIG` (R374). -/
  | leaseConfig (i : Nat)
  /-- `DEFERRED_FINAL_REPLY` (R412). -/
  | deferredFinalReply (i : Nat)
  /-- `QUEUE_WAKE` (R43). -/
  | queueWake (q : Nat)
  /-- `FETCHER_ARM` (R43). -/
  | fetcherArm (q : Nat)
  /-- `FETCHER_CAPTURE` (R43). -/
  | fetcherCapture (q : Nat)
  /-- `FETCH_ENTRY` (R43). -/
  | fetchEntry (q : Nat)
  /-- `PREFETCH_READ` (R50). -/
  | prefetchRead
  /-- `HOST_READ_RESPONSE` (R51). -/
  | hostReadResponse (id : Nat) (status : BitVec 2) (data : List Byte)
  /-- `SUBMISSION_CHECK` (R56). -/
  | submissionCheck (q : Nat)
  /-- `CHECK_PASS` (R89). -/
  | checkPass (q : Nat)
  /-- `SUBMISSION_START` (R125). -/
  | submissionStart (q : Nat)
  /-- `NOP` (R105). -/
  | nop (p : PktRef)
  /-- `LAUNCH` (R93). -/
  | launch (p : PktRef)
  /-- `LAUNCH_TURN` (R96). -/
  | launchTurn (p : PktRef)
  /-- `COPY` (R99). -/
  | copyPkt (p : PktRef)
  /-- `FILL` (R100). -/
  | fillPkt (p : PktRef)
  /-- `COLLECTIVE` (R101). -/
  | collective (p : PktRef)
  /-- `WAIT_FLAG` (R128). -/
  | waitFlag (p : PktRef)
  /-- `SIGNAL_FLAG` (R129). -/
  | signalFlag (p : PktRef)
  /-- `FENCE` (R137). -/
  | fence (p : PktRef)
  /-- `PATCH_FROM_FLAG` (R109). -/
  | patchFromFlag (p : PktRef)
  /-- `SEQ_ADMIT` (R241). -/
  | seqAdmit (p : PktRef)
  /-- `SEQ_RETIRE` (R242). -/
  | seqRetire (p : PktRef)
  /-- `KV_RESERVE` (R243). -/
  | kvReserve (p : PktRef)
  /-- `KEY_BIND` (R340). -/
  | keyBind (p : PktRef)
  /-- `TRANSCRIPT_MARK` (R114). -/
  | transcriptMark (p : PktRef)
  /-- `ATOMIC_BEGIN` (R106). -/
  | atomicBegin (p : PktRef)
  /-- `ATOMIC_END` (R106). -/
  | atomicEnd (p : PktRef)
  /-- `RNG_SEED` (R115). -/
  | rngSeed (p : PktRef)
  /-- `END` (R84). -/
  | endPkt (p : PktRef)
  /-- `FOLD` (R336). -/
  | fold (c : Nat)
  /-- `WAIT_COMPLETE` (R130). -/
  | waitComplete (flag : Nat)
  /-- `MEMPOLL_INTERVAL_EXPIRY` (R133). -/
  | mempollIntervalExpiry (op : Nat)
  /-- `MEMPOLL_RESPONSE` (R133). -/
  | mempollResponse (n tag : Nat) (status : BitVec 3) (value : W64)
  /-- `WCD_PASS` (R142). -/
  | wcdPass
  /-- `WCD_SETTLE_EXPIRY` (R142). -/
  | wcdSettleExpiry
  /-- `COMPLETION_RECORD_WRITE` (R60). -/
  | completionRecordWrite (q : Nat)
  /-- `MSIX_REFUSED` (R64). -/
  | msixRefused (vec : Nat)
  /-- `COMPLETION_WRITE_RESPONSE` (R65). -/
  | completionWriteResponse (id : Nat) (status : BitVec 2)
  /-- `DESCRIPTOR_ISSUE` (R152). -/
  | descriptorIssue
  /-- `PASS_END_REPORT` (R165). -/
  | passEndReport (n : Nat)
  /-- `BANK_TRANSFER_COMPLETE` (R155). -/
  | bankTransferComplete (n : Nat)
  /-- `PASS_START` (R180). -/
  | passStart (n : Nat)
  /-- `PASS_END` (R181). -/
  | passEnd (n : Nat)
  /-- `STREAM_JAM_EXPIRY` (R182). -/
  | streamJamExpiry (n : Nat)
  /-- `COMBINE_PASS` (R199). -/
  | combinePass (n : Nat)
  /-- `CHUNK_PASS` (R199). -/
  | chunkPass (n : Nat)
  /-- `PROGRAM_FETCH` (R178). -/
  | programFetch (n : Nat)
  /-- `LOOP` (R186). -/
  | loopI (n : Nat) (st : StreamSel)
  /-- `ENDL` (R187). -/
  | endl (n : Nat) (st : StreamSel)
  /-- `AINC` (R189). -/
  | aInc (n : Nat)
  /-- `SMOV` (R188). -/
  | sMov (n : Nat) (st : StreamSel)
  /-- `SALU` (R188). -/
  | sAlu (n : Nat) (st : StreamSel)
  /-- `RDP` (R180). -/
  | rdp (n : Nat) (st : StreamSel)
  /-- `DROP` (R184). -/
  | drop (n : Nat) (st : StreamSel)
  /-- `LOAD` (R189). -/
  | load (n : Nat)
  /-- `STORE` (R189). -/
  | store (n : Nat)
  /-- `SHAPE` (R189). -/
  | shape (n : Nat)
  /-- `ALLOC` (R189). -/
  | alloc (n : Nat)
  /-- `SLD` (R189). -/
  | sld (n : Nat)
  /-- `SST` (R189). -/
  | sst (n : Nat)
  /-- `LDS` (R189). -/
  | lds (n : Nat)
  /-- `PUSHS` (R189). -/
  | pushs (n : Nat)
  /-- `TOP` (R192). -/
  | top (n : Nat)
  /-- `TSHAPE` (R191). -/
  | tshape (n : Nat)
  /-- `SAMPLE` (R194). -/
  | sample (n : Nat)
  /-- `POPS` (R191). -/
  | pops (n : Nat)
  /-- `STREAM_NOP` (R188). -/
  | streamNop (n : Nat) (st : StreamSel)
  /-- `STREAM_END` (R181). -/
  | streamEnd (n : Nat) (st : StreamSel)
  /-- `LANE_OP_TRANSFER` (R163). -/
  | laneOpTransfer (n l : Nat)
  /-- `LANE_COMPLETION` (R164). -/
  | laneCompletion (n l : Nat) (id : BitVec 8) (status : BitVec 3)
  /-- `LANE_ABORT_ACK` (R166). -/
  | laneAbortAck (n l : Nat)
  /-- `ABORT_BOUND_EXPIRY` (R167). -/
  | abortBoundExpiry (n l : Nat)
  /-- `LANE_TOKEN` (R168). -/
  | laneToken (n l : Nat) (seq : BitVec 14) (draft : BitVec 3) (token : Word)
  /-- `DD_COMPLETION` (R203). -/
  | ddCompletion (n tag : Nat) (status : BitVec 3)
  /-- `DD_READ_BEAT` (R203). -/
  | ddReadBeat (n tag : Nat) (data : Beat)
  /-- `DD_DRAIN_ACK` (R204). -/
  | ddDrainAck (n : Nat)
  /-- `TURN_FORMATION` (R249). -/
  | turnFormation (slot : Nat)
  /-- `TURN_COMMIT` (R246). -/
  | turnCommit (port : Nat) (m : SerdoMsg)
  /-- `ARRIVE_SEND` (R246). -/
  | arriveSend (slot : Nat)
  /-- `TURN_ARRIVE` (R246). -/
  | turnArrive (port : Nat) (m : SerdoMsg)
  /-- `TURN_TOKENS` (R255). -/
  | turnTokens (port : Nat) (m : SerdoMsg)
  /-- `TURN_ABORT` (R257). -/
  | turnAbort (port : Nat) (m : SerdoMsg)
  /-- `COMMIT` (R256). -/
  | commit (slot : Nat)
  /-- `TURN_BARRIER_TIMEOUT` (R248). -/
  | turnBarrierTimeout (slot : Nat)
  /-- `TOKEN_RECORD_RESPONSE` (R261). -/
  | tokenRecordResponse (id : Nat) (status : BitVec 2)
  /-- `ROUTE_LOOKUP` (R282). -/
  | routeLookup (port node chan tag mosaic : Nat)
  /-- `PGOOD_RISE` (R382). -/
  | pgoodRise (d : Nat)
  /-- `DOMAIN_IDLE_EXPIRY` (R385). -/
  | domainIdleExpiry (d : Nat)
  /-- `EPOCH_APPLY` (R25). -/
  | epochApply
  /-- `EPOCH_DRAIN_DETECT` (R285). -/
  | epochDrainDetect (busy : List (BitVec 4))
  /-- `PORT_UP_CHANGE` (R307). -/
  | portUpChange (port : Nat) (up : Bool)
  /-- `SERDO_FORWARD` (R294). -/
  | serdoForward (port : Nat) (m : SerdoMsg)
  /-- `HELLO` (R293). -/
  | hello (port : Nat) (m : SerdoMsg)
  /-- `ELECT` (R302). -/
  | elect (port : Nat) (m : SerdoMsg)
  /-- `ECHO` (R302). -/
  | echo (port : Nat) (m : SerdoMsg)
  /-- `ASSIGN` (R303). -/
  | assign (port : Nat) (m : SerdoMsg)
  /-- `MAP` (R304). -/
  | mapRec (port : Nat) (m : SerdoMsg)
  /-- `ROUTES_READY` (R300). -/
  | routesReady (port : Nat) (m : SerdoMsg)
  /-- `READY` (R300). -/
  | ready (port : Nat) (m : SerdoMsg)
  /-- `LINK_EVENT` (R286). -/
  | linkEvent (port : Nat) (m : SerdoMsg)
  /-- `NODE_DOWN` (R307). -/
  | nodeDown (port : Nat) (m : SerdoMsg)
  /-- `JOIN_REQUEST` (R306). -/
  | joinRequest (port : Nat) (m : SerdoMsg)
  /-- `MOSAIC_JOIN` (R273). -/
  | mosaicJoin (port : Nat) (m : SerdoMsg)
  /-- `MOSAIC_LEAVE` (R276). -/
  | mosaicLeave (port : Nat) (m : SerdoMsg)
  /-- `KEY_AGREE` (R295). -/
  | keyAgree (port : Nat) (m : SerdoMsg)
  /-- `KEY_CONFIRM` (R295). -/
  | keyConfirm (port : Nat) (m : SerdoMsg)
  /-- `MOSAIC_READY` (R273). -/
  | mosaicReady (port : Nat) (m : SerdoMsg)
  /-- `EPOCH_PREPARE` (R286). -/
  | epochPrepare (port : Nat) (m : SerdoMsg)
  /-- `EPOCH_ACK` (R286). -/
  | epochAck (port : Nat) (m : SerdoMsg)
  /-- `EPOCH_SWITCH` (R286). -/
  | epochSwitch (port : Nat) (m : SerdoMsg)
  /-- `EPOCH_DRAINED` (R286). -/
  | epochDrained (port : Nat) (m : SerdoMsg)
  /-- `EPOCH_FREE` (R284). -/
  | epochFree (port : Nat) (m : SerdoMsg)
  /-- `MIG_QUIESCE` (R289). -/
  | migQuiesce (port : Nat) (m : SerdoMsg)
  /-- `MIG_HELD` (R289). -/
  | migHeld (port : Nat) (m : SerdoMsg)
  /-- `MIG_RESUME` (R289). -/
  | migResume (port : Nat) (m : SerdoMsg)
  /-- `WRITE_TRACK_REPORT` (R290). -/
  | writeTrackReport (chan granule : Nat)
  /-- `FLAG_SET` (R135). -/
  | flagSet (port : Nat) (m : SerdoMsg)
  /-- `FLAG_REPLY` (R135). -/
  | flagReply (port : Nat) (m : SerdoMsg)
  /-- `COLL_STEP` (R308). -/
  | collStep (port : Nat) (m : SerdoMsg)
  /-- `DISCOVERY_TRAINING_EXPIRY` (R301). -/
  | discoveryTrainingExpiry
  /-- `HELLO_PHASE_EXPIRY` (R300). -/
  | helloPhaseExpiry
  /-- `DISCOVERY_WAVE_EXPIRY` (R305). -/
  | discoveryWaveExpiry
  /-- `FRU_READ` (R297). -/
  | fruRead (data : Option (List Byte))
  /-- `CMIS_READ` (R299). -/
  | cmisRead (port : Nat) (data : Option (List Byte))
  /-- `SQUARE_BOUNDARY` (R313). -/
  | squareBoundary (slot : Nat)
  /-- `HEAD_ADVANCE` (R317). -/
  | headAdvance (slot : Nat)
  /-- `OVERRUN_LIMIT_EXPIRY` (R321). -/
  | overrunLimitExpiry (q : Nat)
  /-- `BUCKET_REFILL` (R322). -/
  | bucketRefill (slot : Nat)
  /-- `UPDATE_POINT` (R324). -/
  | updatePoint (c : Nat)
  /-- `POWER_WINDOW` (R324). -/
  | powerWindow
  /-- `KEY_SIDEBAND_ACK` (R344). -/
  | keySidebandAck (inst : Nat)
  /-- `KEY_SIDEBAND_ACK_EXPIRY` (R344). -/
  | keySidebandAckExpiry (inst : Nat)
  /-- `KS_DROP` (R344). -/
  | ksDrop (inst : Nat)
  /-- `KS_DRAIN_ACK` (R347). -/
  | ksDrainAck (port : Nat)
  /-- `TEARDOWN_STEP` (R347). -/
  | teardownStep
  /-- `TEARDOWN_DRAIN_EXPIRY` (R348). -/
  | teardownDrainExpiry
  /-- `TR_ACK` (R349). -/
  | trAck
  /-- `TR_ACK_EXPIRY` (R350). -/
  | trAckExpiry
  /-- `ENTROPY_HEALTH_FAIL` (R328). -/
  | entropyHealthFail
  /-- `QUIET_PERIOD_EXPIRY` (R359). -/
  | quietPeriodExpiry (src : Nat)
  /-- `HANG_WATCHDOG_EXPIRY` (R366). -/
  | hangWatchdogExpiry (q : Nat)
  /-- `PART_RESET_STEP` (R367). -/
  | partResetStep (slot : Nat)
  /-- `COLLECTOR_SELF_FAULT` (R364). -/
  | collectorSelfFault
  /-- `CLOCK_LOSS` (R372). -/
  | clockLoss
  /-- `CLOCK_RETURN` (R372). -/
  | clockReturn
  /-- `HOST_LEASE_EXPIRY` (R374). -/
  | hostLeaseExpiry
  /-- `BYPASS` (R363). -/
  | bypass
  /-- `IDCODE` (R363). -/
  | idcode
  /-- `SCAN` (R363). -/
  | scan
  /-- `MBIST` (R363). -/
  | mbist
  /-- `UNLOCK` (R363). -/
  | unlock
  /-- `AVS_READVOUT` (R389). -/
  | avsReadvout (mv : Nat)
  /-- `DIV_ACK` (R389). -/
  | divAck
  /-- `DVFS_SETTLE_EXPIRY` (R389). -/
  | dvfsSettleExpiry
  /-- `DIV_ACK_EXPIRY` (R389). -/
  | divAckExpiry
  /-- `POWER_SAMPLE` (R391). -/
  | powerSample (rails : List Nat)
  /-- `EMERGENCY_ENTRY` (R392). -/
  | emergencyEntry (pin : EmergPin)
  /-- `EMERGENCY_CLEAR_EXPIRY` (R393). -/
  | emergencyClearExpiry
  /-- `ACTIVATION_SWITCH` (R402). -/
  | activationSwitch
  /-- `REGISTER_READ` (R430). -/
  | registerRead (bar2 : Bool) (addr : BitVec 24) (fn : Bool) (id : BitVec 3)
  /-- `ADMIN_WINDOW_WRITE` (R406). -/
  | adminWindowWrite (a : MmioWrite)
  /-- `HOST_WRITE_RESPONSE` (R416). -/
  | hostWriteResponse (id : Nat) (status : BitVec 2)
  /-- `AVS_TARGET_WRITE_DONE` (R389). -/
  | avsTargetWriteDone
  /-- `FLASH_OPERATION_DONE` (R400). -/
  | flashOperationDone (res : FlashResult)
  /-- `EMERGENCY_INPUT_RISE` (R393). -/
  | emergencyInputRise (pin : EmergPin)
  /-- `SERDO_UNLISTED_TYPE` (R294). -/
  | serdoUnlistedType (port : Nat) (m : SerdoMsg)
deriving DecidableEq, Repr

end Sys2Proof
end

