-- ==== Sys2Proof/Config.lean ====
section
/-! DEFINITION. What an implementation fixes: the counts of the three configurations (R1), the integrator's tie-offs
of `SEQ_ENGINE` (R207), and the free values of the model, which have no body. -/

namespace Sys2Proof

/-- Sequencers of a configuration (R1). -/
def ChipConfig.sequencers : ChipConfig → Nat
  | .qcp4k => 16
  | .qcp8k => 32
  | .qcp16k => 64

/-- Cores served (R1). -/
def ChipConfig.cores (c : ChipConfig) : Nat := 8 * c.sequencers

/-- Contexts (R1). -/
def ChipConfig.contexts (c : ChipConfig) : Nat := 4 * c.sequencers

/-- Queues: six to a context (R1). -/
def ChipConfig.queues (c : ChipConfig) : Nat := 6 * c.contexts

/-- Sequence identifiers (R1). -/
def ChipConfig.sequences (c : ChipConfig) : Nat := 256 * c.sequencers

/-- Link ports (R1). -/
def ChipConfig.ports : ChipConfig → Nat
  | .qcp4k => 24
  | .qcp8k => 48
  | .qcp16k => 72

/-- Memory channels (R1). -/
def ChipConfig.channels (c : ChipConfig) : Nat := c.sequencers

/-- `GLB_ID.CONFIG` code of a configuration. -/
def ChipConfig.code : ChipConfig → Nat
  | .qcp4k => 0
  | .qcp8k => 1
  | .qcp16k => 2

/-- `SEQ_ENGINE.NCLASS`, tied by the integrator; the reference integration's value (R207). -/
def Config.nclass : Nat := 2

/-- `SEQ_ENGINE.SPAN_BYTES`, tied by the integrator; the reference integration's value (R207). -/
def Config.spanBytes : Nat := 8

/-- `SEQ_ENGINE.MEM_UNITS`, tied by the integrator; the reference integration's value (R207). -/
def Config.memUnits : Nat := 8192

/-- Free values: the `n`-th value of the width asked that the manual leaves open. Nothing constrains it; `n` is the
block's own counter `fresh`. DESIGN CHOICE, log entry 2. -/
opaque Config.freeValue (w n : Nat) : BitVec w

/-- Whether the node holds state pool `p`: the translation that decides it lies outside the block (R240). DESIGN CHOICE,
log entry 8: a free predicate. -/
opaque Config.poolOnNode (p node : Nat) : Bool

/-- One change of the fabric that an epoch change carries (R286): a link of a node up to a peer's port, or down; a node
that joins or leaves; a channel of a mosaic that moves to another channel (R289). -/
inductive EpochEdit where
  | linkUp (node port peer peerPort : Nat)
  | linkDown (node port : Nat)
  | nodeUp (node serial : Nat)
  | nodeDown (node : Nat)
  | move (mosaic node chan dstNode dstChan : Nat)
  | none
deriving DecidableEq, Repr

/-- Bytes 1 to 63 of an EPOCH_PREPARE body, whose coding the manual does not give (R294). DESIGN CHOICE, log entry 7: an
uninterpreted coding. -/
opaque Config.epochBytes (edits : List EpochEdit) : List Byte

/-- The edits that bytes 1 to 63 of a received EPOCH_PREPARE body name. DESIGN CHOICE, log entry 7. -/
opaque Config.epochEdits (body : List Byte) : List EpochEdit

end Sys2Proof
end

