-- ==== Sys2Proof/Machine/Tables.lean ====
section
/-! DEFINITION. Sparse tables in one canonical form (keys strictly rising, no entry equal to the default), and the
bit-field and byte-order helpers the rest of the machine uses (R6, R7). -/

namespace Sys2Proof.Machine

/-- A table indexed by a number; what an unlisted key holds is the default its reader names. -/
abbrev Table (α : Type) := List (Nat × α)

/-- The value a table holds at key `k`, `d` where it lists none. -/
def tget {α : Type} (d : α) : Table α → Nat → α
  | [], _ => d
  | (k, v) :: t, j => if j = k then v else tget d t j

/-- A table without its entries for key `j`. -/
def terase {α : Type} : Table α → Nat → Table α
  | [], _ => []
  | (k, v) :: t, j => if j = k then terase t j else (k, v) :: terase t j

/-- Insert `(j, v)` before the first larger key. -/
def tinsert {α : Type} (j : Nat) (v : α) : Table α → Table α
  | [] => [(j, v)]
  | (k, w) :: t => if j < k then (j, v) :: (k, w) :: t else (k, w) :: tinsert j v t

/-- Write `v` at key `j`: writing the default removes the entry. -/
def tset {α : Type} [DecidableEq α] (d : α) (t : Table α) (j : Nat) (v : α) : Table α :=
  if v = d then terase t j else tinsert j v (terase t j)

/-- Apply `f` at key `j`. -/
def tmod {α : Type} [DecidableEq α] (d : α) (t : Table α) (j : Nat) (f : α → α) : Table α :=
  tset d t j (f (tget d t j))

/-- Apply `f` at every listed key, entries that become the default being removed. -/
def tmap {α : Type} [DecidableEq α] (d : α) : Table α → (Nat → α → α) → Table α
  | [], _ => []
  | (k, v) :: t, f => if f k v = d then tmap d t f else (k, f k v) :: tmap d t f

/-- The keys of a table rise strictly and no entry holds the default. -/
def twf {α : Type} [DecidableEq α] (d : α) : Table α → Bool
  | [] => true
  | [(_, v)] => decide (v ≠ d)
  | (k, v) :: (k', v') :: t => decide (k < k') && decide (v ≠ d) && twf d ((k', v') :: t)

/-- Bits `[lo + w - 1 : lo]` of a number. -/
def fld (x lo w : Nat) : Nat := x / 2 ^ lo % 2 ^ w

/-- Bit `i` of a number. -/
def bitOf (x i : Nat) : Bool := x / 2 ^ i % 2 == 1

/-- A Boolean as a bit. -/
def b2n (b : Bool) : Nat := if b then 1 else 0

/-- A field's value at its place. -/
def at_ (v lo : Nat) : Nat := v * 2 ^ lo

/-- Little-endian value of a byte list (R7). -/
def leNat : List Byte → Nat
  | [] => 0
  | b :: bs => b.toNat + 256 * leNat bs

/-- `n` as `len` little-endian bytes (R7). -/
def leBytes : Nat → Nat → List Byte
  | _, 0 => []
  | n, len + 1 => BitVec.ofNat 8 n :: leBytes (n / 256) len

/-- Bytes `[off, off + len)` of a list. -/
def slice (l : List Byte) (off len : Nat) : List Byte := (l.drop off).take len

/-- 32-bit word `i` of a structure (R7). -/
def word (l : List Byte) (i : Nat) : Nat := leNat (slice l (4 * i) 4)

/-- 64-bit value at words `i`, `i + 1`. -/
def dword (l : List Byte) (i : Nat) : Nat := leNat (slice l (4 * i) 8)

/-- Overwrite bytes from `off` with `bs`, the list keeping its length. -/
def overlay (l : List Byte) (off : Nat) (bs : List Byte) : List Byte :=
  (l.take off ++ bs ++ l.drop (off + bs.length)).take l.length

/-- All bytes of a list are zero. -/
def allZero (l : List Byte) : Bool := l.all (· == 0)

/-- Saturating addition: counters of the manual stop at their all-ones value. -/
def satAdd (w x n : Nat) : Nat := min (x + n) (2 ^ w - 1)

/-- Ceiling division. -/
def ceilDiv (a b : Nat) : Nat := (a + b - 1) / b

/-- Ceiling of the base-2 logarithm (0 for 0 and 1). -/
def clog2 (n : Nat) : Nat := if n ≤ 1 then 0 else Nat.log2 (n - 1) + 1

/-- Set bit `i` of a mask. -/
def setBit (x i : Nat) : Nat := if bitOf x i then x else x + 2 ^ i

/-- Clear bit `i` of a mask. -/
def clrBit (x i : Nat) : Nat := if bitOf x i then x - 2 ^ i else x

/-- Members `0 .. n-1` whose bit is set, ascending. -/
def bitsOf (x n : Nat) : List Nat := (List.range n).filter (bitOf x ·)

/-- The least element of `0 .. n-1` with `p`. -/
def firstBelow (n : Nat) (p : Nat → Bool) : Option Nat := (List.range n).find? p

/-- Serial arithmetic "a is after b" on 32 bits (R396). -/
def serialAfter (a b : Nat) : Bool := let d := (a + 2 ^ 32 - b) % 2 ^ 32; d ≠ 0 && d < 2 ^ 31

/-- Apply `f` to the first element of a list with `p`. -/
def modFirst {α : Type} (p : α → Bool) (f : α → α) : List α → List α
  | [] => []
  | x :: xs => if p x then f x :: xs else x :: modFirst p f xs

end Sys2Proof.Machine
end

