-- ==== Sys2Proof/Machine/Crypto.lean ====
section
/-! DEFINITION. The published standards the block computes with: SHA-384 (transcript, measurements), AES-128 (sampling
generator), AES-256 key wrap, AES-256-GCM, CTR_DRBG with AES-256, HMAC and HKDF over SHA-384, and P-384 signatures and key
agreement. The manual names the standards; their algorithms and constants are PRESUMED, log
entry 5. -/

namespace Sys2Proof.Machine

/-! ### SHA-384 -/

/-- The words that a list of packed constants holds, `n` of 64 bits in each, the first in the highest bits. -/
def unpackWords (n : Nat) (l : List Nat) : List Nat :=
  (l.map (fun x => (List.range n).map (fun i => x / 2 ^ (64 * (n - 1 - i)) % 2 ^ 64))).flatten

/-- The first 64 bits of the fractional parts of the cube roots of the first 80 primes, five to a number: the round constants
of FIPS 180-4. -/
def shaK : List Nat := unpackWords 5
  [0x428a2f98d728ae227137449123ef65cdb5c0fbcfec4d3b2fe9b5dba58189dbbc3956c25bf348b538,
   0x59f111f1b605d019923f82a4af194f9bab1c5ed5da6d8118d807aa98a303024212835b0145706fbe,
   0x243185be4ee4b28c550c7dc3d5ffb4e272be5d74f27b896f80deb1fe3b1696b19bdc06a725c71235,
   0xc19bf174cf692694e49b69c19ef14ad2efbe4786384f25e30fc19dc68b8cd5b5240ca1cc77ac9c65,
   0x2de92c6f592b02754a7484aa6ea6e4835cb0a9dcbd41fbd476f988da831153b5983e5152ee66dfab,
   0xa831c66d2db43210b00327c898fb213fbf597fc7beef0ee4c6e00bf33da88fc2d5a79147930aa725,
   0x06ca6351e003826f142929670a0e6e7027b70a8546d22ffc2e1b21385c26c9264d2c6dfc5ac42aed,
   0x53380d139d95b3df650a73548baf63de766a0abb3c77b2a881c2c92e47edaee692722c851482353b,
   0xa2bfe8a14cf10364a81a664bbc423001c24b8b70d0f89791c76c51a30654be30d192e819d6ef5218,
   0xd69906245565a910f40e35855771202a106aa07032bbd1b819a4c116b8d2d0c81e376c085141ab53,
   0x2748774cdf8eeb9934b0bcb5e19b48a8391c0cb3c5c95a634ed8aa4ae3418acb5b9cca4f7763e373,
   0x682e6ff3d6b2b8a3748f82ee5defb2fc78a5636f43172f6084c87814a1f0ab728cc702081a6439ec,
   0x90befffa23631e28a4506cebde82bde9bef9a3f7b2c67915c67178f2e372532bca273eceea26619c,
   0xd186b8c721c0c207eada7dd6cde0eb1ef57d4f7fee6ed17806f067aa72176fba0a637dc5a2c898a6,
   0x113f9804bef90dae1b710b35131c471b28db77f523047d8432caab7b40c724933c9ebe0a15c9bebc,
   0x431d67c49c100d4c4cc5d4becb3e42b6597f299cfc657e2a5fcb6fab3ad6faec6c44198c4a475817]

/-- The starting values of SHA-384 in FIPS 180-4: the first 64 bits of the fractional parts of the square roots of the 9th to
16th primes, four to a number. -/
def shaH : List Nat := unpackWords 4
  [0xcbbb9d5dc1059ed8629a292a367cd5079159015a3070dd17152fecd8f70e5939,
   0x67332667ffc00b318eb44a8768581511db0c2e0d64f98fa747b5481dbefa4fa4]

/-- Big-endian value of a byte list. -/
def beNat (l : List Byte) : Nat := l.foldl (fun a b => a * 256 + b.toNat) 0

/-- `n` as `len` big-endian bytes. -/
def beBytes (n len : Nat) : List Byte := (leBytes n len).reverse

/-- 64-bit addition. -/
def add64 (a b : Nat) : Nat := (a + b) % 2 ^ 64

/-- 64-bit right rotation. -/
def ror64 (x n : Nat) : Nat := Nat.lor (x / 2 ^ n) (x * 2 ^ (64 - n) % 2 ^ 64)

/-- The four sigma functions of FIPS 180-4. -/
def shaS0 (x : Nat) : Nat := Nat.xor (Nat.xor (ror64 x 28) (ror64 x 34)) (ror64 x 39)
/-- Large sigma 1. -/
def shaS1 (x : Nat) : Nat := Nat.xor (Nat.xor (ror64 x 14) (ror64 x 18)) (ror64 x 41)
/-- Small sigma 0. -/
def shaG0 (x : Nat) : Nat := Nat.xor (Nat.xor (ror64 x 1) (ror64 x 8)) (x / 2 ^ 7)
/-- Small sigma 1. -/
def shaG1 (x : Nat) : Nat := Nat.xor (Nat.xor (ror64 x 19) (ror64 x 61)) (x / 2 ^ 6)

/-- Working variables of a compression. -/
structure ShaSt where
  a : Nat
  b : Nat
  c : Nat
  d : Nat
  e : Nat
  f : Nat
  g : Nat
  h : Nat
deriving DecidableEq, Repr

/-- One round. -/
def shaRound (s : ShaSt) (k w : Nat) : ShaSt :=
  let ch := Nat.xor (Nat.land s.e s.f) (Nat.land (2 ^ 64 - 1 - s.e) s.g)
  let maj := Nat.xor (Nat.xor (Nat.land s.a s.b) (Nat.land s.a s.c)) (Nat.land s.b s.c)
  let t1 := (s.h + shaS1 s.e + ch + k + w) % 2 ^ 64
  { a := (t1 + shaS0 s.a + maj) % 2 ^ 64, b := s.a, c := s.b, d := s.c, e := add64 s.d t1, f := s.e, g := s.f,
    h := s.g }

/-- The next word of the message schedule from the last sixteen, oldest first. -/
def shaNext (w : List Nat) : Nat :=
  match w with
  | [w0, w1, _, _, _, _, _, _, _, w9, _, _, _, _, w14, _] => (shaG1 w14 + w9 + shaG0 w1 + w0) % 2 ^ 64
  | _ => 0

/-- The rounds: consume the constants, sliding the schedule window. -/
def shaRounds : List Nat → List Nat → ShaSt → ShaSt
  | [], _, s => s
  | k :: ks, w, s =>
    match w with
    | [] => s
    | w0 :: rest => shaRounds ks (rest ++ [shaNext w]) (shaRound s k w0)

/-- The sixteen words of a 128-byte block. -/
def shaWords (blk : List Byte) : List Nat := (List.range 16).map (fun i => beNat (slice blk (8 * i) 8))

/-- Compress one 128-byte block. -/
def shaBlock (s : ShaSt) (blk : List Byte) : ShaSt :=
  let r := shaRounds shaK (shaWords blk) s
  { a := add64 s.a r.a, b := add64 s.b r.b, c := add64 s.c r.c, d := add64 s.d r.d, e := add64 s.e r.e,
    f := add64 s.f r.f, g := add64 s.g r.g, h := add64 s.h r.h }

/-- Compress block after block. -/
def shaBlocks : Nat → List Byte → ShaSt → ShaSt
  | 0, _, s => s
  | fuel + 1, m, s => if m.isEmpty then s else shaBlocks fuel (m.drop 128) (shaBlock s (m.take 128))

/-- The starting state of SHA-384. -/
def shaInit : ShaSt :=
  match shaH with
  | [a, b, c, d, e, f, g, h] => { a := a, b := b, c := c, d := d, e := e, f := f, g := g, h := h }
  | _ => { a := 0, b := 0, c := 0, d := 0, e := 0, f := 0, g := 0, h := 0 }

/-- SHA-384 of a byte string, 48 bytes in digest order. -/
def sha384 (m : List Byte) : List Byte :=
  let zeros := (239 - m.length % 128) % 128
  let p := m ++ [0x80] ++ List.replicate zeros 0 ++ beBytes (8 * m.length) 16
  let s := shaBlocks (p.length / 128 + 1) p shaInit
  beBytes s.a 8 ++ beBytes s.b 8 ++ beBytes s.c 8 ++ beBytes s.d 8 ++ beBytes s.e 8 ++ beBytes s.f 8

/-! ### HMAC and HKDF over SHA-384 -/

/-- XOR of each byte with a constant. -/
def xorAll (l : List Byte) (x : Byte) : List Byte := l.map (· ^^^ x)

/-- HMAC-SHA-384. -/
def hmac384 (key m : List Byte) : List Byte :=
  let k := if 128 < key.length then sha384 key else key
  let k := k ++ List.replicate (128 - k.length) 0
  sha384 (xorAll k 0x5c ++ sha384 (xorAll k 0x36 ++ m))

/-- HKDF with SHA-384, one output block (at most 48 bytes). -/
def hkdf384 (salt ikm info : List Byte) (len : Nat) : List Byte :=
  (hmac384 (hmac384 salt ikm) (info ++ [1])).take len

/-! ### AES -/

/-- AES S-box, part 0. -/
def aesS0 : List Nat :=
  [0x63, 0x7c, 0x77, 0x7b, 0xf2, 0x6b, 0x6f, 0xc5, 0x30, 0x01, 0x67, 0x2b, 0xfe, 0xd7, 0xab, 0x76,
   0xca, 0x82, 0xc9, 0x7d, 0xfa, 0x59, 0x47, 0xf0, 0xad, 0xd4, 0xa2, 0xaf, 0x9c, 0xa4, 0x72, 0xc0,
   0xb7, 0xfd, 0x93, 0x26, 0x36, 0x3f, 0xf7, 0xcc, 0x34, 0xa5, 0xe5, 0xf1, 0x71, 0xd8, 0x31, 0x15,
   0x04, 0xc7, 0x23, 0xc3, 0x18, 0x96, 0x05, 0x9a, 0x07, 0x12, 0x80, 0xe2, 0xeb, 0x27, 0xb2, 0x75,
   0x09, 0x83, 0x2c, 0x1a, 0x1b, 0x6e, 0x5a, 0xa0, 0x52, 0x3b, 0xd6, 0xb3, 0x29, 0xe3, 0x2f, 0x84,
   0x53, 0xd1, 0x00, 0xed, 0x20, 0xfc, 0xb1, 0x5b, 0x6a, 0xcb, 0xbe, 0x39, 0x4a, 0x4c, 0x58, 0xcf,
   0xd0, 0xef, 0xaa, 0xfb, 0x43, 0x4d, 0x33, 0x85, 0x45, 0xf9, 0x02, 0x7f, 0x50, 0x3c, 0x9f, 0xa8,
   0x51, 0xa3, 0x40, 0x8f, 0x92, 0x9d, 0x38, 0xf5, 0xbc, 0xb6, 0xda, 0x21, 0x10, 0xff, 0xf3, 0xd2]

/-- AES S-box, part 1. -/
def aesS1 : List Nat :=
  [0xcd, 0x0c, 0x13, 0xec, 0x5f, 0x97, 0x44, 0x17, 0xc4, 0xa7, 0x7e, 0x3d, 0x64, 0x5d, 0x19, 0x73,
   0x60, 0x81, 0x4f, 0xdc, 0x22, 0x2a, 0x90, 0x88, 0x46, 0xee, 0xb8, 0x14, 0xde, 0x5e, 0x0b, 0xdb,
   0xe0, 0x32, 0x3a, 0x0a, 0x49, 0x06, 0x24, 0x5c, 0xc2, 0xd3, 0xac, 0x62, 0x91, 0x95, 0xe4, 0x79,
   0xe7, 0xc8, 0x37, 0x6d, 0x8d, 0xd5, 0x4e, 0xa9, 0x6c, 0x56, 0xf4, 0xea, 0x65, 0x7a, 0xae, 0x08,
   0xba, 0x78, 0x25, 0x2e, 0x1c, 0xa6, 0xb4, 0xc6, 0xe8, 0xdd, 0x74, 0x1f, 0x4b, 0xbd, 0x8b, 0x8a,
   0x70, 0x3e, 0xb5, 0x66, 0x48, 0x03, 0xf6, 0x0e, 0x61, 0x35, 0x57, 0xb9, 0x86, 0xc1, 0x1d, 0x9e,
   0xe1, 0xf8, 0x98, 0x11, 0x69, 0xd9, 0x8e, 0x94, 0x9b, 0x1e, 0x87, 0xe9, 0xce, 0x55, 0x28, 0xdf,
   0x8c, 0xa1, 0x89, 0x0d, 0xbf, 0xe6, 0x42, 0x68, 0x41, 0x99, 0x2d, 0x0f, 0xb0, 0x54, 0xbb, 0x16]

/-- AES S-box. -/
def aesS : List Nat := aesS0 ++ aesS1

/-- AES inverse S-box, part 0. -/
def aesI0 : List Nat :=
  [0x52, 0x09, 0x6a, 0xd5, 0x30, 0x36, 0xa5, 0x38, 0xbf, 0x40, 0xa3, 0x9e, 0x81, 0xf3, 0xd7, 0xfb,
   0x7c, 0xe3, 0x39, 0x82, 0x9b, 0x2f, 0xff, 0x87, 0x34, 0x8e, 0x43, 0x44, 0xc4, 0xde, 0xe9, 0xcb,
   0x54, 0x7b, 0x94, 0x32, 0xa6, 0xc2, 0x23, 0x3d, 0xee, 0x4c, 0x95, 0x0b, 0x42, 0xfa, 0xc3, 0x4e,
   0x08, 0x2e, 0xa1, 0x66, 0x28, 0xd9, 0x24, 0xb2, 0x76, 0x5b, 0xa2, 0x49, 0x6d, 0x8b, 0xd1, 0x25,
   0x72, 0xf8, 0xf6, 0x64, 0x86, 0x68, 0x98, 0x16, 0xd4, 0xa4, 0x5c, 0xcc, 0x5d, 0x65, 0xb6, 0x92,
   0x6c, 0x70, 0x48, 0x50, 0xfd, 0xed, 0xb9, 0xda, 0x5e, 0x15, 0x46, 0x57, 0xa7, 0x8d, 0x9d, 0x84,
   0x90, 0xd8, 0xab, 0x00, 0x8c, 0xbc, 0xd3, 0x0a, 0xf7, 0xe4, 0x58, 0x05, 0xb8, 0xb3, 0x45, 0x06,
   0xd0, 0x2c, 0x1e, 0x8f, 0xca, 0x3f, 0x0f, 0x02, 0xc1, 0xaf, 0xbd, 0x03, 0x01, 0x13, 0x8a, 0x6b]

/-- AES inverse S-box, part 1. -/
def aesI1 : List Nat :=
  [0x3a, 0x91, 0x11, 0x41, 0x4f, 0x67, 0xdc, 0xea, 0x97, 0xf2, 0xcf, 0xce, 0xf0, 0xb4, 0xe6, 0x73,
   0x96, 0xac, 0x74, 0x22, 0xe7, 0xad, 0x35, 0x85, 0xe2, 0xf9, 0x37, 0xe8, 0x1c, 0x75, 0xdf, 0x6e,
   0x47, 0xf1, 0x1a, 0x71, 0x1d, 0x29, 0xc5, 0x89, 0x6f, 0xb7, 0x62, 0x0e, 0xaa, 0x18, 0xbe, 0x1b,
   0xfc, 0x56, 0x3e, 0x4b, 0xc6, 0xd2, 0x79, 0x20, 0x9a, 0xdb, 0xc0, 0xfe, 0x78, 0xcd, 0x5a, 0xf4,
   0x1f, 0xdd, 0xa8, 0x33, 0x88, 0x07, 0xc7, 0x31, 0xb1, 0x12, 0x10, 0x59, 0x27, 0x80, 0xec, 0x5f,
   0x60, 0x51, 0x7f, 0xa9, 0x19, 0xb5, 0x4a, 0x0d, 0x2d, 0xe5, 0x7a, 0x9f, 0x93, 0xc9, 0x9c, 0xef,
   0xa0, 0xe0, 0x3b, 0x4d, 0xae, 0x2a, 0xf5, 0xb0, 0xc8, 0xeb, 0xbb, 0x3c, 0x83, 0x53, 0x99, 0x61,
   0x17, 0x2b, 0x04, 0x7e, 0xba, 0x77, 0xd6, 0x26, 0xe1, 0x69, 0x14, 0x63, 0x55, 0x21, 0x0c, 0x7d]

/-- AES inverse S-box. -/
def aesI : List Nat := aesI0 ++ aesI1

/-- A table entry as a byte. -/
def tabByte (t : List Nat) (x : Byte) : Byte := BitVec.ofNat 8 (t.getD x.toNat 0)

/-- S-box. -/
def subB (x : Byte) : Byte := tabByte aesS x

/-- Doubling in GF(2^8). -/
def xtime (x : Byte) : Byte := if x.toNat < 128 then x <<< 1 else (x <<< 1) ^^^ 0x1b

/-- Multiplication in GF(2^8) by a small constant. -/
def gmulB (c : Nat) (x : Byte) : Byte :=
  let x2 := xtime x; let x4 := xtime x2; let x8 := xtime x4
  (if bitOf c 0 then x else 0) ^^^ (if bitOf c 1 then x2 else 0) ^^^ (if bitOf c 2 then x4 else 0)
    ^^^ (if bitOf c 3 then x8 else 0)

/-- Byte-wise XOR. -/
def xorB (a b : List Byte) : List Byte := List.zipWith (· ^^^ ·) a b

/-- Key expansion: `w` holds the words so far, newest first. -/
def aesExpand (nk : Nat) : Nat → Nat → Byte → List (List Byte) → List (List Byte)
  | 0, _, _, w => w
  | fuel + 1, i, rc, w =>
    let t := w.headD []
    let old := w.getD (nk - 1) []
    if i % nk = 0 then
      let r := (t.drop 1 ++ t.take 1).map subB
      aesExpand nk fuel (i + 1) (xtime rc) (xorB old (xorB r [rc, 0, 0, 0]) :: w)
    else if nk = 8 ∧ i % nk = 4 then aesExpand nk fuel (i + 1) rc (xorB old (t.map subB) :: w)
    else aesExpand nk fuel (i + 1) rc (xorB old t :: w)

/-- The round keys of a 16- or 32-byte key, sixteen bytes each. -/
def aesKeys (key : List Byte) : List (List Byte) :=
  let nk := key.length / 4
  let n := 4 * (nk + 7)
  let ws := (aesExpand nk (n - nk) nk 1 ((List.range nk).map (fun i => slice key (4 * i) 4)).reverse).reverse
  (List.range (nk + 7)).map (fun i => (slice' ws (4 * i) 4).flatten)
where
  /-- A slice of a list of words. -/
  slice' (l : List (List Byte)) (i n : Nat) : List (List Byte) := (l.drop i).take n

/-- ShiftRows, as the source index of each byte. -/
def shiftRows (s : List Byte) : List Byte := (List.range 16).map (fun i => s.getD ((i + 4 * (i % 4)) % 16) 0)

/-- Inverse ShiftRows. -/
def unshiftRows (s : List Byte) : List Byte := (List.range 16).map (fun i => s.getD ((i + 12 * (i % 4)) % 16) 0)

/-- MixColumns with the given row of coefficients. -/
def mixCols (c : List Nat) (s : List Byte) : List Byte :=
  (List.range 16).map (fun i =>
    let col := 4 * (i / 4)
    let row := i % 4
    ((List.range 4).map (fun j => gmulB (c.getD ((j + 4 - row) % 4) 0) (s.getD (col + j) 0))).foldl (· ^^^ ·) 0)

/-- The rounds of the cipher after the first key addition. -/
def aesRounds : List (List Byte) → List Byte → List Byte
  | [], s => s
  | [k], s => xorB (shiftRows (s.map subB)) k
  | k :: ks, s => aesRounds ks (xorB (mixCols [2, 3, 1, 1] (shiftRows (s.map subB))) k)

/-- AES encryption of one block. -/
def aesEncrypt (key blk : List Byte) : List Byte :=
  match aesKeys key with
  | [] => blk
  | k :: ks => aesRounds ks (xorB blk k)

/-- The inverse rounds, the keys in reverse order. -/
def aesUnrounds : List (List Byte) → List Byte → List Byte
  | [], s => s
  | [k], s => xorB ((unshiftRows s).map (tabByte aesI)) k
  | k :: ks, s => aesUnrounds ks (mixCols [14, 11, 13, 9] (xorB ((unshiftRows s).map (tabByte aesI)) k))

/-- AES decryption of one block. -/
def aesDecrypt (key blk : List Byte) : List Byte :=
  match (aesKeys key).reverse with
  | [] => blk
  | k :: ks => aesUnrounds ks (xorB blk k)

/-! ### AES key wrap (RFC 3394) -/

/-- One step of unwrapping: `a` the check register, `r` the blocks, `i` counting down from `6n`. -/
def unwrapStep (kek : List Byte) (n i : Nat) (a : List Byte) (r : List (List Byte)) : List Byte × List (List Byte) :=
  let k := (i - 1) % n
  let d := aesDecrypt kek (xorB a (beBytes i 8) ++ r.getD k [])
  (d.take 8, r.set k (d.drop 8))

/-- The steps of unwrapping, `i` down to 1. -/
def unwrapLoop (kek : List Byte) (n : Nat) : Nat → List Byte → List (List Byte) → List Byte × List (List Byte)
  | 0, a, r => (a, r)
  | i + 1, a, r => let x := unwrapStep kek n (i + 1) a r; unwrapLoop kek n i x.1 x.2

/-- AES key unwrap; none where the check value is wrong. -/
def aesUnwrap (kek w : List Byte) : Option (List Byte) :=
  let n := w.length / 8 - 1
  let r := (List.range n).map (fun i => slice w (8 * (i + 1)) 8)
  let x := unwrapLoop kek n (6 * n) (w.take 8) r
  if x.1 == List.replicate 8 0xa6 then some x.2.flatten else none

/-- The steps of wrapping. -/
def wrapLoop (kek : List Byte) (n : Nat) : Nat → Nat → List Byte → List (List Byte) → List Byte × List (List Byte)
  | 0, _, a, r => (a, r)
  | fuel + 1, i, a, r =>
    let k := (i - 1) % n
    let d := aesEncrypt kek (a ++ r.getD k [])
    wrapLoop kek n fuel (i + 1) (xorB (d.take 8) (beBytes i 8)) (r.set k (d.drop 8))

/-- AES key wrap. -/
def aesWrap (kek p : List Byte) : List Byte :=
  let n := p.length / 8
  let x := wrapLoop kek n (6 * n) 1 (List.replicate 8 0xa6) ((List.range n).map (fun i => slice p (8 * i) 8))
  x.1 ++ x.2.flatten

/-! ### GCM -/

/-- Multiplication in GF(2^128) as GCM orders its bits. -/
def ghashMul : Nat → Nat → Nat → Nat → Nat
  | 0, _, _, z => z
  | fuel + 1, x, v, z =>
    let z := if bitOf x fuel then Nat.xor z v else z
    let v := if v % 2 = 1 then Nat.xor (v / 2) (0xe1 * 2 ^ 120) else v / 2
    ghashMul fuel x v z

/-- GHASH over sixteen-byte blocks, the last one filled with zeros. -/
def ghash (h : Nat) : Nat → List Byte → Nat → Nat
  | 0, _, y => y
  | fuel + 1, m, y =>
    if m.isEmpty then y else
    let blk := m.take 16
    let x := beNat (blk ++ List.replicate (16 - blk.length) 0)
    ghash h fuel (m.drop 16) (ghashMul 128 (Nat.xor y x) h 0)

/-- AES-GCM authentication tag of additional data and a ciphertext, 96-bit nonce. -/
def gcmSeal (key nonce aad ct : List Byte) : List Byte :=
  let h := beNat (aesEncrypt key (List.replicate 16 0))
  let s := ghash h (aad.length / 16 + 1) aad 0
  let s := ghash h (ct.length / 16 + 1) ct s
  let s := ghashMul 128 (Nat.xor s (8 * aad.length * 2 ^ 64 + 8 * ct.length)) h 0
  xorB (beBytes s 16) (aesEncrypt key (nonce ++ [0, 0, 0, 1]))

/-- The tag of additional data with an empty plaintext. -/
def gcmTag (key nonce aad : List Byte) : List Byte := gcmSeal key nonce aad []

/-- The text of GCM's counter mode: encryption and decryption are the same. -/
def gcmText (key nonce m : List Byte) : List Byte :=
  ((List.range (ceilDiv m.length 16)).map (fun i =>
    xorB (slice m (16 * i) 16) (aesEncrypt key (nonce ++ beBytes (i + 2) 4)))).flatten

/-! ### CTR_DRBG with AES-256, no derivation function (NIST SP 800-90A) -/

/-- The `n` blocks that follow counter value `v`. -/
def drbgBlocks (key : List Byte) (v n : Nat) : List Byte :=
  ((List.range n).map (fun i => aesEncrypt key (beBytes ((v + 1 + i) % 2 ^ 128) 16))).flatten

/-- The update of key and counter with 48 bytes. -/
def drbgUpdate (key : List Byte) (v : Nat) (seed : List Byte) : List Byte × Nat :=
  let t := xorB (drbgBlocks key v 3) seed
  (t.take 32, beNat (t.drop 32))

/-! ### P-384 -/

/-- The field prime. -/
def p384P : Nat := 2 ^ 384 - 2 ^ 128 - 2 ^ 96 + 2 ^ 32 - 1
/-- The group order. -/
def p384N : Nat := 0xffffffffffffffffffffffffffffffffffffffffffffffffc7634d81f4372ddf581a0db248b0a77aecec196accc52973
/-- The curve constant b. -/
def p384B : Nat := 0xb3312fa7e23ee7e4988e056be3f82d19181d9c6efe8141120314088f5013875ac656398d8a2ed19d2a85c8edd3ec2aef
/-- The base point. -/
def p384G : Nat × Nat :=
  (0xaa87ca22be8b05378eb1c71ef320ad746e1d3b628ba79b9859f741e082542a385502f25dbf55296c3a545e3872760ab7,
   0x3617de4a96262c6f5d9e98bf9292dc29f8f41dbd289a147ce9da3113b5f0b8c00a60b1ce1d7e819d7a431d7c90ea0e5f)

/-- Modular power by squaring over at most `fuel` bits. -/
def powMod : Nat → Nat → Nat → Nat → Nat
  | 0, _, _, _ => 1
  | fuel + 1, b, e, m =>
    if e = 0 then 1 % m else
    let h := powMod fuel (b * b % m) (e / 2) m
    if e % 2 = 1 then b * h % m else h

/-- Inverse modulo a prime. -/
def invMod (a m : Nat) : Nat := powMod 400 a (m - 2) m

/-- Affine addition on the curve; none is the point at infinity. -/
def ecAdd (x y : Option (Nat × Nat)) : Option (Nat × Nat) :=
  match x, y with
  | none, q => q
  | p, none => p
  | some (x1, y1), some (x2, y2) =>
    let p := p384P
    if x1 = x2 ∧ (y1 + y2) % p = 0 then none else
    let l := if x1 = x2 then (3 * x1 * x1 + p - 3) * invMod (2 * y1) p % p
             else (y2 + p - y1) * invMod (x2 + p - x1) p % p
    let x3 := (l * l + 2 * p - x1 - x2) % p
    some (x3, (l * (x1 + p - x3) + p - y1) % p)

/-- Scalar multiplication, least significant bit first. -/
def ecMul : Nat → Nat → Option (Nat × Nat) → Option (Nat × Nat) → Option (Nat × Nat)
  | 0, _, _, acc => acc
  | fuel + 1, k, q, acc =>
    if k = 0 then acc else ecMul fuel (k / 2) (ecAdd q q) (if k % 2 = 1 then ecAdd acc q else acc)

/-- An uncompressed 97-byte point that lies on the curve. -/
def ecPoint (l : List Byte) : Option (Nat × Nat) :=
  let x := beNat (slice l 1 48); let y := beNat (slice l 49 48)
  if l.length = 97 ∧ l.headD 0 = 4 ∧ x < p384P ∧ y < p384P
    ∧ y * y % p384P = (x * x * x + (p384P - 3) * x + p384B) % p384P then some (x, y) else none

/-- ECDSA P-384 verification of a 96-byte signature (r then s) over a SHA-384 digest. -/
def ecdsaVerify (pub digest sig : List Byte) : Bool :=
  match ecPoint pub with
  | none => false
  | some q =>
    let r := beNat (slice sig 0 48); let s := beNat (slice sig 48 48)
    if r = 0 ∨ s = 0 ∨ p384N ≤ r ∨ p384N ≤ s ∨ sig.length ≠ 96 then false else
    let w := invMod s p384N
    let u1 := beNat digest * w % p384N; let u2 := r * w % p384N
    match ecAdd (ecMul 384 u1 (some p384G) none) (ecMul 384 u2 (some q) none) with
    | none => false
    | some (x, _) => x % p384N == r

/-- The public key of a secret scalar, 97 bytes uncompressed. -/
def ecPublic (d : Nat) : List Byte :=
  match ecMul 384 d (some p384G) none with
  | none => []
  | some (x, y) => 4 :: (beBytes x 48 ++ beBytes y 48)

/-- ECDSA P-384 signature of a digest with secret `d` and nonce scalar `k`. -/
def ecdsaSign (d k : Nat) (digest : List Byte) : List Byte :=
  match ecMul 384 k (some p384G) none with
  | none => []
  | some (x, _) =>
    let r := x % p384N
    beBytes r 48 ++ beBytes (invMod k p384N * ((beNat digest + r * d) % p384N) % p384N) 48

/-- ECDH shared secret: the x coordinate, 48 bytes; none for a point off the curve. -/
def ecdh (d : Nat) (pub : List Byte) : Option (List Byte) :=
  match ecPoint pub with
  | none => none
  | some q => (ecMul 384 d (some q) none).map (fun p => beBytes p.1 48)

end Sys2Proof.Machine
end

