-- ==== Sys2Proof/Machine/State.lean ====
section
/-! DEFINITION. The state of the block as plain data, unit by unit (R17), and its value after reset. -/

namespace Sys2Proof.Machine

/-! ### Codes -/

/-- The status codes of R424. -/
inductive Status where
  | ok | deferred | deferredEmergency
  | badOpcode | badParam | badAlign | badLength | badExtent | revMismatch | notPermitted | noResource | badState
  | queueGuilty | hang | waitCycle | overrunLimit | complUndeliverable | coreFault | memUncorrected | xlatFault
  | stateLost | lengthLimit | parked | turnAborted | mosaicBroken | stopToken | maxTokens
  | ctxTornDown | authFail | keyRevoked | stalemate
deriving DecidableEq, Repr

/-- Piece roles (R147). -/
inductive Role where
  | whole | partialR | combine | epilogue
deriving DecidableEq, Repr

/-- Bytes that a read delivered, or the status it failed with: that of `hp_dr_status` (R70) or `dd_cp_status` (R203). -/
inductive Fetched where
  | bytes (l : List Byte)
  | bad (s : BitVec 3)
deriving DecidableEq, Repr

/-! ### What the block drives on its ports -/

/-- A DMA descriptor (R202): common words and the words 3 to 7 of its body. -/
structure Desc where
  kind   : Nat
  tag    : Nat
  lanes  : Nat
  key    : Option Nat
  fab    : Bool
  ctx    : Nat
  epoch  : Nat
  ast    : Nat
  kdata  : Nat
  mosaic : Nat
  body   : List Nat
deriving DecidableEq, Repr

/-- Operations of the key sideband (R343). -/
inductive KsOp where
  | install | suspend | remove | bind | unbind | linkSet | linkClear
deriving DecidableEq, Repr

/-- The verdict of a route lookup (R282). -/
inductive Verdict where
  | route (out alt node chan : Nat)
  | reroute
  | notReady
  | drop
deriving DecidableEq, Repr

/-- One thing driven on a port: requests, answers, levels and pulses (R26). -/
inductive Output where
  | hostRead (id addr len : Nat) (ast : Option Nat)
  | hostWrite (id addr : Nat) (data : List Byte) (ast : Option Nat)
  | msix (vec : Nat)
  | mmioResp (id : Nat) (data : W64) (err : Bool)
  | blkUp (up : Bool)
  | faultFatal (asserted : Bool)
  | dd (n : Nat) (d : Desc)
  | ddFence (n : Nat) (up : Bool) (ast : Nat)
  | laneOp (n l : Nat) (data : Beat)
  | laneAbort (n l : Nat) (up : Bool)
  | route (port : Nat) (v : Verdict)
  | serdo (port : Nat) (m : SerdoMsg)
  | ks (inst : Nat) (op : KsOp) (handle : Nat) (args : List Nat)
  | ksInvalid (up : Bool)
  | ksFence (port : Nat) (up : Bool) (ast : Nat)
  | ksTrack (chan : Nat) (up : Bool)
  | tr (op : Nat) (ast : Nat)
  | pdSwitch (d : Nat) (on : Bool)
  | pdIso (d : Nat) (up : Bool)
  | pdRet (d : Nat) (up : Bool)
  | fuseRead
  | idSelect (bus module : Nat)
  | idWrite (bus addr off value : Nat)
  | idRead (bus addr off len : Nat)
  | epochCur (tag : Nat)
  | divStep (k : Nat)
  | avs (mv : Nat)
  | pmbus (addr cmd value : Nat)
  | flash (op : Nat) (addr : Nat) (data : List Byte)
  | testReg (value : Nat)
deriving DecidableEq, Repr

/-! ### Time -/

/-- What R11 asks to remember of a CLK_HUB cycle until it ends: a W1C bit that hardware has set in it, or a RW field that
software has written in it and that hardware updates too. -/
inductive CycleNote where
  | msiErr (c : Nat)
  | haltEvt (q : Nat)
  | wcdHalt (q : Nat)
  | coreFailed (core : Nat)
  | seqFault (n : Nat)
  | tdTimeout
  | dumpLocked
  | flagMap (c i : Nat)
  | flagSel (c : Nat)
  | mosCtx (k i : Nat)
  | ctxOvr (c : Nat)
  | trBase (c : Nat)
  | trCfg (c : Nat)
  | trHead (c : Nat)
deriving DecidableEq, Repr

/-- The clocks (R20): CLK_ROOT cycles since reset, the cycles of its rate that CLK_REF counted while CLK_ROOT was lost,
CLK_SEQ edges since reset, and the divider step driven. `oldStep` is the step whose division still makes the edges, until an
edge that it has in common with the new one (R21). CLK_HUB and CLK_MGT counts are quotients of `root`. `notes` are those of
the CLK_HUB cycle that runs (R11). -/
structure Time where
  root    : Nat
  lost    : Nat
  seq     : Nat
  divStep : Nat
  oldStep : Option Nat
  notes   : List CycleNote
deriving DecidableEq, Repr

/-! ### HUB -/

/-- Context states (R33). -/
inductive CtxState where
  | free | active | tearingDown
deriving DecidableEq, Repr

/-- Queue states (R39). -/
inductive QState where
  | disabled | idle | active | halted
deriving DecidableEq, Repr

/-- A context's HUB record (R33, R34, R75). `slot` is the default mosaic slot that CTX_CREATE sets (R82). -/
structure CtxRec where
  state   : CtxState
  ast     : Nat
  service : Bool
  slot    : Nat
  msiErr  : Bool
  haltEvt : Nat
  dbDrop  : Nat
deriving DecidableEq, Repr

/-- A submission entry's fields (R45, R46). -/
structure Entry where
  seqno      : Nat
  overlap    : Bool
  irq        : Bool
  complete   : Bool
  ifrev      : Nat
  cbLen      : Nat
  cbAddr     : Nat
  patchCount : Nat
  patchAddr  : Nat
  wait0      : Bool
  wait0Cmp   : Nat
  wait0Flag  : Nat
  wait0Val   : W64
  wait1      : Bool
  wait1Cmp   : Nat
  wait1Flag  : Nat
  wait1Val   : W64
  sig        : Bool
  sigOp      : Nat
  sigFlag    : Nat
  sigVal     : W64
deriving DecidableEq, Repr

/-- A patch record (R53). -/
structure Patch where
  offset : Nat
  width  : Nat
  value  : Nat
deriving DecidableEq, Repr

/-- Where a submission stands between its fetch and its retirement (R56, R83, R439). -/
inductive SubPhase where
  | fetched | patching | checking | checked
deriving DecidableEq, Repr

/-- What failed a submission: its status, DETAIL_KIND and DETAIL (R58). -/
structure Failure where
  status : Status
  kind   : Nat
  detail : Nat
deriving DecidableEq, Repr

/-- The check pass inside a turn template (R89 step 15). -/
structure TplCheck where
  ltOff   : Nat
  ltTag   : Nat
  addr    : Nat
  len     : Nat
  slot    : Nat
  pos     : Nat
  tags    : Nat
  sect : Option Nat
deriving DecidableEq, Repr

/-- The check pass of a buffer: position, tags seen, open section, the PATCH_FROM_FLAG targets not yet resolved
as (packet offset, target offset, width), and for each COLLECTIVE its offset with the member count that its ROOT was held to
(R83, R86, R89, R90). -/
structure Check where
  pos      : Nat
  tags     : Nat
  sect : Option Nat
  targets  : List (Nat × Nat × Nat)
  roots    : List (Nat × Option Nat)
  tpl      : Option TplCheck
deriving DecidableEq, Repr

/-- A FENCE of a launched buffer: offset, scope, the section it lies in (R105, R137). -/
structure Fence where
  off      : Nat
  scope    : Nat
  sect : Option Nat
deriving DecidableEq, Repr

/-- The launch pass of a buffer or of a template instance: position, whether it has ended, latest operation of each
tag, open section, fences, and the bytes PATCH_FROM_FLAG wrote (R81, R83, R109). -/
structure Launch where
  pos      : Nat
  ended    : Bool
  tags     : Table Nat
  sect : Option Nat
  sections : List (Nat × Nat)
  fences   : List Fence
  flagWr   : List (Nat × List Byte)
deriving DecidableEq, Repr

/-- An inline wait of a submission (R125, R131): none, or not yet looked at; holding a wait-list entry while its submission has
not started; waiting; satisfied. -/
inductive InlineWait where
  | none | entry | waiting (relNo : Nat) | satisfied
deriving DecidableEq, Repr

/-- The completion record of a submission (R59, R60, R65). -/
inductive RecState where
  | pending | issued (id : Nat) | delivered | undelivered | notNeeded
deriving DecidableEq, Repr

/-- A submission from its fetch to its retirement. `sid` is the model's own name for it; `sigs` are the SIGNAL_FLAG
packets on flags of this chip that its check pass has passed, as offset, size and flag (R140). -/
structure Sub where
  sid       : Nat
  idx       : Nat
  raw       : Fetched
  ent       : Entry
  phase     : SubPhase
  patchNext : Nat
  patches   : List Patch
  chk       : Check
  started   : Bool
  wait0     : InlineWait
  wait1     : InlineWait
  lch       : Launch
  tpls      : List (Nat × List Byte)
  sigs      : List (Nat × Nat × Nat)
  fail      : Option Failure
  record    : RecState
  halter    : Bool
deriving DecidableEq, Repr

/-- What a prefetched or demanded line holds bytes of (R49, R51). -/
inductive LineItem where
  | ring | patch (sid : Nat) | buf (sid : Nat) | tpl (sid off : Nat)
deriving DecidableEq, Repr

/-- A line of the prefetch buffer: bytes `[lo, lo + len)` of one aligned 512-byte address line; `data` is none while
the read is outstanding (R49, R51). -/
structure Line where
  item   : LineItem
  lo     : Nat
  len    : Nat
  demand : Bool
  data   : Option Fetched
deriving DecidableEq, Repr

/-- A queue's HUB record (R36 to R44, R75), its captured tail, its prefetch lines and its submissions in flight,
oldest first. `lastSeqno` is the SEQNO of the last record written, `failSeqno` that of the record that could not be (R75).
`resetting` holds while QUEUE_RESET or a disable waits for aborted work to end (R67). -/
structure QueueRec where
  state         : QState
  gen2          : Bool
  ringLog2      : Nat
  cqLog2        : Nat
  pfLines       : Nat
  ringBase      : Nat
  cqBase        : Nat
  head          : Nat
  tail          : Nat
  captured      : Nat
  cqHead        : Nat
  cqTail        : Nat
  cqPhase       : Bool
  pending       : Bool
  armed         : Bool
  leaseStop     : Bool
  undeliverable : Bool
  cause         : Status
  lastSeqno     : Nat
  failSeqno     : Nat
  expected      : Nat
  any           : Bool
  resetting     : Bool
  lines         : List Line
  subs          : List Sub
deriving DecidableEq, Repr

/-- What an outstanding host read is for; `late` is one of a torn-down context (R348). -/
inductive ReadUse where
  | line (q : Nat) (item : LineItem) (lo : Nat)
  | adm (i : Nat)
  | discard (c : Nat)
  | late
deriving DecidableEq, Repr

/-- What an outstanding host write is for. -/
inductive WriteUse where
  | record (q sid : Nat)
  | token (c k : Nat)
  | adm (i : Nat)
  | discard (c : Nat)
  | late
deriving DecidableEq, Repr

/-- An MMIO access on `hp_mr_` that waits for PD_HUB (R387): a write, or a read with its BAR, offset, function and
identifier. -/
inductive Mmio where
  | write (bar2 : Bool) (a : MmioWrite)
  | read (bar2 : Bool) (addr : BitVec 24) (fn : Bool) (id : BitVec 3)
deriving DecidableEq, Repr

/-- HUB (R17). `rr` is the context after which each class's round robin of prefetch reads goes on (R50),
`held` the accesses that wait for PD_HUB, oldest first (R387). -/
structure Hub where
  blkUp       : Bool
  ctxs        : Table CtxRec
  queues      : Table QueueRec
  nextSid     : Nat
  maxReads    : Nat
  reads       : Table (Option ReadUse)
  writes      : Table (Option WriteUse)
  rr          : Table Nat
  svcValid    : Bool
  svcQueue    : Option Nat
  svcCtx      : Nat
  dbStray     : Nat
  leaseExpired : Bool
  held        : List Mmio
deriving DecidableEq, Repr

/-! ### DEP -/

/-- The opcodes of R79. -/
inductive Opc where
  | nop | launch | launchTurn | copy | fill | collective | waitFlag | signalFlag | fence | patchFromFlag
  | seqAdmit | seqRetire | kvReserve | keyBind | transcriptMark | atomicBegin | atomicEnd | rngSeed | endP
deriving DecidableEq, Repr

/-- A LAUNCH's fields (R93, R117): operand bases and extents, argument words. -/
structure LaunchB where
  fclass   : Nat
  k        : Nat
  gridM    : Nat
  gridN    : Nat
  progAddr : Nat
  progLen  : Nat
  ops      : List (Nat × Nat)
  args     : List Nat
deriving DecidableEq, Repr

/-- The body of an operation packet, decoded. -/
inductive Body where
  | control
  | launch (b : LaunchB)
  | launchTurn (turns tplLen tplAddr idxAddr idxLen : Nat)
  | copy (len src dst : Nat)
  | fill (width len dst : Nat) (value : W64)
  | collective (root fmt rop kind count src dst : Nat)
  | waitFlag (mem : Bool) (flag cmp : Nat) (value : W64) (addr : Nat)
  | signalFlag (mem remote : Bool) (flag op node : Nat) (value : W64) (addr : Nat)
  | patchFromFlag (flag width off : Nat)
  | seqAdmit (seq pool prio draft : Nat) (stops : List Nat) (promptAddr promptLen maxTokens : Nat)
  | seqRetire (seq : Nat)
  | kvReserve (seq tokens : Nat)
  | keyBind (unbind : Bool) (handle base len : Nat)
  | transcriptMark (mark dst : Nat)
  | rngSeed (seed : BitVec 128)
deriving DecidableEq, Repr

/-- A packet decoded (R76, R80, R116). -/
structure Packet where
  opc     : Opc
  gen2    : Bool
  len     : Nat
  nondet  : Bool
  atomic  : Bool
  compIrq : Bool
  slot    : Option Nat
  tag     : Nat
  mask    : Nat
  scope   : Nat
  body    : Body
deriving DecidableEq, Repr

/-- Where an operation stands (R119 to R122): decoded, held for a wait entry (R131, R133), released, complete,
aborted with effects not yet ended, or ended without completion. -/
inductive OpStage where
  | decoded | held | released | complete | aborting | dead
deriving DecidableEq, Repr

/-- Polling of a memory wait (R133). -/
inductive Poll where
  | none | due | reading | interval (deadline : Nat)
deriving DecidableEq, Repr

/-- An operation tracked by DEP. `oid` is the model's own name; `inst` is the turn instance an operation of a
template belongs to (0 for a packet of a buffer); `acks` counts writes or answers still awaited. -/
structure Op where
  oid      : Nat
  q        : Nat
  sid      : Nat
  ctx      : Nat
  inst     : Nat
  off      : Nat
  slot     : Nat
  pkt      : Packet
  waits    : List Nat
  sect : Option Nat
  stage    : OpStage
  relNo    : Nat
  poll     : Poll
  acks     : Nat
deriving DecidableEq, Repr

/-- A pass of the wait-cycle detector that found candidates, when the second pass starts, whether an awaited flag has
changed since, and the last cycle of the second pass once it has started (R142). -/
structure WcdFirst where
  d        : List Nat
  flags    : List Nat
  deadline : Nat
  changed  : Bool
  second : Option Nat
deriving DecidableEq, Repr

/-- A page's remote and detection settings (R146). -/
structure PageCfg where
  slot   : Nat
  detect : Bool
  remote : Bool
deriving DecidableEq, Repr

/-- A remote signal awaiting its reply (R135). -/
structure RemoteSig where
  node : Nat
  mos  : Nat
  rel  : Nat
  oid  : Nat
deriving DecidableEq, Repr

/-- DEP (R17, R146). -/
structure Dep where
  flags      : Table W64
  maps       : Table Nat
  wcdHalt    : Table Nat
  candidate  : List Nat
  flagSel    : Table Nat
  ops        : List Op
  nextOid    : Nat
  nextRel    : Nat
  pageSel    : Nat
  pages      : Table PageCfg
  wcdEnable  : Bool
  wcdSettle  : Nat
  first      : Option WcdFirst
  maxOut     : Nat
  interval   : Nat
  remoteDrop : Nat
  wcdCount   : Nat
  remote     : List RemoteSig
  nextRelMsg : Nat
deriving DecidableEq, Repr

/-! ### DSP -/

/-- One piece: the launch's operation, role, tile, brick (the leftmost brick for a COMBINE), combine node, and the
scratch slots it uses (R147, R154). -/
structure Piece where
  oid   : Nat
  role  : Role
  tile  : Nat
  brick : Nat
  node  : Nat
  slotL : Nat
  slotR : Nat
deriving DecidableEq, Repr

/-- A tile that holds a scratch reservation (R157, R159): its slots, those still free, complete subtrees of the bond
tree as leftmost brick to brick count (`vals`) and to slot (`slotOf`), lowest brick whose PARTIAL is not complete and
the complete ones above it, combine nodes placed and not complete, EPILOGUE placed. -/
structure Tile where
  t      : Nat
  all    : List Nat
  free   : List Nat
  slotOf : Table Nat
  vals   : Table Nat
  low    : Nat
  above  : List Nat
  busy   : List Nat
  epi    : Bool
deriving DecidableEq, Repr

/-- A released LAUNCH, COPY or FILL with pieces or chunks to place (R147, R149): counts, the next index never placed,
indices to place again first, tiles with a reservation, pieces returned complete, and pieces that faulted once with
their core (R165). -/
structure Job where
  oid     : Nat
  chunks  : Bool
  total   : Nat
  bricks  : Nat
  brickLen : Nat
  next    : Nat
  back    : List Piece
  tiles   : List Tile
  done    : Nat
  faulted : List (Piece × Nat)
  aborted : Bool
deriving DecidableEq, Repr

/-- A core's DSP record (R150, R171). -/
structure CoreRec where
  active     : Option Piece
  next       : Option Piece
  failed     : Bool
  unbinding  : Bool
  lastStatus : Nat
deriving DecidableEq, Repr

/-- DSP (R17, R171). -/
structure Dsp where
  jobs       : List Job
  cores      : Table CoreRec
  scratch    : Table (List Nat)
  boundLog2  : Nat
  coreSel    : Nat
  slotSel    : Nat
  laneStray  : Nat
  redispatch : Nat
deriving DecidableEq, Repr

/-! ### SEQ -/

/-- A shape slot (R189). -/
structure Shape where
  rowBytes : Nat
  rows     : Nat
  stride   : Nat
deriving DecidableEq, Repr

/-- The tile shape with its X and IMM selection (R191). -/
structure TShape where
  valid : Bool
  tm    : Nat
  tn    : Nat
  tk    : Nat
  xq    : Nat
  xen   : Bool
  imms  : Nat
  immen : Bool
deriving DecidableEq, Repr

/-- A data queue entry: handle, lane-ready and memory-ready masks, descriptors whose completion it awaits (R183,
R184). -/
structure QEntry where
  eid    : Nat
  handle : Nat
  r      : Nat
  m      : Nat
  wait   : Nat
deriving DecidableEq, Repr

/-- An open loop level: total count, saved a-registers, and the index of the instruction after its LOOP (R187). -/
structure Level where
  total : Nat
  saved : Table W64
  back  : Nat
deriving DecidableEq, Repr

/-- What kind of pass runs (R199, R207). -/
inductive PassKind where
  | program | combine | chunk
deriving DecidableEq, Repr

/-- One stream of a pass: next instruction index, ended, scalar registers (key 16 × lane + index), loop counters,
open levels (innermost last), CLK_SEQ edge of its last issue, and the edge at which its last wait cleared. -/
structure Stream where
  pc      : Nat
  ended   : Bool
  s       : Table W64
  c       : Table Nat
  levels  : List Level
  lastIss : Nat
  ready   : Option Nat
deriving DecidableEq, Repr

/-- A running pass (R172, R173). `rem` is the access instruction whose descriptors are not all issued yet: the handle
it moves, the queue entry it pushed, the lanes still to issue (R195). `cstep` is the step of a combine pass on each lane (R199); `jam` counts jammed
CLK_SEQ cycles (R182). -/
structure Pass where
  kind    : PassKind
  acc     : Stream
  exe     : Stream
  a       : Table W64
  inc     : Table W64
  shapes  : Table Shape
  ts      : TShape
  qs      : Table (List QEntry)
  sq      : Table (List W64)
  dw      : Table Nat
  dr      : Table Nat
  ct      : Table Nat
  lds     : List Nat
  rem     : Option (Nat × Nat × List Nat)
  nextEid : Nat
  cstep   : Table Nat
  jam     : Nat
  fail    : Option Status
  abort   : Bool
  ended   : Bool
  laneSt  : Table Nat
deriving DecidableEq, Repr

/-- A bank (R154). `ready` says its transfer is complete (R155); `gen` numbers the fetch of its program where the cache entry has
become invalid since the bank named it (R177). `turn` is the turn instance of a launch issued by
a turn template, 0 for any other launch (R168, R194). -/
structure Bank where
  oid    : Nat
  ctx    : Nat
  q      : Nat
  slot   : Nat
  mosaic : Nat
  epoch  : Nat
  turn   : Nat
  role   : Role
  chunk  : Option (Nat × Nat × Nat)
  bricks : Nat
  brickLen : Nat
  launch : LaunchB
  lanes  : List (Nat × Piece)
  ready  : Bool
  gen    : Option Nat
deriving DecidableEq, Repr

/-- A program cache entry or fetch in progress (R177, R178): key, bytes received (none where a PFETCH failed, with
its status), outstanding, resident, invalidated. -/
structure Prog where
  ctx      : Nat
  addr     : Nat
  len      : Nat
  chunks   : Table Fetched
  nextOff  : Nat
  out      : Nat
  resident : Bool
  stale    : Bool
  lastUse  : Nat
  gen      : Nat
deriving DecidableEq, Repr

/-- What an outstanding descriptor is for (R201 to R203). -/
inductive DdOwner where
  | load (lane region eid : Nat) (lanes : Nat)
  | store (region : Nat) (lanes : Nat)
  | lds (lane dst : Nat)
  | pfetch (gen off : Nat)
  | poll (oid : Nat)
  | atom (oid : Nat)
  | markW (oid : Nat)
  | chunk (oid : Nat)
  | comb (lane : Nat)
  | migCopy (slot : Nat)
  | scrub (slot : Nat)
  | bat (slot what : Nat)
  | coll (oid : Nat)
  | orphan (oid : Nat)
deriving DecidableEq, Repr

/-- An outstanding descriptor: owner, key handle, index of the access instruction that issued it, context and address
space tag, first address, bytes received so far. -/
structure DdUse where
  owner : DdOwner
  key   : Option Nat
  pc    : Nat
  ctx   : Nat
  ast   : Nat
  epoch : Nat
  addr  : Nat
  data  : List Byte
deriving DecidableEq, Repr

/-- A tile operation in an issue buffer or outstanding on a lane: the 256 bits, the regions it references, the queue
and entry it makes memory-ready at completion, and whether the combine pass issued it (R184, R197). -/
structure LaneOp where
  data    : Beat
  regions : List Nat
  out     : Option (Nat × Nat)
deriving DecidableEq, Repr

/-- A core lane (R163 to R167): issue buffer, next identifier, outstanding operations, abort request level, its
bound, whether the bound expired, and an abort waiting to be raised again. -/
structure Lane where
  buf     : List LaneOp
  nextId  : Nat
  out     : List (Nat × LaneOp)
  abReq   : Bool
  abDead  : Option Nat
  expired : Bool
  reraise : Bool
deriving DecidableEq, Repr

/-- A recorded pass or fetch failure (`SEQ_FAULT`, R207). -/
structure SeqFault where
  valid  : Bool
  status : Status
  exe    : Bool
  lane   : Nat
  pc     : Nat
deriving DecidableEq, Repr

/-- The report of an ended pass on its way to DSP (R155, R165): its bank, the status of each lane, the status it failed
with, and whether it was aborted. -/
structure PassReport where
  bank  : Bank
  lanes : Table Nat
  fail  : Option Status
  abort : Bool
deriving DecidableEq, Repr

/-- One sequencer (R172, R207). `reports` are the ended passes that DSP has not yet been told of, oldest first;
`nextFetch` numbers the fetches of programs. -/
structure Seqr where
  active   : Option Bank
  shadow   : Option Bank
  pass     : Option Pass
  reports  : List PassReport
  progs    : List Prog
  lanes    : Table Lane
  dd       : Table (Option DdUse)
  dfReq    : Option Nat
  slipEv   : Nat
  slipCyc  : Nat
  fault    : SeqFault
  ddStray  : Nat
  passes   : Nat
  nextFetch : Nat
deriving DecidableEq, Repr

/-- SEQ (R17). -/
structure Seq where
  seqrs  : Table Seqr
  hintEn : Bool
deriving DecidableEq, Repr

/-! ### FAB -/

/-- Mosaic slot states (R270). -/
inductive MosState where
  | free | created | joining | keying | ready | rebinding | broken | releasing
deriving DecidableEq, Repr

/-- A member of a mosaic, in rank order (R267, R271, R295): node, key hash, identity key from its MOSAIC_JOIN (empty
before), its ephemeral key from KEY_AGREE, KEY_CONFIRM received, lost, MIG_HELD received, last SEQ accepted from it. -/
structure Member where
  node      : Nat
  hash      : List Byte
  idk       : List Byte
  eph       : List Byte
  confirmed : Bool
  lost      : Bool
  migHeld   : Bool
  lastSeq   : Option Nat
deriving DecidableEq, Repr

/-- A rebind in progress (R274): ring index, step begun (members, cores, channels, links, migration), the sets asked
for, the new member list, the channel move as (source, node, channel), and the epoch change awaited. -/
structure Rebind where
  adm     : Nat
  step    : Nat
  cores   : Nat
  chans   : Nat
  links   : Nat
  members : Option (List Member)
  move    : Option (Nat × Nat × Nat)
  waits   : Bool
deriving DecidableEq, Repr

/-- A release in progress (R275): ring index, step begun, scrub ranges (channel offset, length) still to issue, descriptors
outstanding, the channels unbound and not yet scrubbed, and the ports whose link keys are still to be removed. -/
structure RelJob where
  adm    : Nat
  step   : Nat
  ranges : List (Nat × Nat)
  out    : Nat
  chans  : Nat
  links  : Nat
deriving DecidableEq, Repr

/-- A mosaic slot (R265 to R276). `links` are the ports bound to the slot, `key` and `gen` the link key in force,
`prevKeys` the generations superseded and not yet removed, with their keys, `newKey` and `newGen` the one being agreed, `eph` this chip's ephemeral scalar, `seq` the
last SEQ sent, `coll` the COLLECTIVEs released, `held` placement held by a migration, `bind` the ring index of a MOSAIC_BIND whose
link masks are not in force yet (R272), `early` the join and agreement messages kept of chips that the list does not name yet
(R295). -/
structure MosRec where
  state : MosState
  id : Nat
  members : List Member
  ctxs : Nat
  collCtx : Nat
  cores : Nat
  chans : Nat
  links : Nat
  scratchBase : Nat
  scratchSlots : Nat
  last : Nat
  key : List Byte
  gen : Nat
  prevKeys : List (Nat × List Byte)
  newKey : List Byte
  newGen : Nat
  eph : Option Nat
  seq : Nat
  coll : Nat
  held : Bool
  migFrom : Option Nat
  bind : Option Nat
  early : List SerdoMsg
  rebind : Option Rebind
  rel : Option RelJob
deriving DecidableEq, Repr

/-- A link port (R299, R310): trained, HELLO complete, version, CMIS fields, neighbour; `named` says that the neighbour has
told its node ID, `root` is the root that its last HELLO told of where that HELLO carried READY (R306). -/
structure Port where
  up : Bool
  hello : Bool
  ver : Nat
  present : Bool
  ident : Nat
  mstate : Nat
  media : Nat
  maxpwr : Nat
  peerNode : Nat
  named : Bool
  root : Option Nat
  peerPort : Nat
  peerSerial : Nat
  peerTie : Nat
  peerPin : Nat
deriving DecidableEq, Repr

/-- A node's link in the map: up, peer node, peer port (R294, MAP). -/
structure MapLink where
  port : Nat
  up   : Bool
  node : Nat
  peer : Nat
deriving DecidableEq, Repr

/-- A node of the map: serial, which of its two MAP messages are held, its links (R304); `live` is false for a block that joins
and whose routes no epoch change has added yet (R306). -/
structure MapNode where
  serial : Nat
  first  : Bool
  second : Bool
  live   : Bool
  links  : List MapLink
deriving DecidableEq, Repr

/-- The module's FRU record (R297, R298). -/
structure Fru where
  valid   : Bool
  pinned  : Bool
  pin     : Nat
  cooling : Nat
  power   : Nat
  slot    : Nat
  serial  : Nat
deriving DecidableEq, Repr

/-- Epoch states of a table slot (R284, R310). -/
inductive EpState where
  | free | loading | prepared | current | draining | drained
deriving DecidableEq, Repr

/-- An epoch table slot (R278, R279): 16-bit route entries by node, link masks by slot, redirects by channel. -/
structure Epoch where
  state     : EpState
  tag       : Nat
  routes    : Table Nat
  masks     : Table Nat
  redirects : Table (Option (Nat × Nat))
deriving DecidableEq, Repr

/-- The root's epoch change in progress (R286): tag, the edits sent, nodes whose EPOCH_ACK is awaited, SWITCH sent. -/
structure Change where
  tag      : Nat
  edits    : List EpochEdit
  awaited  : List Nat
  switched : Bool
deriving DecidableEq, Repr

/-- An election child (R302): port, subtree size, and whether its ROUTES_READY has come (R300). -/
structure Child where
  port : Nat
  size : Nat
  ready : Bool
deriving DecidableEq, Repr

/-- The election wave (R302); `told` says that this block's own ROUTES_READY has gone out. -/
structure Elect where
  best    : Nat
  parent  : Option Nat
  pend    : List Nat
  nodes   : Nat
  pinned  : Nat
  height  : Nat
  children : List Child
  done    : Bool
  told    : Bool
deriving DecidableEq, Repr

/-- A channel migration whose source is on this chip (R289): phase 1 background, 2 awaiting MIG_HELD, 3 the last pass, 4
awaiting the switch, 5 awaiting the old epoch's end, 6 scrubbing the source, 7 scrubbing the target after an abandonment;
the dirty bitmap, the granule from which the pass goes on, the granule being moved with its 64 KiB pieces left (or the
pieces left to scrub), descriptors outstanding, and the tags of the epochs that were live before the switch. -/
structure Mig where
  slot    : Nat
  src     : Nat
  dstNode : Nat
  dstChan : Nat
  phase   : Nat
  pass    : Nat
  dirty   : Nat
  pos     : Nat
  gran    : Nat
  left    : Nat
  out     : Nat
  olds    : List Nat
deriving DecidableEq, Repr

/-- A move of a COLLECTIVE on a core lane, between memory and a scratch slot (R202, R221): address, bytes and fabric flag of the
read and of the write, and the formats of the conversion between them, if there is one. -/
structure CollMove where
  src      : Nat
  srcBytes : Nat
  srcFab   : Bool
  dst      : Nat
  dstBytes : Nat
  dstFab   : Bool
  cvt      : Option (Nat × Nat)
deriving DecidableEq, Repr

/-- A COLLECTIVE in progress on this chip (R308): its number n, operation, chunk, scratch slots held, the leaves of the
tree that the value standing here covers; phase 0 gathering, 1 its part sent and the result awaited, 2 the result here;
transfers still to make as (tree node, member); busy 1 with a transfer, 2 with an addition, 3 with the move of this chip's
elements into its slot, 4 with the move of the result out of it, and the move; descriptors outstanding; whether each of the two
moves of the chunk is done. -/
structure Coll where
  slot  : Nat
  n     : Nat
  oid   : Nat
  chunk : Nat
  slots : List Nat
  cover : Nat
  phase : Nat
  todo  : List (Nat × Nat)
  busy  : Nat
  move  : Option CollMove
  out   : Nat
  loaded : Bool
  stored : Bool
deriving DecidableEq, Repr

/-- A COLL_STEP received and not yet used: slot, n, kind, rop, fmt, count, root, chunk, tree node. -/
structure CollMsg where
  slot  : Nat
  n     : Nat
  kind  : Nat
  rop   : Nat
  fmt   : Nat
  count : Nat
  root  : Nat
  chunk : Nat
  node  : Nat
deriving DecidableEq, Repr

/-- FAB (R265 to R310). `phase` is `FAB_STATUS.DISC`; `fabNodes` is N of the fabric, `tables` the subtree nodes whose
ROUTES_READY has come; `swAt` the CLK_SEQ edge of a scheduled switch; `change` and `waiting` are the root's; `drains`
the nodes whose EPOCH_DRAINED is awaited for each tag; `joining` a block that joins in service (R306); `withdrawn` one
that has withdrawn (R304); `downs` the nodes reported down; `flooded` says that this block's own MAP has gone out; `fresh` that
the HELLO phase was entered by a restart (R305); `joins` are the nodes (with serial) that the root has given an ID and whose MAP
it awaits, `via` the port plus one that leads to a node without a route while it joins, `relays` the ports by which a
JOIN_REQUEST went on and came, until its ASSIGN comes back (R306); `trainUse` and `waveUse` the settings of `FAB_DISC_CFG` that
the discovery in progress has read (R310); `dups` the MAP halves (serial,
second half) seen of blocks whose pin is a duplicate (R304); `heldRx` the messages kept in PD_AON while
PD_FAB is not ON; `redirOwner` the slot plus one whose migration set a channel's redirect. -/
structure Fab where
  phase : Nat
  node : Nat
  isRoot : Bool
  rootNode : Nat
  rootSerial : Nat
  tie : Nat
  fru : Fru
  ports : Table Port
  portSel : Nat
  routeSel : Nat
  mosSel : Nat
  train : Nat
  waveLog2 : Nat
  trainUse : Nat
  waveUse : Nat
  trainDead : Option Nat
  helloDead : Option Nat
  waveDead : Option Nat
  restarts : Nat
  error : Nat
  pinMode : Nat
  height : Nat
  nodes : Nat
  elect : Elect
  electing : Bool
  fabNodes : Nat
  tables : Nat
  map : Table MapNode
  serials : Table Nat
  epoch : Nat
  epochs : Table Epoch
  swAt : Option (Nat × Nat)
  change : Option Change
  waiting : List (List EpochEdit)
  drains : List (Nat × List Nat)
  joining : Bool
  flooded : Bool
  fresh : Bool
  joins : List (Nat × Nat)
  via : Table Nat
  relays : List (Nat × Nat)
  dups : List (Nat × Bool)
  withdrawn : Bool
  downs : List Nat
  stray : Nat
  seqOut : Nat
  dropAuth : Nat
  dropReplay : Nat
  dropNoroute : Nat
  dropOverflow : Nat
  idMode : Nat
  rescan : List Nat
  fruDead : Option Nat
  cmisDead : Table (Option Nat)
  cmisLeft : List Nat
  slots : Table MosRec
  quiesce : Nat
  passes : Nat
  mig : Option Mig
  redirects : Table (Option (Nat × Nat))
  redirOwner : Table Nat
  colls : List Coll
  collMsgs : List CollMsg
  collZero : List CollMsg
  heldRx : List (Nat × SerdoMsg)
  heldBeats : Nat
deriving DecidableEq, Repr

/-- A fold record waiting for its fold (R228): kind, ranks, body, the TRANSCRIPT_MARK it belongs to, and the CLK_HUB cycle it
falls in (R230). -/
structure FoldRec where
  kind  : Nat
  ranks : Nat
  body  : List Byte
  mark  : Option Nat
  cyc   : Nat := 0
deriving DecidableEq, Repr

/-! ### SCH -/

/-- A board's regulator settings: ENABLE, BURST, RATE (R326). -/
structure BwCfg where
  en    : Bool
  burst : Nat
  rate  : Nat
deriving DecidableEq, Repr

/-- A slot's board, pool and bandwidth bucket (R312 to R322, R326). `board` is the board in force, or the one stored
before READY; `lost` says that an error has taken it and the next boundary brings the default board (R356); `waiting` an accepted image and the ring index of its BOARD_LOAD; `start` the CLK_HUB cycle in which the
current square began; `turned` says that a square boundary, not the entry to READY, began it (R324); `asPool` the RT squares
that act as POOL and `live` those whose owner has had its access (R315); `held` the cycles withheld of this RT square (R320);
`wasLent` and `relSeen` whether it was lent, and the next release number, when SCH last looked (R318); `tenure` the head whose
quantum is added (R317); `late` the owners of ended RT squares whose Q0 still runs, with the square's end (R326); `refill` the
refill edges taken. -/
structure SchSlot where
  running : Bool
  loaded  : Bool
  lost    : Bool
  board   : List Nat
  waiting : Option (List Nat × Nat)
  square  : Nat
  start   : Nat
  turned  : Bool
  rounds  : Nat
  asPool  : List Nat
  live    : List Nat
  held    : Nat
  wasLent : Bool
  relSeen : Nat
  active  : List Nat
  tenure  : Option Nat
  deficit : Table Int
  late    : List (Nat × Nat)
  sqEv    : Nat
  sqCyc   : Nat
  bw      : BwCfg
  bwNext  : BwCfg
  level   : Int
  hold    : Nat
  refill  : Nat
deriving DecidableEq, Repr

/-- A context's shares, debt and counters, and the tenant's copies of them (R320, R323, R324); `lastUpd`
is the CLK_HUB cycle of the last update point. -/
structure SchCtx where
  share    : Nat
  limLog2  : Nat
  debt     : Nat
  engine   : Nat
  wait     : Nat
  preempts : Nat
  overruns : Nat
  cEngine  : Nat
  cWait    : Nat
  cPre     : Nat
  updates  : Nat
  lastUpd  : Nat
deriving DecidableEq, Repr

/-- A started atomic span (R319): an ATOMIC operation `oid`, or the section opened at `sect`; `cyc` counts its cycles
of overrun. -/
structure Span where
  q    : Nat
  sid  : Nat
  inst : Nat
  slot : Nat
  oid  : Option Nat
  sect : Option Nat
  cyc  : Nat
deriving DecidableEq, Repr

/-- SCH (R311 to R326). `watts` and `window` are CNT_POWER; `powSum` and `powN` gather the samples of the window, which ends at
CLK_REF cycle `powDue`; `edges` are the refill edges that had gone by when SCH started (R322). -/
structure Sch where
  quantumLog2 : Nat
  slotSel : Nat
  sqSel   : Nat
  slots   : Table SchSlot
  ctxs    : Table SchCtx
  spans   : List Span
  watts   : Nat
  window  : Nat
  powSum  : Nat
  powN    : Nat
  powDue  : Nat
  edges   : Nat
deriving DecidableEq, Repr

/-! ### SEC -/

/-- Key slot states (R337). -/
inductive KeyState where
  | empty | loaded | revoking
deriving DecidableEq, Repr

/-- A key slot (R337). -/
structure KeySlot where
  state : KeyState
  ctx   : Nat
  key   : List Byte
  salt  : List Byte
deriving DecidableEq, Repr

/-- A sealed range bound to a handle (R339). -/
structure Binding where
  ctx    : Nat
  handle : Nat
  base   : Nat
  len    : Nat
deriving DecidableEq, Repr

/-- What awaits the acknowledgement of a sideband operation (R343 to R347). -/
inductive KsUse where
  | keyImport (adm handle : Nat)
  | bindOp (oid : Nat)
  | revokeStep (handle : Nat)
  | teardown
  | link (slot gen : Nat)
  | unlink (slot : Nat)
deriving DecidableEq, Repr

/-- A sideband operation: instances that have not acknowledged, whether it has been issued, and by when they must
(R344). -/
structure KsJob where
  op     : KsOp
  handle : Nat
  args   : List Nat
  insts  : List Nat
  issued : Bool
  dead   : Nat
  use    : KsUse
deriving DecidableEq, Repr

/-- A KEY_REVOKE in progress (R346): step, ring index of its command, drain bound. -/
structure Revoke where
  handle : Nat
  step   : Nat
  adm    : Nat
  dead   : Nat
deriving DecidableEq, Repr

/-- A context teardown (R347): step begun (0 while it waits for an earlier one), ring index of CTX_DESTROY, the cycle
in which step 3 began, the drain bound, end of the scrub, mosaic slots to name on expiry, deferred reply given. -/
structure Teardown where
  ctx      : Nat
  step     : Nat
  adm      : Nat
  start    : Nat
  dead     : Nat
  scrubEnd : Nat
  slots    : List Nat
  deferred : Bool
deriving DecidableEq, Repr

/-- What a request on `tr_` is for (R349, R350). -/
inductive TrUse where
  | create (ctx adm : Nat)
  | teardown
  | late
deriving DecidableEq, Repr

/-- The request on `tr_`: operation (0 REVOKE, 1 ENABLE), tag, bound, bound expired. -/
structure TrReq where
  op      : Nat
  ast     : Nat
  dead    : Nat
  use     : TrUse
  expired : Bool
deriving DecidableEq, Repr

/-- An SPDM session (R330, R338): number, FINISH done, summary of all measurements asked, export master secret. `hs` is its
handshake secret, `req` and `rsp` the secrets of the two directions with the messages each has carried (`reqSeq`, `rspSeq`),
`th` the transcript of its key exchange, `meas` that of its measurements not yet signed. -/
structure Session where
  id     : Nat
  done   : Bool
  allSum : Bool
  ems    : List Byte
  hs     : List Byte
  req    : List Byte
  rsp    : List Byte
  reqSeq : Nat
  rspSeq : Nat
  th     : List Byte
  meas   : List Byte
deriving DecidableEq, Repr

/-- What a requester has negotiated outside sessions (R330): the messages of the negotiation, those about digests and
certificates, and those about measurements not yet signed; the bytes it takes in one message; whether key exchange, and the
format of opaque data, were agreed. -/
structure Spdm where
  nego  : List Byte
  certs : List Byte
  meas  : List Byte
  size  : Nat
  kex   : Bool
  opq   : Bool
deriving DecidableEq, Repr

/-- Nothing negotiated. -/
def spdmZero : Spdm := { nego := [], certs := [], meas := [], size := 0, kex := false, opq := false }

/-- The CTR_DRBG (R328): key, counter value, requests since it was last seeded; 0 where it has yet to be. -/
structure Drbg where
  key   : List Byte
  v     : Nat
  count : Nat
deriving DecidableEq, Repr

/-- A context's transcript chain (R227): chain value and records folded. -/
structure Chain where
  d : List Byte
  n : Nat
deriving DecidableEq, Repr

/-- SEC (R327 to R353). `nego` is how far SPDM negotiation has come (R330, R332); `gens` the link key generations
installed for a mosaic slot (R345). -/
structure Sec where
  idkValid : Bool
  cert0    : Bool
  scalar   : Nat
  pub      : List Byte
  nego     : Nat
  spdm     : Spdm
  drbg     : Drbg
  sessions : List Session
  nextSess : Nat
  spdmErr  : Nat
  idSel    : Nat
  measSel  : Nat
  slotSel  : Nat
  slots    : Table KeySlot
  bindings : List Binding
  jobs     : List KsJob
  kinv     : Bool
  revokes  : List Revoke
  tds      : List Teardown
  tdLog2   : Nat
  tdTimeout : Bool
  tdCtx    : Nat
  tdDrain  : Nat
  tdDd     : Nat
  tdLink   : Nat
  tr       : Option TrReq
  late     : Nat
  authFail : Nat
  chains   : Table Chain
  folds    : Table (List FoldRec)
  marks    : Table (List Byte × Nat)
  skey     : Table (BitVec 128)
  confBlk  : List Byte
deriving DecidableEq, Repr

/-! ### FLT -/

/-- Fault classes (R354). -/
inductive Cls where
  | ce | ucc | ftl
deriving DecidableEq, Repr

/-- A source's state (R359, R379): ACTIVE until `dead`, class and scope of the last error, counts. -/
structure Src where
  active : Bool
  cls    : Cls
  scope  : Nat
  recov  : Nat
  errors : Nat
  dead   : Nat
deriving DecidableEq, Repr

/-- A partition reset in progress (R367, R368): step begun, the source that asked for it first (0 for a command), the queue whose own fault caused it, ring indices of the
commands that await it, lanes whose handshake step 3 awaits, scrub ranges still to issue and descriptors outstanding. -/
structure PartRst where
  step   : Nat
  src    : Nat
  cause  : Option Nat
  adms   : List Nat
  lanes  : List (Nat × Nat)
  ranges : List (Nat × Nat)
  out    : Nat
deriving DecidableEq, Repr

/-- What a crash dump capture records of its cause: REASON, SRC, SLOT (R376). -/
structure Capture where
  reason : Nat
  src    : Nat
  slot   : Nat
deriving DecidableEq, Repr

/-- FLT (R354 to R379). `logRecs` is sparse in records, `dump` in 64-bit words of its window; `capDue` is a capture not
yet made; `pkts` the last launched packets and `admLog` the first 32 bytes of the last admin commands, newest first;
`wd` the hang watchdogs; `forcing` the source that FLT_FORCE is forcing plus one; `leaseDead` is the CLK_REF cycle in which the host lease expires. -/
structure Flt where
  stale     : Bool
  reason    : Nat
  src       : Nat
  entry     : Nat
  stalemates : Nat
  fatalPin  : Bool
  lastSrc   : Nat
  sumUcc    : Bool
  sumCe     : Bool
  quietLog2 : Nat
  dumpOnPart : Bool
  ceIrq     : Bool
  fUe       : Bool
  fSrc      : Nat
  fTarget   : Nat
  unlock    : Bool
  refused   : Nat
  wdEn      : Bool
  wdLog2    : Nat
  escLog2   : Nat
  escCount  : Nat
  stamps    : List Nat
  partResets : Nat
  parts     : Table (Option PartRst)
  srcs      : Table Src
  logRecs   : Table (List Byte)
  written   : Nat
  dump      : Table Nat
  dumpValid : Bool
  dumpLocked : Bool
  dumpReason : Nat
  captures  : Nat
  capDue    : Option Capture
  freshDue  : Bool
  warm      : Nat
  leaseLog2 : Nat
  leaseOff  : Bool
  leaseDead : Option Nat
  expiries  : Nat
  wd        : Table Nat
  pkts      : List (List Nat)
  admLog    : List (List Byte)
  badFlags  : List Nat
  tapSel    : Nat
  forcing   : Nat
  clockLost : Bool
deriving DecidableEq, Repr

/-! ### PWR -/

/-- Where a power domain stands (R382): off, retained, on, leaving RET or OFF, or entering one of them. -/
inductive DomSt where
  | off | ret | on | leaving | entering
deriving DecidableEq, Repr

/-- A switchable power domain (R381 to R386, R405). `fromOff` says that a domain leaving RET or OFF leaves OFF; `adms`
the ring indices of PD_SET commands that await ON; `idleAt` the CLK_REF cycle in which the idle count stood at zero. An entry
(R382, R383) has its cycle 0 (`entAt`), its target, the PD_SET that asks, the last cycle whose action is taken (`entStep`), and
the wake that met it (`latched`). -/
structure Dom where
  st       : DomSt
  fromOff  : Bool
  adms     : List Nat
  idleEn   : Bool
  idleOff  : Bool
  idle     : Nat
  idleAt   : Option Nat
  entAt    : Nat
  entOff   : Bool
  entAdm   : Option Nat
  entStep  : Nat
  latched  : Option Nat
  refused  : Nat
  refuser  : Nat
  lastWake : Nat
  wakes    : Nat
deriving DecidableEq, Repr

/-- Where the DVFS sequencer stands (R389, R392): writing the voltage with or without confirmation polls before the
divider moves, awaiting the divider's acknowledgement, lowering the voltage after it, or writing VSAFE. -/
inductive DvfsPhase where
  | idle | upWrite | upPoll | upDiv | downDiv | downWrite | downPoll | emergDiv | emergWrite
deriving DecidableEq, Repr

/-- The DVFS sequencer (R388 to R393). `tVolt` is the voltage DVFS_SET named, 0 for the operating point's; `volt` the last
confirmed, `wrote` the last written to the regulator; `gov` the governor's step that waits for the running sequence: 1 down, 2 up. -/
structure Dvfs where
  phase    : DvfsPhase
  seqStep  : Nat
  seqVolt  : Nat
  prevVolt : Nat
  dead     : Option Nat
  adm      : Option Nat
  defers   : List Nat
  target   : Nat
  tVolt    : Nat
  volt     : Nat
  wrote    : Nat
  settle   : Nat
  refused  : Nat
  fails    : Nat
  deferred : Bool
  governed : Bool
  lows     : Nat
  highs    : Nat
  hold     : Bool
  gov      : Nat
deriving DecidableEq, Repr

/-- The emergency response (R392, R393, R405). -/
structure Emerg where
  active    : Bool
  trip      : Bool
  alert     : Bool
  entries   : Nat
  clearHold : Nat
  clearDead : Option Nat
deriving DecidableEq, Repr

/-- What of an image the block uses (R397): revisions, G1, SVN, measurement, default board words, operating-point
voltages, boot step, rail addresses. -/
structure Image where
  major : Nat
  minor : Nat
  g1    : Bool
  svn   : Nat
  meas  : List Byte
  board : List Nat
  volts : List Nat
  boot  : Nat
  rails : List Nat
deriving DecidableEq, Repr

/-- An IMAGE_STAGE in progress (R400): ring index, length, host address, phase (1 erase, 2 host reads, 3 program, 4 read
back, 5 erase after a failure), bytes read so far, status it ends with. -/
structure Stage where
  adm   : Nat
  len   : Nat
  addr  : Nat
  phase : Nat
  data  : List Byte
  bad   : Option Status
deriving DecidableEq, Repr

/-- The image banks and the activation (R396 to R403, R405): the staged image and its bytes' bank, ring index of a
pending or running activation, phase of the running one (1 reading the bank, 2 pausing, 3 writing the record), the image
that takes force, the bank that the boot records select, SEQ and number of the boot record last written. -/
structure Img where
  active    : Option Image
  bank      : Nat
  recBank   : Nat
  fallback  : Bool
  recovery  : Bool
  romErr    : Nat
  staged    : Option Image
  pendingAct : Option Nat
  actAdm    : Nat
  actPhase  : Nat
  lastStatus : Nat
  recSeq    : Nat
  recLast   : Nat
  stage     : Option Stage
deriving DecidableEq, Repr

/-- PWR (R380 to R405). `step` is the start-up step the block stands in: 0 in reset, 1 to 8 as R395 numbers them, 9 in
service; `relAt` the CLK_REF cycle of the last release; `sampleDue` that of the next power sample. -/
structure Pwr where
  ifrev : Nat
  g1 : Bool
  meas : List Byte
  step : Nat
  warm : Bool
  relAt : Nat
  startCycles : Nat
  doms : Table Dom
  dvfs : Dvfs
  ceiling : Nat
  samples : Nat
  milliwatts : Nat
  sampleDue : Nat
  emerg : Emerg
  img : Img
  certChain : List Byte
deriving DecidableEq, Repr

/-! ### ADM -/

/-- A command taken from the command ring (R411, R412, R417). `idx` names it: the ring index it was taken from, plus 1,024 for
each earlier pass of HEAD, so that an awaiting command and a later one of the same index stay apart. Then the 128 bytes, the
recovery flag and IFREV major in force when it was taken (R402, R418), whether it has started, whether its first reply has been
written, and what its own work needs: a step, bytes gathered, requests outstanding and the status of the first that failed. -/
structure AdmCmd where
  idx     : Nat
  entry   : List Byte
  recov   : Bool
  major   : Nat
  started : Bool
  replied : Bool
  finalDue : Option (Status × List Byte)
  stage   : Nat
  got     : Table (List Byte)
  next    : Nat
  out     : Nat
  bad     : Option Status
deriving DecidableEq, Repr

/-- A reply whose command has finished in the CLK_HUB cycle, not yet written (R410, R411): the number of the command, its opcode
and TAG, the status, the DETAIL word, the result words, and FINAL. -/
structure AdmOut where
  idx    : Nat
  opc    : Nat
  tag    : Nat
  st     : Status
  detail : Nat
  result : List Nat
  final  : Bool
deriving DecidableEq, Repr

/-- ADM (R406 to R426). The rings are sparse in 64-bit words; `takenAt` is the CLK_HUB cycle of the last taking;
`laps` counts the passes of HEAD through the command ring; `bad` are the ring entries with an uncorrected error (R356), `due` the
replies that wait to be written in ascending INDEX (R411). -/
structure Adm where
  cmd     : Table Nat
  rpl     : Table Nat
  cmdTail : Nat
  cmdHead : Nat
  rplHead : Nat
  rplTail : Nat
  phase   : Bool
  irqEn   : Bool
  drop    : Nat
  takenAt : Option Nat
  laps    : Nat
  bad     : List Nat
  due     : List AdmOut
  cmds    : List AdmCmd
deriving DecidableEq, Repr

/-! ### BAT -/

/-- A state pool (R237, R240). Pages at or above `fresh` have never been taken; `stack` holds the freed ones, the top
first, and `cached` counts the top entries of the free stack that the block holds, at most 128. `initPos` counts the 8-byte
words of the directory and free stack written so far, `initOut` those outstanding; `adm` is the POOL_CONFIG that awaits
them. -/
structure Pool where
  cfgd    : Bool
  slot    : Nat
  ctx     : Nat
  base    : Nat
  pageLog2 : Nat
  pageTok : Nat
  pages   : Nat
  failed  : Bool
  removed : Bool
  stack   : List Nat
  fresh   : Nat
  cached  : Nat
  initPos : Nat
  initEnd : Nat
  initOut : Nat
  adm     : Option Nat
deriving DecidableEq, Repr

/-- Sequence states (R235). -/
inductive SeqState where
  | free | joining | active | parked | ended | leaving
deriving DecidableEq, Repr

/-- A sequence table entry (R236) with the pages it holds: data pages in order, and map pages of each level from the
leaves up. `retOps` are the SEQ_RETIRE operations that await FREE; `owes` says that an end record is owed. -/
structure Seqn where
  state     : SeqState
  retire    : Bool
  prio      : Nat
  draft     : Nat
  pool      : Nat
  reason    : Nat
  ctx       : Nat
  mslot     : Nat
  depth     : Nat
  pos       : Nat
  gen       : Nat
  maxTok    : Nat
  promptLen : Nat
  stops     : List Nat
  promptAddr : Nat
  pend      : Nat
  pages     : Nat
  resvEnd   : Nat
  mapRoot   : Nat
  order     : Nat
  turnT     : Nat
  lastTurn  : Nat
  dataPg    : List Nat
  mapPg     : List (List Nat)
  retOps    : List Nat
  owes      : Bool
deriving DecidableEq, Repr

/-- A row of a turn (R252) with the tokens received for it as (draft index, token). -/
structure TurnRow where
  seq     : Nat
  prefill : Bool
  sample  : Bool
  draft   : Nat
  pool    : Nat
  pos     : Nat
  toks    : Nat
  input   : Nat
  got     : List (Nat × Nat)
deriving DecidableEq, Repr

/-- The turn in flight on this chip (R246): its number, FINAL, rows (on the leader), the instance of the template,
published by TURN_COMMIT, the index area that TURN_COMMIT named (on a chip other than the leader), the sampling key the turn
was formed with, instance complete, children whose TURN_ARRIVE has come, tokens their subtrees forwarded, forwarded tokens
received, own tokens forwarded, TURN_ARRIVE sent, tokens not yet forwarded as (token, sequence, draft index). -/
structure Turn where
  num       : Nat
  final     : Bool
  rows      : List TurnRow
  inst      : Nat
  idx       : Option Nat
  skey      : Option (BitVec 128)
  published : Bool
  instDone  : Bool
  arrived   : List Nat
  subToks   : Nat
  fwdGot    : Nat
  fwdOwn    : Nat
  arriveSent : Bool
  buf       : List (Nat × Nat × Nat)
deriving DecidableEq, Repr

/-- The turn loop of a mosaic slot (R245, R248, R251, R263): committed turns, the LAUNCH_TURN outstanding with its turns
left, the turn in flight, join counter, settings, aborts, whether a change of R244 has come since the last formation, the
sequences an earlier empty formation failed to admit, the barrier deadline, and the loop held by the lease. -/
structure Loop where
  n        : Nat
  oid      : Option Nat
  left     : Nat
  turn     : Option Turn
  joinCtr  : Nat
  turnTokens : Nat
  chunk    : Nat
  aborts   : Nat
  event    : Bool
  failed   : List Nat
  dead     : Option Nat
  leaseHeld : Bool
deriving DecidableEq, Repr

/-- A context's token ring (R259 to R261): space reserved by turns in flight, records written and not yet issued as
(index, bytes, the last of its commit or formation, after whose write vector 4c + 2 is requested). -/
structure TokRing where
  base    : Nat
  log2    : Nat
  en      : Bool
  head    : Nat
  tail    : Nat
  phase   : Bool
  dropped : Nat
  undel   : Bool
  resv    : Nat
  recs    : List (Nat × List Byte × Bool)
deriving DecidableEq, Repr

/-- A run of `n` 8-byte words that BAT still has to access for mosaic slot `slot`: each written with `val`, or read where
`rd` is set; `what` is 0 for the index area and 1 + p for pool p (R253). -/
structure BatWr where
  rd   : Bool
  slot : Nat
  what : Nat
  addr : Nat
  n    : Nat
  val  : Nat
deriving DecidableEq, Repr

/-- A turn instance: the turn template's launch pass for one turn of a LAUNCH_TURN (R98, R247). -/
structure Inst where
  id   : Nat
  oid  : Nat
  q    : Nat
  sid  : Nat
  ctx  : Nat
  slot : Nat
  bytes : List Byte
  key  : BitVec 128
  lch  : Launch
deriving DecidableEq, Repr

/-- BAT (R232 to R264). -/
structure Bat where
  seqs    : Table Seqn
  seqSel  : Nat
  pairSel : Nat
  poolSel : Nat
  mosSel  : Nat
  timeout : Nat
  stray   : Nat
  pools   : Table Pool
  loops   : Table Loop
  rings   : Table TokRing
  wrq     : List BatWr
  insts   : List Inst
  nextInst : Nat
deriving DecidableEq, Repr

/-- The block without its queue of waiting commands. `fuses` are the values read through `fu_`; `out` lists what the
block has driven, newest first; `fresh` counts the free values used, from 2: the numbers 0 and 1 belong to the values that do not change (log
entry 2). -/
structure Block where
  time  : Time
  fuses : Fuses
  pwr   : Pwr
  adm   : Adm
  hub   : Hub
  dep   : Dep
  dsp   : Dsp
  seq   : Seq
  bat   : Bat
  fab   : Fab
  sch   : Sch
  sec   : Sec
  flt   : Flt
  out   : List Output
  fresh : Nat
deriving DecidableEq, Repr

/-- The machine: the block and the queue of commands that wait, first in, first out. -/
structure State extends Block where
  pending : List Instr
deriving DecidableEq, Repr

/-- Why the machine stops. -/
inductive Fault where
  /-- Raised by a command that names a queue, port, lane, sequencer, tag, channel, slot, ring entry, flag, source or domain
  that the configuration does not have (R1, R26). Safe: nothing can reach such a unit. -/
  | absentUnit
deriving DecidableEq, Repr

/-- Why a command has no meaning. -/
inductive Refusal where
  /-- Raised by an arm of `exec` whose command has no meaning yet. Safe: nothing is claimed of it. -/
  | notModelled (mnemonic : String)
deriving DecidableEq, Repr

/-! ### After reset -/

/-- Fuse values before they are read (R395 step 2). DESIGN CHOICE, log entry 3: a QCP-16K, every other value zero. -/
def fusesReset : Fuses :=
  { config := .qcp16k, testLock := false, pmaxW := 0, tmaxC := 0, stepMin := 0, vmaxMv := 0, vminMv := 0, vsafeMv := 0,
    keyHash := [], minSvn := 0, seed := [] }

/-- Time zero, CLK_SEQ at DIV12 (R394). -/
def timeReset : Time := { root := 0, lost := 0, seq := 0, divStep := 4, oldStep := none, notes := [] }

/-- HUB after reset (R75). -/
def hubReset : Hub :=
  { blkUp := false, ctxs := [], queues := [], nextSid := 1, maxReads := 512, reads := [], writes := [], rr := [],
    svcValid := false, svcQueue := none, svcCtx := 0, dbStray := 0, leaseExpired := false, held := [] }

/-- DEP after reset (R126, R146). -/
def depReset : Dep :=
  { flags := [], maps := [], wcdHalt := [], candidate := [], flagSel := [], ops := [], nextOid := 1, nextRel := 1,
    pageSel := 0, pages := [], wcdEnable := true, wcdSettle := 1024, first := none, maxOut := 64, interval := 256,
    remoteDrop := 0, wcdCount := 0, remote := [], nextRelMsg := 0 }

/-- DSP after reset (R171). -/
def dspReset : Dsp :=
  { jobs := [], cores := [], scratch := [], boundLog2 := 16, coreSel := 0, slotSel := 0, laneStray := 0,
    redispatch := 0 }

/-- SEQ after reset (R207). -/
def seqReset : Seq := { seqrs := [], hintEn := true }

/-- BAT after reset (R264). -/
def batReset : Bat :=
  { seqs := [], seqSel := 0, pairSel := 0, poolSel := 0, mosSel := 0, timeout := 0x2EE0, stray := 0, pools := [],
    loops := [], rings := [], wrq := [], insts := [], nextInst := 1 }

/-- No FRU record read (R310). -/
def fruReset : Fru := { valid := false, pinned := false, pin := 0, cooling := 0, power := 0, slot := 0, serial := 0 }

/-- No election begun. -/
def electReset : Elect :=
  { best := 0, parent := none, pend := [], nodes := 0, pinned := 0, height := 0, children := [], done := false, told := false }

/-- FAB after reset (R310). -/
def fabReset : Fab :=
  { phase := 0, node := 0, isRoot := false, rootNode := 0, rootSerial := 0, tie := 0, fru := fruReset, ports := [],
    portSel := 0, routeSel := 0, mosSel := 0, train := 0x11E2, waveLog2 := 0x19, trainUse := 0x11E2, waveUse := 0x19, trainDead := none, helloDead := none,
    waveDead := none, restarts := 0, error := 0, pinMode := 0, height := 0, nodes := 0, elect := electReset,
    electing := false, fabNodes := 0, tables := 0, map := [], serials := [], epoch := 0, epochs := [], swAt := none,
    change := none, waiting := [], drains := [], joining := false, flooded := false, fresh := false,
    joins := [], via := [], relays := [], dups := [], withdrawn := false, downs := [], stray := 0, seqOut := 0,
    dropAuth := 0, dropReplay := 0, dropNoroute := 0, dropOverflow := 0, idMode := 0x55, rescan := [], fruDead := none,
    cmisDead := [], cmisLeft := [], slots := [], quiesce := 0x40, passes := 8, mig := none, redirects := [], redirOwner := [],
    colls := [], collMsgs := [], collZero := [], heldRx := [], heldBeats := 0 }

/-- SCH after reset (R326). -/
def schReset : Sch :=
  { quantumLog2 := 12, slotSel := 0, sqSel := 0, slots := [], ctxs := [], spans := [], watts := 0, window := 0,
    powSum := 0, powN := 0, powDue := 2500000, edges := 0 }

/-- SEC after reset (R353): `ks_kinv` is high until the identity key is derived (R351). -/
def secReset : Sec :=
  { idkValid := false, cert0 := false, scalar := 0, pub := [], nego := 0, spdm := spdmZero,
    drbg := { key := List.replicate 32 0, v := 0, count := 0 }, sessions := [], nextSess := 0, spdmErr := 0,
    idSel := 0, measSel := 0, slotSel := 0, slots := [], bindings := [], jobs := [], kinv := true, revokes := [],
    tds := [], tdLog2 := 20, tdTimeout := false, tdCtx := 0, tdDrain := 0, tdDd := 0, tdLink := 0, tr := none,
    late := 0, authFail := 0, chains := [], folds := [], marks := [], skey := [], confBlk := [] }

/-- FLT after `por_n` (R377, R379). -/
def fltReset : Flt :=
  { stale := false, reason := 0, src := 0, entry := 0, stalemates := 0, fatalPin := false, lastSrc := 0,
    sumUcc := false, sumCe := false, quietLog2 := 20, dumpOnPart := false, ceIrq := false, fUe := false, fSrc := 0,
    fTarget := 0, unlock := false, refused := 0, wdEn := true, wdLog2 := 28, escLog2 := 30, escCount := 4, stamps := [],
    partResets := 0, parts := [], srcs := [], logRecs := [], written := 0, dump := [], dumpValid := false,
    dumpLocked := false, dumpReason := 0, captures := 0, capDue := none, freshDue := false, warm := 0, leaseLog2 := 25,
    leaseOff := false, leaseDead := none, expiries := 0, wd := [], pkts := [], admLog := [], badFlags := [], tapSel := 0,
    forcing := 0, clockLost := false }

/-- DVFS after reset: DIV12 (R394, R405). -/
def dvfsReset : Dvfs :=
  { phase := .idle, seqStep := 4, seqVolt := 0, prevVolt := 0, dead := none, adm := none, defers := [], target := 4,
    tVolt := 0, volt := 0, wrote := 0, settle := 0x9C4, refused := 0, fails := 0, deferred := false, governed := false, lows := 0,
    highs := 0, hold := false, gov := 0 }

/-- No emergency (R405). -/
def emergReset : Emerg :=
  { active := false, trip := false, alert := false, entries := 0, clearHold := 0x40000, clearDead := none }

/-- No image loaded (R405). -/
def imgReset : Img :=
  { active := none, bank := 0, recBank := 0, fallback := false, recovery := false, romErr := 0, staged := none, pendingAct := none,
    actAdm := 0, actPhase := 0, lastStatus := 0, recSeq := 0, recLast := 1, stage := none }

/-- PWR after reset (R405), in reset (R394). -/
def pwrReset : Pwr :=
  { ifrev := 0, g1 := false, meas := [], step := 0, warm := false, relAt := 0, startCycles := 0, doms := [],
    dvfs := dvfsReset, ceiling := 0x4B0, samples := 0, milliwatts := 0, sampleDue := 0, emerg := emergReset, img := imgReset,
    certChain := [] }

/-- ADM after reset (R418, R426). -/
def admReset : Adm :=
  { cmd := [], rpl := [], cmdTail := 0, cmdHead := 0, rplHead := 0, rplTail := 0, phase := true, irqEn := true,
    drop := 0, takenAt := none, laps := 0, bad := [], due := [], cmds := [] }

/-- The block after reset. -/
def blockReset : Block :=
  { time := timeReset, fuses := fusesReset, pwr := pwrReset, adm := admReset, hub := hubReset, dep := depReset,
    dsp := dspReset, seq := seqReset, bat := batReset, fab := fabReset, sch := schReset, sec := secReset,
    flt := fltReset, out := [], fresh := 2 }

/-- The machine right after `por_n` (R394): no command waits. -/
def State.reset : State := { toBlock := blockReset, pending := [] }

end Sys2Proof.Machine
end

