-- ==== Sys2Proof/Machine/Ops.lean ====
section
/-! DEFINITION. The named operations over the block's state: status codes, what an unlisted record holds, record
access and update, clocks, outputs, host requests, vectors. -/

namespace Sys2Proof.Machine

/-! ### Status codes (R424) -/

/-- The 8-bit code of a status. -/
def Status.code : Status → Nat
  | .ok => 0x00 | .deferred => 0x01 | .deferredEmergency => 0x02
  | .badOpcode => 0x10 | .badParam => 0x11 | .badAlign => 0x12 | .badLength => 0x13 | .badExtent => 0x14
  | .revMismatch => 0x15 | .notPermitted => 0x16 | .noResource => 0x17 | .badState => 0x18
  | .queueGuilty => 0x20 | .hang => 0x21 | .waitCycle => 0x22 | .overrunLimit => 0x23
  | .complUndeliverable => 0x24 | .coreFault => 0x25 | .memUncorrected => 0x26 | .xlatFault => 0x27
  | .stateLost => 0x30 | .lengthLimit => 0x31 | .parked => 0x32 | .turnAborted => 0x33 | .mosaicBroken => 0x34
  | .stopToken => 0x36 | .maxTokens => 0x37
  | .ctxTornDown => 0x40 | .authFail => 0x41 | .keyRevoked => 0x42 | .stalemate => 0x50

/-- Piece role code (R147). -/
def Role.code : Role → Nat
  | .whole => 0 | .partialR => 1 | .combine => 2 | .epilogue => 3

/-! ### What an unlisted record holds -/

/-- A FREE context's record (R75). -/
def ctxZero : CtxRec :=
  { state := .free, ast := 0, service := false, slot := 0, msiErr := false, haltEvt := 0, dbDrop := 0 }

/-- A queue's record after reset (R75). -/
def queueZero : QueueRec :=
  { state := .disabled, gen2 := false, ringLog2 := 0, cqLog2 := 0, pfLines := 0, ringBase := 0, cqBase := 0,
    head := 0, tail := 0, captured := 0, cqHead := 0, cqTail := 0, cqPhase := true, pending := false,
    armed := false, leaseStop := false, undeliverable := false, cause := .ok, lastSeqno := 0, failSeqno := 0, expected := 0,
    any := true, resetting := false, lines := [], subs := [] }

/-- A page's settings after reset (R146). -/
def pageZero : PageCfg := { slot := 0, detect := true, remote := false }

/-- A core that holds no piece. -/
def coreZero : CoreRec := { active := none, next := none, failed := false, unbinding := false, lastStatus := 0 }

/-- A lane at rest. -/
def laneZero : Lane :=
  { buf := [], nextId := 0, out := [], abReq := false, abDead := none, expired := false, reraise := false }

/-- No fault recorded. -/
def seqFaultZero : SeqFault := { valid := false, status := .ok, exe := false, lane := 0, pc := 0 }

/-- An idle sequencer. -/
def seqrZero : Seqr :=
  { active := none, shadow := none, pass := none, reports := [], progs := [], lanes := [], dd := [],
    dfReq := none, slipEv := 0, slipCyc := 0, fault := seqFaultZero, ddStray := 0, passes := 0, nextFetch := 0 }

/-- A slot's board and regulator after reset (R326). -/
def schSlotZero : SchSlot :=
  { running := false, loaded := false, lost := false, board := [], waiting := none, square := 0, start := 0, turned := false,
    rounds := 0, asPool := [], live := [], held := 0, wasLent := false, relSeen := 0, active := [], tenure := none,
    deficit := [], late := [], sqEv := 0, sqCyc := 0, bw := { en := false, burst := 0xFFFFFF, rate := 0xFFFFFF },
    bwNext := { en := false, burst := 0xFFFFFF, rate := 0xFFFFFF }, level := 0, hold := 0, refill := 0 }

/-- A context's SCH record after reset and at CTX_CREATE (R323, R326). -/
def schCtxZero : SchCtx :=
  { share := 1, limLog2 := 0x18, debt := 0, engine := 0, wait := 0, preempts := 0, overruns := 0, cEngine := 0,
    cWait := 0, cPre := 0, updates := 0, lastUpd := 0 }

/-- An EMPTY key slot. -/
def keyZero : KeySlot := { state := .empty, ctx := 0, key := [], salt := [] }

/-- A chain that holds nothing (R347 step 6). -/
def chainZero : Chain := { d := [], n := 0 }

/-- A source with no error since reset (R379). -/
def srcZero : Src := { active := false, cls := .ce, scope := 0, recov := 0, errors := 0, dead := 0 }

/-- A mosaic slot that is FREE. -/
def mosZero : MosRec :=
  { state := .free, id := 0, members := [], ctxs := 0, collCtx := 0, cores := 0, chans := 0, links := 0,
    scratchBase := 0, scratchSlots := 0, last := 0, key := [], gen := 0, prevKeys := [], newKey := [], newGen := 0,
    eph := none, seq := 0, coll := 0, held := false, migFrom := none, bind := none, early := [], rebind := none, rel := none }

/-- A link port that is down (R310). -/
def portZero : Port :=
  { up := false, hello := false, ver := 0, present := false, ident := 0, mstate := 0, media := 0, maxpwr := 0,
    peerNode := 0, named := false, root := none, peerPort := 0, peerSerial := 0, peerTie := 0, peerPin := 0 }

/-- A FREE epoch table slot. -/
def epochZero : Epoch := { state := .free, tag := 0, routes := [], masks := [], redirects := [] }

/-- A map node of which nothing is known. -/
def mapZero : MapNode := { serial := 0, first := false, second := false, live := false, links := [] }

/-- A power domain after reset (R405). -/
def domZero : Dom :=
  { st := .on, fromOff := false, adms := [], idleEn := false, idleOff := false, idle := 0xFFFFFF, idleAt := none,
    entAt := 0, entOff := false, entAdm := none, entStep := 0, latched := none,
    refused := 0, refuser := 0, lastWake := 0, wakes := 0 }

/-- A pool that is not configured (R264). -/
def poolZero : Pool :=
  { cfgd := false, slot := 0, ctx := 0, base := 0, pageLog2 := 0, pageTok := 1, pages := 0, failed := false,
    removed := false, stack := [], fresh := 0, cached := 0, initPos := 0, initEnd := 0, initOut := 0, adm := none }

/-- A FREE sequence. -/
def seqnZero : Seqn :=
  { state := .free, retire := false, prio := 0, draft := 0, pool := 0, reason := 0, ctx := 0, mslot := 0, depth := 0,
    pos := 0, gen := 0, maxTok := 0, promptLen := 0, stops := [], promptAddr := 0, pend := 0, pages := 0, resvEnd := 0,
    mapRoot := 0, order := 0, turnT := 0, lastTurn := 0, dataPg := [], mapPg := [], retOps := [], owes := false }

/-- A turn loop that has not run (R264). -/
def loopZero : Loop :=
  { n := 0, oid := none, left := 0, turn := none, joinCtr := 0, turnTokens := 0x200, chunk := 0x100, aborts := 0,
    event := false, failed := [], dead := none, leaseHeld := false }

/-- A token ring after reset (R264). -/
def ringZero : TokRing :=
  { base := 0, log2 := 0, en := false, head := 0, tail := 0, phase := true, dropped := 0, undel := false, resv := 0,
    recs := [] }

/-! ### Record access and update -/

/-- Context `c`'s record. -/
def ctxOf (b : Block) (c : Nat) : CtxRec := tget ctxZero b.hub.ctxs c

/-- Change context `c`'s record. -/
def modCtx (c : Nat) (f : CtxRec → CtxRec) (b : Block) : Block :=
  { b with hub := { b.hub with ctxs := tmod ctxZero b.hub.ctxs c f } }

/-- The record of global queue `q`. -/
def queueOf (b : Block) (q : Nat) : QueueRec := tget queueZero b.hub.queues q

/-- Change the record of global queue `q`. -/
def modQueue (q : Nat) (f : QueueRec → QueueRec) (b : Block) : Block :=
  { b with hub := { b.hub with queues := tmod queueZero b.hub.queues q f } }

/-- The context of global queue `q` (c × 6 + q). -/
def ctxOfQueue (q : Nat) : Nat := q / 6

/-- Class index of global queue `q`. -/
def classOf (q : Nat) : Nat := q % 6

/-- The submission named `sid` of queue `q`. -/
def subOf (b : Block) (q sid : Nat) : Option Sub := (queueOf b q).subs.find? (·.sid == sid)

/-- Change the submission named `sid` of queue `q`. -/
def modSub (q sid : Nat) (f : Sub → Sub) (b : Block) : Block :=
  modQueue q (fun r => { r with subs := modFirst (·.sid == sid) f r.subs }) b

/-- The operation named `oid`. -/
def opOf (b : Block) (oid : Nat) : Option Op := b.dep.ops.find? (·.oid == oid)

/-- Change the operation named `oid`. -/
def modOp (oid : Nat) (f : Op → Op) (b : Block) : Block :=
  { b with dep := { b.dep with ops := modFirst (·.oid == oid) f b.dep.ops } }

/-- Sequencer `n`. -/
def seqrOf (b : Block) (n : Nat) : Seqr := tget seqrZero b.seq.seqrs n

/-- Change sequencer `n`. -/
def modSeqr (n : Nat) (f : Seqr → Seqr) (b : Block) : Block :=
  { b with seq := { b.seq with seqrs := tmod seqrZero b.seq.seqrs n f } }

/-- Change the running pass of sequencer `n`, if any. -/
def modPass (n : Nat) (f : Pass → Pass) (b : Block) : Block :=
  modSeqr n (fun s => { s with pass := s.pass.map f }) b

/-- Lane `l` of a sequencer. -/
def laneOf (s : Seqr) (l : Nat) : Lane := tget laneZero s.lanes l

/-- Change lane `l` of sequencer `n`. -/
def modLane (n l : Nat) (f : Lane → Lane) (b : Block) : Block :=
  modSeqr n (fun s => { s with lanes := tmod laneZero s.lanes l f }) b

/-- Core `k`'s record. -/
def coreOf (b : Block) (k : Nat) : CoreRec := tget coreZero b.dsp.cores k

/-- Change core `k`'s record. -/
def modCore (k : Nat) (f : CoreRec → CoreRec) (b : Block) : Block :=
  { b with dsp := { b.dsp with cores := tmod coreZero b.dsp.cores k f } }

/-- The job of operation `oid`. -/
def jobOf (b : Block) (oid : Nat) : Option Job := b.dsp.jobs.find? (·.oid == oid)

/-- Change the job of operation `oid`. -/
def modJob (oid : Nat) (f : Job → Job) (b : Block) : Block :=
  { b with dsp := { b.dsp with jobs := modFirst (·.oid == oid) f b.dsp.jobs } }

/-- Mosaic slot `k`. -/
def mosOf (b : Block) (k : Nat) : MosRec := tget mosZero b.fab.slots k

/-- Mosaic slot `k` is open to context `c` (R82, R268). -/
def slotOpen (b : Block) (c k : Nat) : Bool :=
  ((mosOf b k).state == .ready || (mosOf b k).state == .rebinding || (mosOf b k).state == .broken) && bitOf (mosOf b k).ctxs c

/-- Members of the mosaic in slot `k` when it is open to context `c` (R102). -/
def openMembers (b : Block) (c k : Nat) : Option Nat :=
  if slotOpen b c k then some (mosOf b k).members.length else none

/-- Logical ranks of the mosaic in slot `k`, 0 where it holds none (R229). -/
def ranksOf (b : Block) (k : Nat) : Nat := if (mosOf b k).state == .free then 0 else (mosOf b k).members.length

/-- Change mosaic slot `k`. -/
def modMos (k : Nat) (f : MosRec → MosRec) (b : Block) : Block :=
  { b with fab := { b.fab with slots := tmod mosZero b.fab.slots k f } }

/-- The local slot that holds mosaic `id`, which is never 0 (R265). -/
def slotOfId (b : Block) (id : Nat) : Option Nat :=
  (b.fab.slots.find? (fun e => e.2.state != .free && e.2.id == id && id != 0)).map (·.1)

/-- Node IDs of the members of slot `k`, in rank order (R267). -/
def memberNodes (b : Block) (k : Nat) : List Nat := (mosOf b k).members.map (·.node)

/-- The leader of slot `k` (R232). -/
def leaderOf (b : Block) (k : Nat) : Nat := (memberNodes b k).headD 0

/-- This chip leads the mosaic of slot `k`. -/
def leads (b : Block) (k : Nat) : Bool := !(memberNodes b k).isEmpty && leaderOf b k == b.fab.node

/-- Link port `p`. -/
def portOf (b : Block) (p : Nat) : Port := tget portZero b.fab.ports p

/-- Change link port `p`. -/
def modPort (p : Nat) (f : Port → Port) (b : Block) : Block :=
  { b with fab := { b.fab with ports := tmod portZero b.fab.ports p f } }

/-- Epoch table slot `t`. -/
def epochOf (b : Block) (t : Nat) : Epoch := tget epochZero b.fab.epochs t

/-- Change epoch table slot `t`. -/
def modEpoch (t : Nat) (f : Epoch → Epoch) (b : Block) : Block :=
  { b with fab := { b.fab with epochs := tmod epochZero b.fab.epochs t f } }

/-- State pool `p`. -/
def poolOf (b : Block) (p : Nat) : Pool := tget poolZero b.bat.pools p

/-- Change state pool `p`. -/
def modPool (p : Nat) (f : Pool → Pool) (b : Block) : Block :=
  { b with bat := { b.bat with pools := tmod poolZero b.bat.pools p f } }

/-- Sequence `i`. -/
def seqnOf (b : Block) (i : Nat) : Seqn := tget seqnZero b.bat.seqs i

/-- Change sequence `i`. -/
def modSeqn (i : Nat) (f : Seqn → Seqn) (b : Block) : Block :=
  { b with bat := { b.bat with seqs := tmod seqnZero b.bat.seqs i f } }

/-- The turn loop of slot `k`. -/
def loopOf (b : Block) (k : Nat) : Loop := tget loopZero b.bat.loops k

/-- Change the turn loop of slot `k`. -/
def modLoop (k : Nat) (f : Loop → Loop) (b : Block) : Block :=
  { b with bat := { b.bat with loops := tmod loopZero b.bat.loops k f } }

/-- The token ring of context `c`. -/
def ringOf (b : Block) (c : Nat) : TokRing := tget ringZero b.bat.rings c

/-- Change the token ring of context `c`. -/
def modRing (c : Nat) (f : TokRing → TokRing) (b : Block) : Block :=
  { b with bat := { b.bat with rings := tmod ringZero b.bat.rings c f } }

/-- Power domain `d`; an absent PD_SEQn reads OFF (R405). -/
def domOf (b : Block) (d : Nat) : Dom :=
  if 5 + b.fuses.config.sequencers / 8 ≤ d then { domZero with st := .off } else tget domZero b.pwr.doms d

/-- Change power domain `d`. -/
def modDom (d : Nat) (f : Dom → Dom) (b : Block) : Block :=
  { b with pwr := { b.pwr with doms := tmod domZero b.pwr.doms d f } }

/-- Pool `p` is configured for the mosaic in slot `k` (R111). -/
def poolOk (b : Block) (k p : Nat) : Bool := (poolOf b p).cfgd && (poolOf b p).slot == k

/-- Some pool is configured for the mosaic in slot `k` (R91, R275). -/
def poolFor (b : Block) (k : Nat) : Bool := b.bat.pools.any (fun e => e.2.cfgd && e.2.slot == k)

/-- The context that owns the pools of slot `k` (R234). -/
def poolOwner (b : Block) (k : Nat) : Option Nat :=
  (b.bat.pools.find? (fun e => e.2.cfgd && e.2.slot == k)).map (·.2.ctx)

/-- Key slot `h` is owned by context `c` (R113). -/
def keyOwned (b : Block) (c h : Nat) : Bool :=
  let r := tget keyZero b.sec.slots h
  r.state != .empty && r.ctx == c

/-- SCH's record of slot `k`. -/
def schOf (b : Block) (k : Nat) : SchSlot := tget schSlotZero b.sch.slots k

/-- Change SCH's record of slot `k`. -/
def modSch (k : Nat) (f : SchSlot → SchSlot) (b : Block) : Block :=
  { b with sch := { b.sch with slots := tmod schSlotZero b.sch.slots k f } }

/-- SCH's record of context `c`. -/
def schCtx (b : Block) (c : Nat) : SchCtx := tget schCtxZero b.sch.ctxs c

/-- Change SCH's record of context `c`. -/
def modSchCtx (c : Nat) (f : SchCtx → SchCtx) (b : Block) : Block :=
  { b with sch := { b.sch with ctxs := tmod schCtxZero b.sch.ctxs c f } }

/-- Key slot `h`. -/
def keyOf (b : Block) (h : Nat) : KeySlot := tget keyZero b.sec.slots h

/-- Change key slot `h`. -/
def modKey (h : Nat) (f : KeySlot → KeySlot) (b : Block) : Block :=
  { b with sec := { b.sec with slots := tmod keyZero b.sec.slots h f } }

/-- A progress event of queue `q`: its hang watchdog restarts (R365). -/
def progress (q : Nat) (b : Block) : Block := { b with flt := { b.flt with wd := tset 0 b.flt.wd q 0 } }

/-! ### Clocks (R8, R20) -/

/-- CLK_HUB cycles since reset; with CLK_ROOT lost the count stands. -/
def hubNow (b : Block) : Nat := b.time.root / 8

/-- CLK_REF cycles since reset; the count goes on while CLK_ROOT is lost. -/
def refNow (b : Block) : Nat := (b.time.root + b.time.lost) / 192

/-- CLK_MGT cycles since reset. -/
def mgtNow (b : Block) : Nat := b.time.root / 96

/-- Note something of the CLK_HUB cycle that runs (R11). -/
def noteCycle (n : CycleNote) (b : Block) : Block := { b with time := { b.time with notes := n :: b.time.notes } }

/-- The CLK_HUB cycle that runs has this note. -/
def noted (b : Block) (n : CycleNote) : Bool := b.time.notes.contains n

/-- A hardware update of a RW field from `old` to `new`: a software write of the same cycle takes effect over it (R11). -/
def swWins (b : Block) (n : CycleNote) (old new : Nat) : Nat := if noted b n then old else new

/-- A hardware update of a 256-bit field held in four registers of 64 bits (R11). -/
def swWins4 (b : Block) (n : Nat → CycleNote) (old new : Nat) : Nat :=
  ((List.range 4).map (fun i => at_ (swWins b (n i) (fld old (64 * i) 64) (fld new (64 * i) 64)) (64 * i))).sum

/-- Core `k` is marked failed (R165, R167). -/
def failCore (k : Nat) (b : Block) : Block := noteCycle (.coreFailed k) (modCore k (fun c => { c with failed := true }) b)

/-- A timer whose expiry cycle is `t` fires: that cycle is over, and the event awaited has not come in it (R10). -/
def expired (now t : Nat) : Bool := decide (t < now)

/-- A timer that runs has fired. -/
def due (now : Nat) : Option Nat → Bool
  | none => false
  | some t => expired now t

/-! ### Power domains (R381) -/

/-- Power domain `d` is ON and accepts work; PD_AON, index 0, always is. An entry refuses new work from its cycle 1 on (R382). -/
def domOn (b : Block) (d : Nat) : Bool :=
  d == 0 || (domOf b d).st == .on || (domOf b d).st == .entering && (domOf b d).entStep == 0

/-- The power domain of sequencer `n` is ON (R22). -/
def seqUp (b : Block) (n : Nat) : Bool := domOn b (5 + n / 8)

/-! ### Outputs and free values -/

/-- Drive `o` on its port. The list holds the newest first. -/
def emit (o : Output) (b : Block) : Block := { b with out := o :: b.out }

/-- Drive a list of outputs, the first of them first. -/
def emitAll : List Output → Block → Block
  | [], b => b
  | o :: os, b => emitAll os (emit o b)

/-- The next free value of width `w`. -/
def freeVal (w : Nat) (b : Block) : BitVec w := Config.freeValue w b.fresh

/-- Count a free value as used. -/
def useFree (b : Block) : Block := { b with fresh := b.fresh + 1 }

/-! ### Wakes (R386) -/

/-- A wake of source `src` for domain `d` (R383, R385, R386). One in RET or OFF begins its exit. In one that is ON the idle count
restarts. In one that is entering, a wake in the cycle in which the idle timer expired starts no entry, any other is latched and the
domain exits after its entry. -/
def wakeOne (d src : Nat) (b : Block) : Block :=
  let m := domOf b d
  if d == 0 || decide (5 + b.fuses.config.sequencers / 8 ≤ d) then b
  else if m.st == .on then (if m.idleAt.isSome then modDom d (fun m => { m with idleAt := none }) b else b)
  else if m.st == .entering && m.entStep == 0 && m.entAdm.isNone then modDom d (fun m => { m with st := .on, latched := none }) b
  else match m.st, m.latched with
  | .on, _ | .leaving, _ | _, some _ => b
  | .entering, none => modDom d (fun m => { m with latched := some src }) b
  | _, none => emit (.pdSwitch d true) (modDom d (fun m => { m with
      st := .leaving, fromOff := m.fromOff || m.st == .off, lastWake := src, wakes := satAdd 32 m.wakes 1, idleAt := none }) b)

/-- A wake event: PD_BAT, PD_SEC and the PD_SEQn first wake PD_HUB, which records DEPENDENT. -/
def wake (d src : Nat) (b : Block) : Block :=
  let b := if domOn b d || d == 1 || d == 3 then b else wakeOne 1 8 b
  wakeOne d src b

/-- The PLACE wake of the domain of sequencer `n`. -/
def wakeSeq (n : Nat) (b : Block) : Block := wake (5 + n / 8) 5 b

/-! ### Counts of the configuration (R1, R3) -/

/-- Configured contexts. -/
def nContexts (b : Block) : Nat := b.fuses.config.contexts
/-- Configured queues. -/
def nQueues (b : Block) : Nat := b.fuses.config.queues
/-- Configured sequencers. -/
def nSeqrs (b : Block) : Nat := b.fuses.config.sequencers
/-- Configured cores. -/
def nCores (b : Block) : Nat := b.fuses.config.cores
/-- Configured sequence identifiers. -/
def nSequences (b : Block) : Nat := b.fuses.config.sequences
/-- Configured link ports. -/
def nPorts (b : Block) : Nat := b.fuses.config.ports
/-- Configured memory channels. -/
def nChannels (b : Block) : Nat := b.fuses.config.channels

/-! ### Host port requests -/

/-- Request MSI-X vector `v`, unless in stalemate or without CLK_ROOT (R63, R73, R372). -/
def msix (v : Nat) (b : Block) : Block := if b.flt.stale || b.flt.clockLost then b else emit (.msix v) b

/-- The lowest read tag not outstanding, while fewer than MAX_READS reads are out (R51, R71). -/
def freeReadTag (b : Block) : Option Nat :=
  if b.hub.reads.length < b.hub.maxReads then firstBelow 512 (fun i => (tget none b.hub.reads i).isNone) else none

/-- The lowest write identifier not outstanding (R71). -/
def freeWriteTag (b : Block) : Option Nat := firstBelow 512 (fun i => (tget none b.hub.writes i).isNone)

/-- Issue a host read under a free tag; none while none is free or in stalemate (R70, R73). -/
def hostRead (use : ReadUse) (addr len : Nat) (ast : Option Nat) (b : Block) : Option Block :=
  if b.flt.stale then none else
  match freeReadTag b with
  | none => none
  | some id => some (emit (.hostRead id addr len ast)
      { b with hub := { b.hub with reads := tset none b.hub.reads id (some use) } })

/-- Issue a host write under a free identifier; none while none is free or in stalemate. -/
def hostWrite (use : WriteUse) (addr : Nat) (data : List Byte) (ast : Option Nat) (b : Block) :
    Option (Nat × Block) :=
  if b.flt.stale then none else
  match freeWriteTag b with
  | none => none
  | some id => some (id, emit (.hostWrite (512 + id) addr data ast)
      { b with hub := { b.hub with writes := tset none b.hub.writes id (some use) } })

/-- Status of a failed host response: UR and CA give XLAT_FAULT, poisoned MEM_UNCORRECTED (R52). -/
def respStatus (s : BitVec 3) : Status := if s = 3 then .memUncorrected else .xlatFault

/-- Status of a descriptor completion that is not OK (R200, R203). -/
def ddStatus (s : BitVec 3) : Status :=
  if s = 2 then .memUncorrected else if s = 3 then .authFail else if s = 4 then .ctxTornDown else .xlatFault

end Sys2Proof.Machine
end

