-- ==== Sys2Proof/Machine/Operands.lean ====
section
/-! DEFINITION. Every operand form of the host-memory structures: submission entries, patch records, command packets
of both generations and their checks (R45, R46, R53, R56, R76 to R118). -/

namespace Sys2Proof.Machine

/-! ### Submission entries -/

/-- A 64-byte G2 entry's fields (R45). -/
def entryG2 (e : List Byte) : Entry :=
  let w1 := word e 1; let w3 := word e 3; let w8 := word e 8
  { seqno := word e 0 + at_ (fld w1 0 16) 32, overlap := bitOf w1 26, irq := bitOf w1 25, complete := bitOf w1 24,
    ifrev := fld w1 16 8, cbLen := word e 2, cbAddr := dword e 4, patchCount := fld w3 0 16,
    patchAddr := dword e 6, wait0 := bitOf w3 27, wait0Cmp := fld w3 16 4, wait0Flag := fld w8 0 16,
    wait0Val := BitVec.ofNat 64 (dword e 10), wait1 := bitOf w3 28, wait1Cmp := fld w3 20 4,
    wait1Flag := fld w8 16 16, wait1Val := BitVec.ofNat 64 (dword e 12), sig := bitOf w3 29,
    sigOp := fld w3 24 3, sigFlag := fld (word e 9) 0 16, sigVal := BitVec.ofNat 64 (dword e 14) }

/-- A 32-byte G1 entry's fields (R46). -/
def entryG1 (e : List Byte) : Entry :=
  let w1 := word e 1
  { seqno := word e 0 + at_ (fld w1 0 16) 32, overlap := bitOf w1 18, irq := bitOf w1 17, complete := bitOf w1 16,
    ifrev := 0, cbLen := word e 2, cbAddr := word e 4 + at_ (fld (word e 5) 0 16) 32, patchCount := 0,
    patchAddr := 0, wait0 := false, wait0Cmp := 0, wait0Flag := 0, wait0Val := 0, wait1 := false, wait1Cmp := 0,
    wait1Flag := 0, wait1Val := 0, sig := false, sigOp := 0, sigFlag := 0, sigVal := 0 }

/-- The entry of a queue of the generation given. -/
def entryOf (gen2 : Bool) (e : List Byte) : Entry := if gen2 then entryG2 e else entryG1 e

/-- Entry size in bytes (R36). -/
def entrySize (gen2 : Bool) : Nat := if gen2 then 64 else 32

/-- The reserved fields of an entry are zero (R56 step 2). -/
def entryReservedOk (gen2 : Bool) (e : List Byte) : Bool :=
  if gen2 then fld (word e 1) 27 5 == 0 && fld (word e 3) 30 2 == 0 && fld (word e 9) 16 16 == 0
  else fld (word e 1) 19 13 == 0 && word e 3 == 0 && fld (word e 5) 16 16 == 0 && word e 6 == 0 && word e 7 == 0

/-- Steps 1 to 8 of R56 on an entry's bytes: the status of the first check that fails. -/
def entryCheck (gen2 any : Bool) (expected ifrev : Nat) (e : List Byte) : Option Status :=
  let f := entryOf gen2 e
  if gen2 && f.ifrev != ifrev then some .revMismatch
  else if !entryReservedOk gen2 e then some .badParam
  else if !any && f.seqno != expected then some .badParam
  else if f.irq && !f.complete then some .badParam
  else if (f.wait0 && decide (8 < f.wait0Cmp)) || (f.wait1 && decide (8 < f.wait1Cmp))
      || (f.sig && decide (4 < f.sigOp)) then some .badParam
  else if (f.cbLen != 0 && f.cbAddr % 32 != 0) || (f.patchCount != 0 && f.patchAddr % 16 != 0) then some .badAlign
  else if f.cbLen % 32 != 0 then some .badLength
  else if (f.cbLen != 0 && decide (2 ^ (if gen2 then 64 else 48) < f.cbAddr + f.cbLen))
      || (f.patchCount != 0 && decide (2 ^ 64 < f.patchAddr + 16 * f.patchCount)) then some .badExtent
  else none

/-! ### Patch records (R53) -/

/-- A 16-byte patch record. -/
def patchOf (r : List Byte) : Patch :=
  { offset := word r 0, width := 2 ^ fld (word r 1) 0 2, value := dword r 2 }

/-- Steps 9 to 11 of R56 on one record, after a record with offset `prev`. -/
def patchCheck (prev cbLen : Nat) (r : List Byte) : Option Status :=
  let p := patchOf r
  if fld (word r 1) 2 30 != 0 || decide (2 ^ (8 * p.width) ≤ p.value) || decide (p.offset < prev) then some .badParam
  else if p.offset % p.width != 0 then some .badAlign
  else if cbLen < p.offset + p.width then some .badExtent
  else none

/-- Put bytes `bs` of buffer offset `o` into the bytes `l` that begin at buffer offset `base`. -/
def overlayAt (base : Nat) (l : List Byte) (o : Nat) (bs : List Byte) : List Byte :=
  if base ≤ o then overlay l (o - base) bs else overlay l 0 (bs.drop (base - o))

/-- Apply the patch records, in list order, to bytes at `base` (R53, R55). -/
def applyPatches (base : Nat) : List Patch → List Byte → List Byte
  | [], l => l
  | p :: ps, l => applyPatches base ps (overlayAt base l p.offset (leBytes p.value p.width))

/-- Apply the bytes that PATCH_FROM_FLAG wrote, in order (R109). -/
def applyWrites (base : Nat) : List (Nat × List Byte) → List Byte → List Byte
  | [], l => l
  | (o, bs) :: ws, l => applyWrites base ws (overlayAt base l o bs)

/-! ### Packet headers and properties (R76, R79) -/

/-- The opcode a code names. -/
def opcOf (code : Nat) : Option Opc :=
  if code = 0x01 then some .nop else if code = 0x02 then some .launch else if code = 0x03 then some .launchTurn
  else if code = 0x04 then some .copy else if code = 0x05 then some .fill else if code = 0x06 then some .collective
  else if code = 0x08 then some .waitFlag else if code = 0x09 then some .signalFlag
  else if code = 0x0A then some .fence else if code = 0x0C then some .patchFromFlag
  else if code = 0x10 then some .seqAdmit else if code = 0x11 then some .seqRetire
  else if code = 0x12 then some .kvReserve else if code = 0x18 then some .keyBind
  else if code = 0x19 then some .transcriptMark else if code = 0x1A then some .atomicBegin
  else if code = 0x1B then some .atomicEnd else if code = 0x1C then some .rngSeed
  else if code = 0x3F then some .endP else none

/-- The opcode is of kind operation. -/
def Opc.isOp : Opc → Bool
  | .nop | .fence | .atomicBegin | .atomicEnd | .endP => false
  | _ => true

/-- The opcode has a G1 form. -/
def Opc.inG1 : Opc → Bool
  | .nop | .launch | .copy | .fill | .waitFlag | .signalFlag | .fence | .endP => true
  | _ => false

/-- NONDET is allowed. -/
def Opc.nondetOk : Opc → Bool
  | .launch | .collective => true
  | _ => false

/-- ATOMIC is allowed. -/
def Opc.atomicOk : Opc → Bool
  | .launch | .copy | .fill | .collective => true
  | _ => false

/-- Permitted inside an open atomic section; ATOMIC_END closes it. -/
def Opc.inSection : Opc → Bool
  | .nop | .launch | .copy | .fill | .collective | .signalFlag | .fence | .keyBind | .transcriptMark
  | .atomicEnd => true
  | _ => false

/-- Permitted inside a turn template. -/
def Opc.inTemplate : Opc → Bool
  | .nop | .launch | .copy | .fill | .collective | .waitFlag | .signalFlag | .fence | .endP => true
  | _ => false

/-- LEN is within the opcode's range, as far as the header alone says (R79). -/
def lenInRange (o : Opc) (gen2 : Bool) (len : Nat) : Bool :=
  if !gen2 then len == 0 else
  match o with
  | .nop => true
  | .launch => decide (1 ≤ len)
  | .launchTurn | .copy | .fill | .collective | .keyBind => len == 1
  | .waitFlag | .signalFlag => decide (len ≤ 1)
  | .seqAdmit => len == 2
  | _ => len == 0

/-- What the header word says (R76). -/
def hdrOpc (w : Nat) : Nat := fld w 0 8
/-- LEN. -/
def hdrLen (w : Nat) : Nat := fld w 8 4
/-- GEN. -/
def hdrGen2 (w : Nat) : Bool := bitOf w 12

/-- Steps 1 to 4 of R89 on the packet's first 32-byte unit `u`: the header word, and for step 3 the MEM bit of a
G2 flag packet, which lies in the same unit (R103; DEDUCED, log entry 10). `limit` is CB_LEN or TPL_LEN. -/
def headerCheck (g1ok : Bool) (off limit : Nat) (u : List Byte) : Option Status :=
  let w := word u 0
  if !hdrGen2 w && !g1ok then some .notPermitted else
  match opcOf (hdrOpc w) with
  | none => some .badOpcode
  | some o =>
    if !hdrGen2 w && !o.inG1 then some .badOpcode
    else if !lenInRange o (hdrGen2 w) (hdrLen w) then some .badLength
    else if (o == .waitFlag || o == .signalFlag) && hdrGen2 w && hdrLen w != b2n (bitOf (word u 4) 4) then
      some .badLength
    else if limit < off + 32 * (hdrLen w + 1) then some .badLength
    else none

/-! ### Packet bodies -/

/-- The 48-bit address of a G1 body at word `i` (R116). -/
def addr48 (p : List Byte) (i : Nat) : Nat := word p i + at_ (fld (word p (i + 1)) 0 16) 32

/-- A list of `n` argument words from word `i`. -/
def argWords (p : List Byte) : Nat → Nat → List Nat
  | _, 0 => []
  | i, n + 1 => word p i :: argWords p (i + 1) n

/-- `n` operand descriptors from word `i` (R93). -/
def operandDescs (p : List Byte) : Nat → Nat → List (Nat × Nat)
  | _, 0 => []
  | i, n + 1 => (dword p i, dword p (i + 2)) :: operandDescs p (i + 4) n

/-- The LAUNCH of either generation (R93, R117). -/
def launchBody (gen2 : Bool) (p : List Byte) : LaunchB :=
  if gen2 then
    let w4 := word p 4; let nops := fld w4 4 4
    { fclass := fld w4 0 4, k := word p 5, gridM := fld (word p 6) 0 24, gridN := fld (word p 7) 0 24,
      progAddr := dword p 8, progLen := word p 10, ops := operandDescs p 12 nops,
      args := argWords p (12 + 4 * nops) (fld w4 8 8) }
  else
    { fclass := 0, k := 0, gridM := fld (word p 1) 8 24, gridN := 1, progAddr := addr48 p 4,
      progLen := 64 * fld (word p 5) 16 16, ops := [(addr48 p 6, fld (word p 7) 16 16)], args := [] }

/-- Brick length of a class; 0 for NONE (R94). -/
def brickLen (fclass : Nat) : Nat :=
  if fclass = 1 then 4096 else if fclass = 2 then 1024 else if fclass = 3 then 256 else if fclass = 4 then 4096 else 0

/-- Bricks of a LAUNCH; 1 for NONE (R95). -/
def bricksOf (l : LaunchB) : Nat := if l.fclass = 0 then 1 else ceilDiv l.k (brickLen l.fclass)

/-- Work of a LAUNCH (R95). -/
def workOf (l : LaunchB) : Nat := l.gridM * l.gridN * bricksOf l

/-- The body of a packet whose opcode and generation are known. -/
def bodyOf (o : Opc) (gen2 : Bool) (p : List Byte) : Body :=
  let w1 := word p 1; let w4 := word p 4
  match o with
  | .launch => .launch (launchBody gen2 p)
  | .launchTurn => .launchTurn w4 (word p 5) (dword p 6) (dword p 8) (word p 10)
  | .copy => if gen2 then .copy (dword p 4) (dword p 6) (dword p 8)
             else .copy (fld w1 8 24) (addr48 p 4) (addr48 p 6)
  | .fill => if gen2 then .fill (2 ^ fld w4 0 2) (dword p 6) (dword p 8) (BitVec.ofNat 64 (dword p 10))
             else .fill 4 (fld w1 8 24) (addr48 p 4) (BitVec.ofNat 64 (word p 6))
  | .collective => .collective (fld w4 16 14) (fld w4 8 5) (fld w4 4 4) (fld w4 0 4)
             (word p 5 + at_ (fld (word p 6) 0 8) 32) (dword p 8) (dword p 10)
  | .waitFlag => if gen2 then .waitFlag (bitOf w4 4) (fld w4 16 16) (fld w4 0 4) (BitVec.ofNat 64 (dword p 6))
                   (if bitOf w4 4 then dword p 8 else 0)
             else .waitFlag false (fld w1 16 16) (fld w1 8 4) (BitVec.ofNat 64 (dword p 4)) 0
  | .signalFlag => if gen2 then .signalFlag (bitOf w4 4) (bitOf w4 5) (fld w4 16 16) (fld w4 0 3)
                     (fld (word p 5) 0 14) (BitVec.ofNat 64 (dword p 6)) (if bitOf w4 4 then dword p 8 else 0)
             else .signalFlag false false (fld w1 16 16) (fld w1 8 3) 0 (BitVec.ofNat 64 (dword p 4)) 0
  | .patchFromFlag => .patchFromFlag (fld w4 16 16) (2 ^ fld w4 0 2) (word p 5)
  | .seqAdmit => .seqAdmit (fld w4 0 14) (fld w4 16 6) (fld w4 24 2) (fld w4 28 3)
             (argWords p 12 (fld (word p 5) 0 4)) (dword p 6) (word p 8) (word p 9 + at_ (fld (word p 10) 0 8) 32)
  | .seqRetire => .seqRetire (fld w4 0 14)
  | .kvReserve => .kvReserve (fld w4 0 14) (word p 5)
  | .keyBind => .keyBind (bitOf w4 16) (fld w4 0 10) (dword p 6) (dword p 8)
  | .transcriptMark => .transcriptMark w4 (dword p 6)
  | .rngSeed => .rngSeed (BitVec.ofNat 128 (leNat (slice p 16 16)))
  | .nop | .fence | .atomicBegin | .atomicEnd | .endP => .control

/-- A packet decoded from all its bytes; none where the opcode is not defined. -/
def packetOf (p : List Byte) : Option Packet :=
  let w0 := word p 0; let w1 := word p 1
  match opcOf (hdrOpc w0) with
  | none => none
  | some o => some
    { opc := o, gen2 := hdrGen2 w0, len := hdrLen w0, nondet := bitOf w0 16, atomic := bitOf w0 17,
      compIrq := bitOf w0 18, slot := if o.isOp && hdrGen2 w0 then some (fld w1 8 6) else none,
      tag := if o.isOp then fld w1 0 6 else 0, mask := if o.isOp then dword p 2 else 0,
      scope := if o = .fence then fld w1 0 4 else 0, body := bodyOf o (hdrGen2 w0) p }

/-- Words `[i, i + n)` are zero. -/
def zeroWords (p : List Byte) (i n : Nat) : Bool := allZero (slice p (4 * i) (4 * n))

/-- Step 5 of R89. -/
def check5 (k : Packet) (p : List Byte) : Bool :=
  fld (word p 0) 19 13 == 0 && fld (word p 0) 13 3 == 0 && (!k.nondet || k.opc.nondetOk)
  && (!k.atomic || k.opc.atomicOk) && (!k.compIrq || k.opc.isOp)

/-- Step 6 of R89, given whether a section is open. -/
def check6 (k : Packet) (inSect : Bool) : Bool :=
  match k.opc with
  | .atomicBegin => !inSect
  | .atomicEnd => inSect
  | .endP => !inSect
  | _ => true

/-- Step 7 of R89, given whether a section is open and whether the packet lies in a template. -/
def check7 (k : Packet) (inSect inTpl : Bool) : Bool :=
  (!inSect || k.opc.inSection) && (!inTpl || (k.opc.inTemplate && k.gen2))

/-- Step 8 of R89, given the mask of tags that earlier packets carry. -/
def check8 (k : Packet) (p : List Byte) (tags : Nat) : Bool :=
  !k.opc.isOp ||
  ((if k.gen2 then fld (word p 1) 14 18 == 0 else true) && fld (word p 1) 6 2 == 0
    && (bitsOf k.mask 64).all (bitOf tags ·))

/-- COLLECTIVE formats (R221). -/
def collFmtOk (f : Nat) : Bool := [0x01, 0x02, 0x03, 0x04, 0x05, 0x0F, 0x11].contains f

/-- Step 9 of R89 for the packet at `off`: reserved fields, codes, counts, combinations. `nSeq` is the configured
sequence count; `members` the member count of the mosaic in MSLOT, none where no open mosaic is there (R102). -/
def check9 (k : Packet) (p : List Byte) (off nSeq : Nat) (members : Option Nat) : Bool :=
  let w1 := word p 1; let w4 := word p 4; let w5 := word p 5
  match k.body with
  | .control =>
    match k.opc with
    | .nop => true
    | .fence => fld w1 4 28 == 0 && decide (fld w1 0 4 ≤ 2) && zeroWords p 2 6
    | _ => zeroWords p 1 7
  | .launch l =>
    (if k.gen2 then
      fld w4 16 16 == 0 && decide (fld w4 4 4 ≤ 8) && decide (l.fclass ≤ 4) && (l.fclass != 0 || l.k == 0)
      && fld (word p 6) 24 8 == 0 && fld (word p 7) 24 8 == 0 && word p 11 == 0
      && allZero (p.drop (4 * (12 + 4 * fld w4 4 4 + fld w4 8 8)))
    else true) && decide (workOf l ≤ 2 ^ 48)
  | .launchTurn .. => zeroWords p 11 5
  | .copy .. => if k.gen2 then zeroWords p 10 6 else fld w5 16 16 == 0 && fld (word p 7) 16 16 == 0
  | .fill .. => if k.gen2 then fld w4 2 30 == 0 && w5 == 0 && zeroWords p 12 4
                else fld w5 16 16 == 0 && word p 7 == 0
  | .collective root fmt rop kind _ _ _ =>
    fld w4 30 2 == 0 && fld w4 13 3 == 0 && collFmtOk fmt && decide (rop ≤ 2) && decide (kind ≤ 4)
    && ((kind != 2 && kind != 3) || rop == 0) && fld (word p 6) 8 24 == 0 && word p 7 == 0 && zeroWords p 12 4
    && (match members with
        | none => true
        | some n => (kind != 3 && kind != 4) || decide (root < n))
  | .waitFlag mem _ cmp _ _ =>
    decide (cmp ≤ 8) &&
    (if k.gen2 then fld w4 5 11 == 0 && w5 == 0 && (!mem || zeroWords p 10 6)
     else fld w1 12 4 == 0 && zeroWords p 6 2)
  | .signalFlag mem remote _ op node _ _ =>
    decide (op ≤ 4) &&
    (if k.gen2 then fld w4 6 10 == 0 && !bitOf w4 3 && fld w5 14 18 == 0 && (remote || node == 0)
        && !(remote && mem) && (!mem || zeroWords p 10 6)
     else fld w1 11 5 == 0 && zeroWords p 6 2)
  | .patchFromFlag _ _ o => fld w4 2 14 == 0 && zeroWords p 6 2 && decide (off + 32 ≤ o)
  | .seqAdmit seq .. =>
    !bitOf w4 31 && fld w4 26 2 == 0 && fld w4 22 2 == 0 && fld w4 14 2 == 0 && fld w5 4 28 == 0
    && decide (fld w5 0 4 ≤ 8) && fld (word p 10) 8 24 == 0 && word p 11 == 0
    && zeroWords p (12 + fld w5 0 4) (8 - fld w5 0 4) && zeroWords p 20 4 && decide (seq < nSeq)
  | .seqRetire seq => fld w4 14 18 == 0 && zeroWords p 5 3 && decide (seq < nSeq)
  | .kvReserve seq _ => fld w4 14 18 == 0 && zeroWords p 6 2 && decide (seq < nSeq)
  | .keyBind .. => fld w4 17 15 == 0 && fld w4 10 6 == 0 && w5 == 0 && zeroWords p 10 6
  | .transcriptMark .. => w5 == 0
  | .rngSeed _ => true

/-- Step 10 of R89: alignment. -/
def check10 (k : Packet) : Bool :=
  match k.body with
  | .launch l => l.progAddr % 64 == 0
  | .launchTurn _ _ ta ia _ => ta % 32 == 0 && ia % 64 == 0
  | .waitFlag mem _ _ _ a => !mem || a % 8 == 0
  | .signalFlag mem _ _ _ _ _ a => !mem || a % 8 == 0
  | .patchFromFlag _ w o => o % w == 0
  | .seqAdmit _ _ _ _ _ a _ _ => a % 4 == 0
  | .keyBind _ _ base len => base % 4096 == 0 && len % 4096 == 0
  | .transcriptMark _ d => d % 64 == 0
  | _ => true

/-- Step 11 of R89: declared contents and lengths. -/
def check11 (k : Packet) (p : List Byte) : Bool :=
  match k.body with
  | .launch l =>
    (if k.gen2 then decide (12 + 4 * fld (word p 4) 4 4 + fld (word p 4) 8 8 ≤ 8 * (k.len + 1)) else true)
    && decide (8 ≤ l.progLen) && decide (l.progLen ≤ 524288) && l.progLen % 8 == 0
  | .launchTurn _ tl _ _ _ => decide (32 ≤ tl) && decide (tl ≤ 65536) && tl % 32 == 0
  | _ => true

/-- Step 12 of R89: extents. -/
def check12 (k : Packet) (cbLen nSeq : Nat) : Bool :=
  match k.body with
  | .launchTurn _ tl ta ia il =>
    decide (ta + tl ≤ 2 ^ 64) && decide (64 + 16 * nSeq ≤ il) && decide (ia + il ≤ 2 ^ 64)
  | .patchFromFlag _ w o => decide (o + w ≤ cbLen)
  | .seqAdmit _ _ _ _ _ a n _ => decide (a + 4 * n ≤ 2 ^ 64)
  | .keyBind _ _ base len => decide (base + len ≤ 2 ^ 64)
  | .transcriptMark _ d => decide (d + 64 ≤ 2 ^ 64)
  | _ => true

/-- Steps 5 to 12 of R89 in order, on all the bytes of a packet whose header passed. -/
def bodyCheck (k : Packet) (p : List Byte) (off cbLen nSeq tags : Nat) (inSect inTpl : Bool)
    (members : Option Nat) : Option Status :=
  if !check5 k p then some .badParam
  else if !check6 k inSect then some .badState
  else if !check7 k inSect inTpl then some .notPermitted
  else if !check8 k p tags then some .badParam
  else if !check9 k p off nSeq members then some .badParam
  else if !check10 k then some .badAlign
  else if !check11 k p then some .badLength
  else if !check12 k cbLen nSeq then some .badExtent
  else none

/-- The patchable fields of a packet as (offset in the packet, width) (R108). -/
def patchable (k : Packet) : List (Nat × Nat) :=
  match k.body with
  | .launch l => if k.gen2 then
      (List.range l.ops.length).map (fun i => (48 + 16 * i, 8))
      ++ (List.range l.args.length).map (fun j => (48 + 16 * l.ops.length + 4 * j, 4)) else []
  | .copy .. => if k.gen2 then [(16, 8), (24, 8), (32, 8)] else []
  | .fill .. => if k.gen2 then [(24, 8), (32, 8), (40, 8)] else [(24, 4)]
  | .waitFlag .. | .signalFlag .. => if k.gen2 then [(24, 8)] else [(16, 8)]
  | _ => []

/-- A PATCH_FROM_FLAG target overlaps the bytes `[off, off + n)`. -/
def targetIn (t : Nat × Nat × Nat) (off n : Nat) : Bool := decide (t.2.1 < off + n) && decide (off < t.2.1 + t.2.2)

/-- Step 14 of R89: the offset of the first PATCH_FROM_FLAG whose target falls in the packet outside every patchable
field. Of several such in one packet, the earliest PATCH_FROM_FLAG is named (DESIGN CHOICE, log entry 47). -/
def badTarget (k : Packet) (off : Nat) (ts : List (Nat × Nat × Nat)) : Option Nat :=
  (ts.find? (fun t => targetIn t off (32 * (k.len + 1)) &&
    !((patchable k).any (fun f => decide (off + f.1 ≤ t.2.1) && decide (t.2.1 + t.2.2 ≤ off + f.1 + f.2))))).map (·.1)

end Sys2Proof.Machine
end

