-- ==== Sys2Proof/Machine/Flags.lean ====
section
/-! DEFINITION. The flag file: compares, signal operations, page maps, and which waits hold (R104, R126 to R131). -/

namespace Sys2Proof.Machine

/-- A wait's compare of flag value `f` with VALUE `v` (R104). -/
def waitHolds (cmp : Nat) (f v : W64) : Bool :=
  match cmp with
  | 0 => f == v
  | 1 => f != v
  | 2 => decide (v.toNat ≤ f.toNat)
  | 3 => decide (v.toNat < f.toNat)
  | 4 => decide (f.toNat ≤ v.toNat)
  | 5 => decide (f.toNat < v.toNat)
  | 6 => decide ((f - v).toNat < 2 ^ 63)
  | 7 => (f &&& v) != 0
  | 8 => (f &&& v) == v
  | _ => false

/-- The new value of a flag under a signal operation (R104). -/
def signalValue (op : Nat) (f v : W64) : W64 :=
  match op with
  | 0 => v
  | 1 => f + v
  | 2 => if f.toNat < v.toNat then v else f
  | 3 => f ||| v
  | 4 => f &&& ~~~v
  | _ => f

/-- The value of flag `i` (R126). -/
def flagOf (b : Block) (i : Nat) : W64 := tget 0 b.dep.flags i

/-- Store a flag; a change of a flag that a candidate waits on is noted for the detector (R142). -/
def setFlag (i : Nat) (v : W64) (b : Block) : Block :=
  { b with dep := { b.dep with
      flags := tset 0 b.dep.flags i v,
      first := b.dep.first.map (fun w =>
        if v != flagOf b i && w.flags.contains i then { w with changed := true } else w) } }

/-- Flag `i` is poisoned until its next SET (source 0x04 of R356). -/
def flagBad (b : Block) (i : Nat) : Bool := b.flt.badFlags.contains i

/-- Perform a signal operation on flag `i` as one read-modify-write (R129). A SET ends a poisoning; any other operation
would read the poisoned value and leaves it. -/
def signalFlag (op i : Nat) (v : W64) (b : Block) : Block :=
  if op = 0 then setFlag i v { b with flt := { b.flt with badFlags := b.flt.badFlags.filter (· != i) } }
  else if flagBad b i then b else setFlag i (signalValue op (flagOf b i) v) b

/-- Page `p` is open to context `c` (R126). -/
def pageOpen (b : Block) (c p : Nat) : Bool := bitOf (tget 0 b.dep.maps c) p

/-- Flag `i` may be named by context `c` (R127). -/
def flagAllowed (b : Block) (c i : Nat) : Bool := pageOpen b c (i / 256)

/-- Close every page of context `c`. Any page that is then open to no context is zeroed in the same step, which changes
the flags of it that did not hold 0 (R127, R142). -/
def closePages (c : Nat) (b : Block) : Block :=
  let maps := tset 0 b.dep.maps c (swWins4 b (.flagMap c) (tget 0 b.dep.maps c) 0)
  let gone (p : Nat) : Bool := !(maps.any (fun e => bitOf e.2 p))
  let hit (w : WcdFirst) : Bool := w.flags.any (fun i => gone (i / 256) && flagOf b i != 0)
  { b with dep := { b.dep with
      maps := maps, flags := b.dep.flags.filter (fun e => !gone (e.1 / 256)),
      first := b.dep.first.map (fun w => if hit w then { w with changed := true } else w) } }

/-- The on-block wait of a WAIT_FLAG operation: flag, compare, value. -/
def opWait (o : Op) : Option (Nat × Nat × W64) :=
  match o.pkt.body with
  | .waitFlag false f c v _ => some (f, c, v)
  | _ => none

/-- A released on-block wait that has not completed holds a wait-list entry (R131). -/
def holdsEntry (o : Op) : Bool := (opWait o).isSome && o.stage == .released

/-- An inline wait holds a wait-list entry: from the gain of it before the submission starts until the wait completes. -/
def InlineWait.holds (w : InlineWait) : Bool :=
  match w with
  | .entry | .waiting _ => true
  | .none | .satisfied => false

/-- Inline waits of a submission that hold an entry. -/
def inlineEntries (s : Sub) : Nat := b2n s.wait0.holds + b2n s.wait1.holds

/-- Wait-list entries of context `c` (R146). -/
def ctxWaiters (b : Block) (c : Nat) : Nat :=
  (b.dep.ops.filter (fun o => o.ctx == c && holdsEntry o)).length
  + ((b.hub.queues.filter (fun e => ctxOfQueue e.1 == c)).map
      (fun e => (e.2.subs.map inlineEntries).foldl (· + ·) 0)).foldl (· + ·) 0

/-- Wait-list entries in use across the block (R131). -/
def waitEntries (b : Block) : Nat :=
  (b.dep.ops.filter holdsEntry).length
  + (b.hub.queues.map (fun e => (e.2.subs.map inlineEntries).foldl (· + ·) 0)).foldl (· + ·) 0

/-- A released memory wait that has not completed (R133). -/
def isMemWait (o : Op) : Bool :=
  match o.pkt.body with
  | .waitFlag true .. => o.stage == .released
  | _ => false

/-- Released memory waits across the block. -/
def memWaits (b : Block) : Nat := (b.dep.ops.filter isMemWait).length

/-- A descriptor is the read of a memory wait. -/
def isPoll (u : Option DdUse) : Bool := match u with | some u => (match u.owner with | .poll _ => true | _ => false) | none => false

/-- Polls outstanding across the block, those of waits aborted meanwhile among them (R133). -/
def pollsOut (b : Block) : Nat :=
  (b.seq.seqrs.map (fun e => (e.2.dd.filter (fun d => isPoll d.2)).length)).foldl (· + ·) 0

/-- An operation that still counts as decoded and not complete (R121). -/
def Op.live (o : Op) : Bool :=
  match o.stage with
  | .complete | .dead => false
  | _ => true

/-- Decoded operations not complete, across the block (R121). -/
def liveOps (b : Block) : Nat := (b.dep.ops.filter Op.live).length

/-- A failing on-block wait of a queue: release order, flag, submission, the packet's offset and its operation (none for
an inline wait) (R139, R146). -/
structure FailWait where
  relNo : Nat
  flag  : Nat
  sid   : Nat
  off   : Option Nat
  oid   : Option Nat
deriving DecidableEq, Repr

/-- The failing inline waits of a submission. -/
def subFailWaits (b : Block) (s : Sub) : List FailWait :=
  (match s.wait0 with
   | .waiting r => if waitHolds s.ent.wait0Cmp (flagOf b s.ent.wait0Flag) s.ent.wait0Val then []
                   else [{ relNo := r, flag := s.ent.wait0Flag, sid := s.sid, off := none, oid := none }]
   | _ => []) ++
  (match s.wait1 with
   | .waiting r => if waitHolds s.ent.wait1Cmp (flagOf b s.ent.wait1Flag) s.ent.wait1Val then []
                   else [{ relNo := r, flag := s.ent.wait1Flag, sid := s.sid, off := none, oid := none }]
   | _ => [])

/-- The failing on-block waits of queue `q`. -/
def failWaits (b : Block) (q : Nat) : List FailWait :=
  (b.dep.ops.filterMap (fun o =>
    if o.q == q && o.stage == .released then
      match opWait o with
      | some (f, c, v) => if waitHolds c (flagOf b f) v then none
          else some { relNo := o.relNo, flag := f, sid := o.sid, off := some o.off, oid := some o.oid }
      | none => none
    else none))
  ++ ((queueOf b q).subs.map (subFailWaits b)).flatten

/-- The wait with the least release number. -/
def oldestWait : List FailWait → Option FailWait
  | [] => none
  | w :: ws => match oldestWait ws with
    | none => some w
    | some v => if w.relNo ≤ v.relNo then some w else some v

end Sys2Proof.Machine
end

