-- ==== Sys2Proof/Machine/Reply.lean ====
section
/-! DEFINITION. The admin rings: taking commands, ordering keys, common checks, replies, and the host buffers of commands
(R406 to R419). -/

namespace Sys2Proof.Machine

/-! ### Entries (R407, R419) -/

/-- Field of a command entry: word, lowest bit, width. -/
def ef (e : List Byte) (w lo n : Nat) : Nat := fld (word e w) lo n

/-- The admin opcode of an entry. -/
def admOpc (e : List Byte) : Nat := ef e 0 0 8

/-- The opcodes of R421. -/
def admListed (o : Nat) : Bool :=
  [0x01, 0x02, 0x03, 0x04, 0x05, 0x10, 0x11, 0x12, 0x13, 0x18, 0x19, 0x20, 0x21, 0x22, 0x28, 0x30, 0x31, 0x38, 0x39, 0x41,
   0x48, 0x49].contains o

/-- The opcodes that the ROM's built-in table serves (R399). -/
def admRecovery (o : Nat) : Bool := [0x01, 0x38, 0x39, 0x41, 0x49, 0x30].contains o

/-- The fields of an opcode's parameters, as (word, lowest bit, width); a width past 32 runs on (R419). -/
def admFields (o : Nat) : List (Nat × Nat × Nat) :=
  match o with
  | 0x02 => [(4, 16, 6), (4, 8, 1), (4, 0, 8), (5, 0, 20)]
  | 0x03 => [(4, 0, 8)]
  | 0x04 => [(4, 17, 1), (4, 16, 1), (4, 8, 3), (4, 0, 8), (5, 16, 8), (5, 8, 5), (5, 0, 5), (6, 0, 64), (8, 0, 64)]
  | 0x05 => [(4, 8, 3), (4, 0, 8)]
  | 0x10 => [(4, 16, 16), (4, 8, 8), (4, 0, 6), (5, 0, 15), (6, 0, 64), (8, 0, 64), (10, 0, 20), (12, 0, 256)]
  | 0x11 => [(4, 0, 6), (11, 0, 512), (27, 0, 64), (29, 0, 72)]
  | 0x12 => [(4, 9, 1), (4, 8, 1), (4, 0, 6), (5, 0, 15), (6, 0, 64), (8, 24, 6), (8, 8, 14), (8, 0, 6), (11, 0, 512),
             (27, 0, 64), (29, 0, 72)]
  | 0x13 => [(4, 0, 6)]
  | 0x18 => (4, 0, 5) :: ((List.range 27).map (fun i => [(5 + i, 16, 16), (5 + i, 0, 8)])).flatten
  | 0x19 => [(4, 0, 6), (6, 0, 64)]
  | 0x20 => [(4, 0, 32), (5, 16, 10), (5, 0, 8), (6, 0, 128), (10, 0, 320)]
  | 0x21 => [(4, 0, 10)]
  | 0x22 => [(4, 16, 1), (4, 0, 8), (5, 0, 13), (6, 0, 64), (8, 0, 64)]
  | 0x28 => [(4, 24, 1), (4, 16, 8), (4, 8, 6), (4, 0, 6), (5, 0, 5), (6, 0, 17), (7, 0, 32), (8, 0, 64)]
  | 0x30 => [(4, 8, 2), (4, 0, 4)]
  | 0x31 => [(4, 0, 3), (5, 0, 12)]
  | 0x38 => [(4, 0, 32), (6, 0, 64)]
  | 0x39 => [(4, 0, 1)]
  | 0x41 => [(4, 0, 1), (5, 0, 32), (6, 0, 32), (8, 0, 64)]
  | 0x48 => [(4, 0, 6)]
  | 0x49 => [(4, 8, 1), (4, 0, 5)]
  | _ => []

/-- Bit `i` of word `w` lies in one of the fields. -/
def inFields (fs : List (Nat × Nat × Nat)) (w i : Nat) : Bool :=
  fs.any (fun f => decide (32 * f.1 + f.2.1 ≤ 32 * w + i) && decide (32 * w + i < 32 * f.1 + f.2.1 + f.2.2))

/-- The lowest bit of the reserved field that bit `i` of word `w` lies in. -/
def fieldStart (fs : List (Nat × Nat × Nat)) (w : Nat) : Nat → Nat
  | 0 => 0
  | i + 1 => if inFields fs w i then i + 1 else fieldStart fs w i

/-- Byte offset of the lowest non-zero reserved field of an entry (R407, R415 step 4). -/
def reservedAt (e : List Byte) : Option Nat :=
  let fs := [(0, 0, 8), (0, 16, 8), (1, 0, 32)] ++ admFields (admOpc e)
  (List.range 32).findSome? (fun w =>
    if word e w = 0 then none else
    ((List.range 32).find? (fun i => bitOf (word e w) i && !inFields fs w i)).map
      (fun i => 4 * w + fieldStart fs w i / 8))

/-! ### Ordering keys (R417) -/

/-- An ordering key. -/
inductive AdmKey where
  | ctx (c : Nat) | slot (s : Nat) | handle (h : Nat) | domain (d : Nat)
  | newctx | newmos | spdm | image | dvfs | lease | dump
deriving DecidableEq, Repr

/-- The keys of an entry (R421). -/
def admKeys (e : List Byte) : List AdmKey :=
  match admOpc e with
  | 0x02 => [.ctx (ef e 4 0 8), .newctx]
  | 0x03 | 0x04 | 0x05 => [.ctx (ef e 4 0 8)]
  | 0x10 => [.slot (ef e 4 0 6), .newmos]
  | 0x11 | 0x12 | 0x13 | 0x19 | 0x48 => [.slot (ef e 4 0 6)]
  | 0x18 => (List.range (min 27 (ef e 4 0 5))).map (fun i => .ctx (ef e (5 + i) 0 8))
  | 0x20 => [.handle (ef e 5 16 10), .spdm]
  | 0x21 => [.handle (ef e 4 0 10)]
  | 0x22 => [.spdm]
  | 0x28 => [.slot (ef e 4 8 6)]
  | 0x30 => [.domain (ef e 4 0 4)]
  | 0x31 => [.dvfs]
  | 0x38 | 0x39 => [.image]
  | 0x41 => [.dump]
  | 0x49 => [.lease]
  | _ => []

/-! ### Commands in progress -/

/-- The command of number `i`, which is its ring index modulo 1,024. -/
def admOf (b : Block) (i : Nat) : Option AdmCmd := b.adm.cmds.find? (·.idx == i)

/-- Change the command of number `i`. -/
def modAdm (i : Nat) (f : AdmCmd → AdmCmd) (b : Block) : Block :=
  { b with adm := { b.adm with cmds := modFirst (·.idx == i) f b.adm.cmds } }

/-- No earlier-taken command that shares a key with the command of number `i` is still without its first reply. -/
def mayStart (i : Nat) (e : List Byte) : List AdmCmd → Bool
  | [] => true
  | c :: cs =>
    if c.idx == i then true
    else (c.replied || (admKeys c.entry).all (fun k => !(admKeys e).contains k)) && mayStart i e cs

/-- The command of ring index `k` that carries opcode `opc`, has not started and may start. -/
def admAt (b : Block) (opc k : Nat) : Option AdmCmd :=
  b.adm.cmds.find? (fun c => c.idx % 1024 == k && !c.started && admOpc c.entry == opc && mayStart c.idx c.entry b.adm.cmds)

/-- The awaiting command of ring index `k` whose final reply is due. -/
def admDueAt (b : Block) (k : Nat) : Option AdmCmd :=
  b.adm.cmds.find? (fun c => c.idx % 1024 == k && c.finalDue.isSome)

/-- Commands that await a final reply. -/
def awaiting (b : Block) : Nat := (b.adm.cmds.filter (·.replied)).length

/-- A command may be taken (R411). -/
def admRoom (b : Block) : Bool :=
  let free := (b.adm.rplHead + 1023 - b.adm.rplTail) % 1024
  decide (b.adm.cmds.length < 64) && decide (b.adm.cmds.length + awaiting b < free)

/-! ### Replies (R410 to R413) -/

/-- A 64-bit word of a window table for each pair of the 32-bit words of an entry. -/
def putEntry (t : Table Nat) (k : Nat) (ws : List Nat) : Table Nat :=
  (List.range 16).foldl (fun t j => tset 0 t (16 * k + j) (ws.getD (2 * j) 0 + at_ (ws.getD (2 * j + 1) 0) 32)) t

/-- The command of number `i` has a reply; it is written as the cycle ends (R410, R411). -/
def admReply (i : Nat) (st : Status) (detail : Nat) (result : List Nat) (final : Bool) (b : Block) : Block :=
  match admOf b i with
  | none => b
  | some c =>
    let r : AdmOut := { idx := i, opc := admOpc c.entry, tag := word c.entry 1, st := st, detail := detail, result := result,
                        final := final }
    let cmds := if final then b.adm.cmds.filter (·.idx != i)
      else modFirst (·.idx == i) (fun c => { c with replied := true }) b.adm.cmds
    { b with adm := { b.adm with cmds := cmds, due := b.adm.due ++ [r] } }

/-- Write a reply at TAIL (R410, R411, R413). -/
def admPut (r : AdmOut) (b : Block) : Block :=
  let a := b.adm
  let w0 := at_ r.st.code 24 + at_ r.opc 16 + at_ (b2n a.phase) 15 + at_ (b2n r.final) 14 + r.idx % 1024
  let t := (a.rplTail + 1) % 1024
  let a := { a with rpl := putEntry a.rpl a.rplTail ([w0, r.tag, r.detail, 0] ++ r.result), rplTail := t,
                    phase := if t = 0 then !a.phase else a.phase }
  let b := { b with adm := a }
  if a.irqEn then msix 1024 b else b

/-- Insert a reply before those of a higher or the same INDEX. -/
def insIdx (r : AdmOut) : List AdmOut → List AdmOut
  | [] => [r]
  | x :: xs => if r.idx % 1024 ≤ x.idx % 1024 then r :: x :: xs else x :: insIdx r xs

/-- The replies of the commands that finished in the cycle are written in ascending INDEX (R411). -/
def admFlush (b : Block) : Block :=
  match b.adm.due with
  | [] => b
  | rs => (rs.foldr insIdx []).foldl (fun b r => admPut r b) { b with adm := { b.adm with due := [] } }

/-- The final reply. -/
def admFinal (i : Nat) (st : Status) (b : Block) : Block := admReply i st 0xFFFFFFFF [] true b

/-- The final reply of a check that failed on the field at byte `off` of the entry. -/
def admBad (i : Nat) (st : Status) (off : Nat) (b : Block) : Block := admReply i st off [] true b

/-- The final reply of each of a list of commands that finish in one cycle. -/
def admFinals (is : List Nat) (st : Status) (b : Block) : Block := is.foldl (fun b i => admFinal i st b) b

/-- Stalemate entry: every command in progress or awaiting is answered STALEMATE, in ascending INDEX; no vector is requested, since
the replies are written in stalemate (R411, R418). -/
def staleReplies (b : Block) : Block :=
  admFinals (b.adm.cmds.map (·.idx)) .stalemate b

/-! ### Taking and starting (R408, R415) -/

/-- The 128 bytes of a command ring entry. -/
def entryAt (b : Block) (k : Nat) : List Byte :=
  ((List.range 16).map (fun j => leBytes (tget 0 b.adm.cmd (16 * k + j)) 8)).flatten

/-- A command as it is taken: it finishes under the admin table then in force (R402, R418). -/
def admZero (i : Nat) (e : List Byte) (b : Block) : AdmCmd :=
  { idx := i, entry := e, recov := b.pwr.img.recovery, major := b.pwr.ifrev / 256, started := false, replied := false,
    finalDue := none, stage := 0, got := [], next := 0, out := 0, bad := none }

/-- ADMIN_COMMAND_TAKE: the entry at HEAD, when the ring holds one and the limits of R408 and R411 allow. An entry with an
uncorrected error is answered MEM_UNCORRECTED and not performed (R356), an opcode of no admin table at once (R415 step 1). -/
def adminTake (b : Block) : Block :=
  let a := b.adm
  let now := hubNow b
  let soon : Bool := match a.takenAt with | some t => decide (now < t + 2) | none => false
  if a.cmdHead = a.cmdTail ∨ !admRoom b ∨ soon ∨ !domOn b 1 then b else
  let i := a.cmdHead
  let e := entryAt b i
  let n := 1024 * a.laps + i
  let a := { a with cmds := a.cmds ++ [admZero n e b], cmdHead := (i + 1) % 1024, takenAt := some now
                    laps := if i = 1023 then a.laps + 1 else a.laps, bad := a.bad.filter (· != i) }
  let b' := { b with adm := a, flt := { b.flt with admLog := (e.take 32 :: b.flt.admLog).take 64 } }
  if b.adm.bad.contains i then admFinal n .memUncorrected b'
  else if admListed (admOpc e) then b' else admBad n .badOpcode 0 b'

/-- The common checks 2 to 4 of R415, under the image in force when the command was taken (R402): status and DETAIL of the
first that fails. -/
def commonCheck (c : AdmCmd) : Option (Status × Nat) :=
  if c.recov && !admRecovery (admOpc c.entry) then some (.notPermitted, 0)
  else if !c.recov && admOpc c.entry ≠ 0x01 && ef c.entry 0 16 8 ≠ c.major then some (.revMismatch, 2)
  else (reservedAt c.entry).map (fun o => (.badParam, o))

/-- A command row: the taken command of ring index `k` that carries opcode `opc` and may start makes the common
checks and then `f`. -/
def adminRow (opc k : Nat) (f : Nat → List Byte → Block → Block) (b : Block) : Block :=
  match admAt b opc k with
  | none => b
  | some c =>
    if !domOn b 1 then b else
    let b := modAdm c.idx (fun c => { c with started := true }) b
    match commonCheck c with
    | some (st, d) => admBad c.idx st d b
    | none => f c.idx c.entry b

/-- DEFERRED_FINAL_REPLY: the final reply that is due to an awaiting command (R412). -/
def deferredFinal (k : Nat) (b : Block) : Block :=
  match admDueAt b k with
  | none => b
  | some c => match c.finalDue with
    | some (st, res) => admReply c.idx st 0xFFFFFFFF ((List.range (res.length / 4)).map (word res)) true b
    | none => b

/-- The outcome of a command whose work has ended: an awaiting command has its final reply due, any other is answered. -/
def admDone (i : Nat) (st : Status) (result : List Nat) (b : Block) : Block :=
  match admOf b i with
  | none => b
  | some c =>
    if c.replied then modAdm i (fun c => { c with finalDue := some (st, (result.map (fun w => leBytes w 4)).flatten) }) b
    else admReply i st 0xFFFFFFFF result true b

/-! ### Host buffers (R416) -/

/-- The buffer a command reads, `data` of it read so far: address, bytes, byte offset of its address field. A board
image's length is known once its header has been read (R314). -/
def admSource (e data : List Byte) : Nat × Nat × Nat :=
  match admOpc e with
  | 0x10 | 0x12 => (dword e 6, 64 * ef e 5 0 15, 24)
  | 0x19 =>
    let n := fld (word data 0) 0 11
    (dword e 6, if data.length < 16 ∨ n = 0 ∨ 1024 < n then 16 else 16 + 4 * n, 24)
  | 0x22 => (dword e 6, ef e 5 0 13, 24)
  | 0x38 => (dword e 6, word e 4, 24)
  | _ => (0, 0, 0)

/-- The buffer a command writes: address and byte offset of its address field. -/
def admDest (e : List Byte) : Nat × Nat :=
  match admOpc e with
  | 0x22 | 0x41 => (dword e 8, 32)
  | _ => (0, 0)

/-- A buffer of `n` bytes at `a` fails its alignment or extent. -/
def bufBad (a n align : Nat) : Option Status :=
  if a % align ≠ 0 then some .badAlign else if 2 ^ 64 < a + n then some .badExtent else none

/-- Bytes of a buffer that one request takes from address `a` with `n` left: up to the end of the 512-byte line. -/
def piece (a n : Nat) : Nat := min n (512 - a % 512)

/-- Command `i` begins to read its source buffer. -/
def admRead (i : Nat) (b : Block) : Block :=
  modAdm i (fun c => { c with stage := 1, got := [], next := 0, out := 0, bad := none }) b

/-- Command `i` begins to write `data` to its destination buffer. -/
def admWrite (i : Nat) (data : List Byte) (b : Block) : Block :=
  modAdm i (fun c => { c with stage := 2, got := [(0, data)], next := 0, out := 0, bad := none }) b

/-- Bytes gathered or to be written. -/
def AdmCmd.data (c : AdmCmd) : List Byte := tget [] c.got 0

/-- Issue the next request of a command's buffer, one at a time (DESIGN CHOICE, log entry 18). -/
def admPumpOne (c : AdmCmd) (b : Block) : Block :=
  if c.out ≠ 0 then b else
  match c.stage with
  | 1 =>
    let s := admSource c.entry c.data
    let a := s.1 + c.next
    if s.2.1 ≤ c.next then b else
    match hostRead (.adm c.idx) a (piece a (s.2.1 - c.next)) none b with
    | some b => modAdm c.idx (fun c => { c with out := 1 }) b
    | none => b
  | 2 =>
    let n := c.data.length
    let a := (admDest c.entry).1 + c.next
    if n ≤ c.next then b else
    let k := piece a (n - c.next)
    match hostWrite (.adm c.idx) a (slice c.data c.next k) none b with
    | some (_, b) => modAdm c.idx (fun c => { c with out := 1, next := c.next + k }) b
    | none => b
  | _ => b

/-- Issue what the commands in progress need. -/
def admPump (b : Block) : Block := b.adm.cmds.foldl (fun b c => admPumpOne c b) b

end Sys2Proof.Machine
end

