-- ==== Sys2Proof/Machine/Fault.lean ====
section
/-! DEFINITION. FLT's report path: source state, summary, log record, stalemate entry, partition reset requests and
escalation (R354 to R361, R367 to R370, R375, R376). -/

namespace Sys2Proof.Machine

/-- The code of a class in a log record (R375). -/
def Cls.code : Cls → Nat
  | .ce => 0 | .ucc => 1 | .ftl => 2

/-- One fault report: source, class, scope and its member, status applied, DETAIL, FORCED, UE (R356, R375). -/
structure Report where
  src    : Nat
  cls    : Cls
  scope  : Nat
  id     : Nat
  status : Status
  detail : Nat
  forced : Bool
  ue     : Bool
deriving DecidableEq, Repr

/-- A CE of scope NONE. -/
def ceReport (src : Nat) : Report :=
  { src := src, cls := .ce, scope := 0, id := 0, status := .ok, detail := 0, forced := false, ue := false }

/-- A UCC of a scope. -/
def uccReport (src scope id : Nat) (st : Status) (detail : Nat) : Report :=
  { src := src, cls := .ucc, scope := scope, id := id, status := st, detail := detail, forced := false, ue := false }

/-- An FTL, of scope BLOCK. -/
def ftlReport (src : Nat) : Report :=
  { src := src, cls := .ftl, scope := 6, id := 0, status := .stalemate, detail := 0, forced := false, ue := false }

/-- The words of a log record (R375). -/
def logRecord (b : Block) (r : Report) (errors : Nat) : List Byte :=
  leBytes (b.flt.written % 2 ^ 32) 4
  ++ leBytes (at_ r.src 26 + at_ r.cls.code 24 + at_ r.scope 21 + at_ (b2n r.forced) 20 + at_ (b2n r.ue) 19
      + at_ r.status.code 8) 4
  ++ leBytes r.id 4 ++ leBytes r.detail 4 ++ leBytes (refNow b) 8
  ++ leBytes (at_ b.flt.warm 16 + b.flt.stalemates) 4 ++ leBytes errors 4

/-- Append a record to the ring of 512. -/
def logWrite (rec : List Byte) (b : Block) : Block :=
  { b with flt := { b.flt with logRecs := tset [] b.flt.logRecs (b.flt.written % 512) rec,
                               written := (b.flt.written + 1) % 2 ^ 32 } }

/-- A class bit of FLT_SUMMARY is set; the vector of a bit that rises (R360). -/
def sumSet (c : Cls) (b : Block) : Block :=
  match c with
  | .ce =>
    let rise := !b.flt.sumCe && b.flt.ceIrq
    let b := { b with flt := { b.flt with sumCe := true } }
    if rise then msix 1025 b else b
  | .ucc =>
    let rise := !b.flt.sumUcc
    let b := { b with flt := { b.flt with sumUcc := true } }
    if rise then msix 1025 b else b
  | .ftl => b

/-! ### Stalemate (R351, R369, R370) -/

/-- Every lane's requests and every port's levels fall (R169, R205, R371). -/
def quietPorts (b : Block) : Block :=
  let lane (_ : Nat) (l : Lane) : Lane := { l with abReq := false, abDead := none, reraise := false }
  let seqrs := tmap seqrZero b.seq.seqrs (fun _ s => { s with lanes := tmap laneZero s.lanes lane, dfReq := none })
  { b with seq := { b.seq with seqrs := seqrs } }

/-- SEC raises `ks_kinv` and zeroises every slot, session secret, chain and sampling key (R351). -/
def secWipe (b : Block) : Block :=
  emit (.ksInvalid true) { b with sec := { b.sec with
    kinv := true, slots := [], bindings := [], sessions := [], nego := 0, spdm := spdmZero, chains := [], folds := [], marks := [],
    skey := [], jobs := [], revokes := [], tr := none } }

/-- A stalemate capture writes unless the dump held is itself a stalemate capture (R376). -/
def stalemateCapture (b : Block) : Bool := !(b.flt.dumpLocked && b.flt.dumpReason != 0x10)

/-- Every MMIO read that waits for PD_HUB at stalemate entry is answered with `hp_ms_err`, and every write discarded (R73). -/
def staleHeld (b : Block) : Block :=
  b.hub.held.foldl (fun b m => match m with
    | .read _ _ _ id => emit (.mmioResp id.toNat 0 true) b
    | .write _ _ => b) { b with hub := { b.hub with held := [] } }

/-- Stalemate is entered (R370): outputs fall, `fault_fatal_n` is driven low, SEC wipes, partition resets end, MMIO reads that
stand without their answer get it, and the capture and the FRESH HELLO become due. -/
def enterStalemate (reason src : Nat) (b : Block) : Block :=
  if b.flt.stale then b else
  let cap := stalemateCapture b
  let b := { b with flt := { b.flt with
    stale := true, reason := reason, src := src, entry := refNow b % 2 ^ 32,
    stalemates := satAdd 16 b.flt.stalemates 1, fatalPin := true, parts := [], freshDue := true,
    capDue := if cap then some { reason := reason, src := src, slot := 0 } else b.flt.capDue,
    dumpValid := if cap then false else b.flt.dumpValid } }
  staleReplies (staleHeld (quietPorts (secWipe (emit (.faultFatal true) b))))

/-- The stalemate reason of a fatal source (R379). -/
def staleReason (src : Nat) : Nat := if src = 0x3F then 2 else if src = 0x25 then 3 else 1

/-! ### Reports (R358 to R361) -/

/-- FLT takes one report: the source counts it and is ACTIVE, and a source that enters ACTIVE sets its class bit, in stalemate too
(R360, R361, R379); outside stalemate follow, for an FTL, the entry into stalemate, and the log record, which R370 writes after the
entry. -/
def report (r : Report) (b : Block) : Block :=
  let r := { r with forced := r.forced || b.flt.forcing == r.src + 1 }
  let s := tget srcZero b.flt.srcs r.src
  let errors := satAdd 32 s.errors 1
  let s' : Src := { s with active := true, cls := r.cls, scope := r.scope, errors := errors,
                           dead := hubNow b + 2 ^ b.flt.quietLog2 }
  let b := { b with flt := { b.flt with srcs := tset srcZero b.flt.srcs r.src s', lastSrc := r.src } }
  let b := if s.active then b else sumSet r.cls b
  if b.flt.stale then b else
  let b := if r.cls == .ftl then enterStalemate (staleReason r.src) r.src b else b
  if r.cls == .ce && s.active then b else logWrite (logRecord b r errors) b

/-! ### Partition resets (R367 to R369) -/

/-- A fault-caused reset enters its stamp, of which the last COUNT are held; the count reached reports source 0x25 (R369). -/
def escalate (b : Block) : Block :=
  let now := refNow b
  let held := (b.flt.stamps.filter (fun t => decide (now ≤ t + 2 ^ b.flt.escLog2)) ++ [now])
  let held := held.drop (held.length - b.flt.escCount)
  let b := { b with flt := { b.flt with stamps := held } }
  if b.flt.escCount ≠ 0 ∧ b.flt.escCount ≤ held.length then report (ftlReport 0x25) b else b

/-- A partition reset of slot `k` is requested by source `src`, 0 for a command: step 1 begins, or the request merges with the reset in progress.
`cause` is the queue whose own fault asks for it, `adm` the ring index of a PARTITION_RESET. -/
def startPart (k src : Nat) (cause adm : Option Nat) (b : Block) : Block :=
  if b.flt.stale then b else
  let p : PartRst := (tget none b.flt.parts k).getD
    { step := 1, src := src, cause := cause, adms := [], lanes := [], ranges := [], out := 0 }
  let fresh := (tget none b.flt.parts k).isNone
  let b := { b with flt := { b.flt with
    parts := tset none b.flt.parts k (some { p with adms := p.adms ++ adm.toList }),
    partResets := if fresh then satAdd 32 b.flt.partResets 1 else b.flt.partResets } }
  if src ≠ 0 then escalate b else b

/-- A partition reset of slot `k` is in progress (R379). -/
def resetting (b : Block) (k : Nat) : Bool := (tget none b.flt.parts k).isSome

/-- The mosaic slot that core `k` of this chip belongs to. -/
def slotOfCore (b : Block) (k : Nat) : Option Nat :=
  (b.fab.slots.find? (fun e => e.2.state != .free && bitOf e.2.cores k)).map (·.1)

/-- A stray on a core lane: counted and reported as CE (R164, R356). -/
def laneStray (b : Block) : Block :=
  report (ceReport 0x12) { b with dsp := { b.dsp with laneStray := satAdd 32 b.dsp.laneStray 1 } }

/-- A stray on a `dd_` port: counted and reported as CE (R203, R204). -/
def ddStray (n : Nat) (b : Block) : Block :=
  report (ceReport 0x13) (modSeqr n (fun s => { s with ddStray := satAdd 32 s.ddStray 1 }) b)

end Sys2Proof.Machine
end

