-- ==== Sys2Proof/Machine/Abort.lean ====
section
/-! DEFINITION. Shared operations of completion, abort and queue halt (R66, R119, R122, R161, R166, R167). -/

namespace Sys2Proof.Machine

/-- The completion vector of a queue: 4c + 0 for Q0 to Q2, 4c + 1 for Q3 to Q5 (R63, R78). -/
def complVector (q : Nat) : Nat := 4 * ctxOfQueue q + (if classOf q ≤ 2 then 0 else 1)

/-- The error vector of a queue's context (R63). -/
def errVector (q : Nat) : Nat := 4 * ctxOfQueue q + 3

/-- Operation `oid` is complete (R119); a COMPLETE_IRQ packet then requests its queue's vector (R78). -/
def completeOp (oid : Nat) (b : Block) : Block :=
  match opOf b oid with
  | none => b
  | some o =>
    if o.stage == .released then
      let b := progress o.q (modOp oid (fun o => { o with stage := .complete, poll := .none }) b)
      if o.pkt.compIrq then msix (complVector o.q) b else b
    else modOp oid (fun o => if o.stage == .aborting then { o with stage := .dead } else o) b

/-! ### Aborting passes and pieces (R161, R166) -/

/-- The banks that DSP counts as holding cores: the active one, and those of ended passes not yet reported (R155). -/
def banksOf (s : Seqr) : List Bank := s.active.toList ++ s.reports.map (·.bank)

/-- The sequencers with a pass of operation `oid` that has not reported its end. -/
def passesOf (b : Block) (oid : Nat) : List Nat :=
  (b.seq.seqrs.filter (fun e => (banksOf e.2).any (·.oid == oid))).map (·.1)

/-- The sequencers whose active bank holds operation `oid`. -/
def activeOf (b : Block) (oid : Nat) : List Nat :=
  (b.seq.seqrs.filter (fun e => e.2.active.any (·.oid == oid))).map (·.1)

/-- Raise the abort request of a lane: its issue buffer empties and its bound starts; a lane whose request is still
high raises it again after it has fallen (R166, R167). -/
def raiseAbort (now bound : Nat) (l : Lane) : Lane :=
  if l.abReq then { l with buf := [], reraise := true }
  else { l with buf := [], abReq := true, abDead := some (now + bound), expired := false }

/-- Abort request on lane `l` of sequencer `n`. -/
def abortLane (n l : Nat) (b : Block) : Block :=
  let was := (laneOf (seqrOf b n) l).abReq
  let b := modLane n l (raiseAbort (hubNow b) (2 ^ b.dsp.boundLog2)) b
  if was then b else emit (.laneAbort n l true) b

/-- Abort request on each lane of a list. -/
def abortLanes (n : Nat) : List Nat → Block → Block
  | [], b => b
  | l :: ls, b => abortLanes n ls (abortLane n l b)

/-- The cache entry a bank names: the valid one of its key, or the one that became invalid while the bank named it (R177). -/
def bankProg (k : Bank) (p : Prog) : Bool :=
  match k.gen with
  | some g => p.gen == g
  | none => p.ctx == k.ctx && p.addr == k.launch.progAddr && p.len == k.launch.progLen && !p.stale

/-- Programs that are invalid and named by neither bank are dropped (R177). -/
def dropStale (s : Seqr) : Seqr :=
  let named (p : Prog) : Bool :=
    let f (k : Option Bank) : Bool := match k with | some k => bankProg k p | none => false
    f s.active || f s.shadow
  { s with progs := s.progs.filter (fun p => !p.stale || named p) }

/-- Ask sequencer `n` to abort its pass: both streams stop and every lane of the pass is asked to abort. A bank
whose pass has not started is dropped. -/
def abortPass (n : Nat) (b : Block) : Block :=
  match (seqrOf b n).active, (seqrOf b n).pass with
  | some k, some p =>
    if p.abort || p.ended then b
    else abortLanes n (k.lanes.map (·.1)) (modPass n (fun p => { p with abort := true }) b)
  | some _, none => modSeqr n (fun s => dropStale { s with active := none }) b
  | none, _ => b

/-- Abort the passes of a list of sequencers. -/
def abortPasses : List Nat → Block → Block
  | [], b => b
  | n :: ns, b => abortPasses ns (abortPass n b)

/-- Withdraw the preloaded pieces of operation `oid`; a shadow bank then holding no piece is cleared (R160, R161). -/
def withdrawPieces (oid : Nat) (b : Block) : Block :=
  let cores := tmap coreZero b.dsp.cores (fun _ c =>
    { c with next := c.next.bind (fun p => if p.oid == oid then none else some p) })
  let seqrs := tmap seqrZero b.seq.seqrs (fun _ s => match s.shadow with
    | some k => if k.oid == oid then dropStale { s with shadow := none } else s
    | none => s)
  { b with dsp := { b.dsp with cores := cores }, seq := { b.seq with seqrs := seqrs } }

/-- Free the active piece of every core whose sequencer has no active bank and no report to make. -/
def freeIdleCores (b : Block) : Block :=
  let cores := tmap coreZero b.dsp.cores (fun k c =>
    if (banksOf (seqrOf b (k / 8))).isEmpty then { c with active := none } else c)
  { b with dsp := { b.dsp with cores := cores } }

/-- The scratch slots a job's tiles hold. -/
def jobSlots (j : Job) : List Nat := (j.tiles.map (·.all)).flatten

/-- Return scratch slots of mosaic slot `k` (R157). -/
def freeScratch (k : Nat) (sl : List Nat) (b : Block) : Block :=
  let sc := tmod [] b.dsp.scratch k (fun l => l.filter (fun x => !sl.contains x))
  { b with dsp := { b.dsp with scratch := sc } }

/-- Drop the job of an aborted operation once no pass of it is left, releasing its scratch slots (R161). -/
def dropAborted (oid : Nat) (b : Block) : Block :=
  match jobOf b oid, opOf b oid with
  | some j, some o =>
    if j.aborted && (passesOf b oid).isEmpty then
      freeScratch o.slot (jobSlots j) { b with dsp := { b.dsp with jobs := b.dsp.jobs.filter (·.oid != oid) } }
    else b
  | _, _ => b

/-- DSP's part of aborting an operation (R161). -/
def dspAbort (oid : Nat) (b : Block) : Block :=
  let b := modJob oid (fun j => { j with aborted := true, back := [], next := j.total }) b
  let b := withdrawPieces oid b
  let b := abortPasses (activeOf b oid) b
  dropAborted oid (freeIdleCores b)

/-- A released signal is performed whatever becomes of its queue (R129). -/
def isSignal (o : Op) : Bool :=
  match o.pkt.body with
  | .signalFlag .. => true
  | _ => false

/-- Abort one operation (R66, R161). -/
def abortOp (oid : Nat) (b : Block) : Block :=
  match opOf b oid with
  | none => b
  | some o =>
    match o.stage with
    | .decoded | .held => modOp oid (fun o => { o with stage := .dead }) b
    | .released =>
      if isSignal o then b
      else dspAbort oid (modOp oid (fun o => { o with stage := .aborting, poll := .none }) b)
    | _ => b

/-- Abort a list of operations. -/
def abortOps : List Nat → Block → Block
  | [], b => b
  | o :: os, b => abortOps os (abortOp o b)

/-- The operations of a submission. -/
def opsOfSub (b : Block) (sid : Nat) : List Op := b.dep.ops.filter (·.sid == sid)

/-- A descriptor of an ended pass of operation `oid` is still outstanding. -/
def orphaned (b : Block) (oid : Nat) : Bool :=
  b.seq.seqrs.any (fun e => e.2.dd.any (fun d => match d.2 with
    | some u => u.owner == .orphan oid
    | none => false))

/-- An operation is over: complete, never to be released, or aborted with every pass, descriptor and answer ended
(R60, R67). -/
def opOver (b : Block) (o : Op) : Bool :=
  match o.stage with
  | .complete | .dead => true
  | .aborting => (passesOf b o.oid).isEmpty && o.acks == 0 && !orphaned b o.oid
  | _ => false

/-- Every operation of a submission is over. -/
def subOver (b : Block) (sid : Nat) : Bool := (opsOfSub b sid).all (opOver b)

/-! ### Halting a queue (R66) -/

/-- The item of a line belongs to one of the submissions named. -/
def itemOf (sids : List Nat) : LineItem → Bool
  | .ring => false
  | .patch s => sids.contains s
  | .buf s => sids.contains s
  | .tpl s _ => sids.contains s

/-- Discard the lines of queue `q` that fail `keep`; a read still outstanding for one is discarded at its answer
(R52). -/
def dropLines (q : Nat) (keep : Line → Bool) (b : Block) : Block :=
  let gone := (queueOf b q).lines.filter (fun l => !keep l && l.data.isNone)
  let reads := tmap none b.hub.reads (fun _ u => match u with
    | some (.line q' it lo) =>
      if q' == q && gone.any (fun l => l.item == it && l.lo == lo) then some (.discard (ctxOfQueue q)) else u
    | u => u)
  let b := { b with hub := { b.hub with reads := reads } }
  modQueue q (fun r => { r with lines := r.lines.filter keep }) b

/-- A later submission of a queue that halts: QUEUE_GUILTY, with a record to write (R66). -/
def markGuilty (t : Sub) : Sub :=
  { t with fail := some (t.fail.getD { status := .queueGuilty, kind := 0, detail := 0xFFFFFFFF })
           wait0 := .none, wait1 := .none, record := if t.record == .notNeeded then .pending else t.record }

/-- Mark the submission `sid` failed with `f` and every later one QUEUE_GUILTY; earlier ones stay (R66, R439). -/
def markFailed (sid : Nat) (f : Failure) : List Sub → List Sub
  | [] => []
  | s :: ss =>
    if s.sid == sid then
      { s with fail := some (s.fail.getD f), wait0 := .none, wait1 := .none } :: ss.map markGuilty
    else s :: markFailed sid f ss

/-- The submission `sid` and those after it. -/
def fromSub (sid : Nat) : List Sub → List Nat
  | [] => []
  | s :: ss => if s.sid == sid then s.sid :: ss.map (·.sid) else fromSub sid ss

/-- The submissions before `sid`. -/
def beforeSub (sid : Nat) : List Sub → List Nat
  | [] => []
  | s :: ss => if s.sid == sid then [] else s.sid :: beforeSub sid ss

/-- A queue that is HALTED or DISABLED halts no further: the first failure in time stays the cause (R66). -/
def haltsNot (b : Block) (q : Nat) : Bool := (queueOf b q).state == .halted || (queueOf b q).state == .disabled

/-- A queue goes to HALTED with cause `st`, and its halt event is set (R66). -/
def setHalted (q : Nat) (st : Status) (b : Block) : Block :=
  noteCycle (.haltEvt q) (modCtx (ctxOfQueue q) (fun c => { c with haltEvt := setBit c.haltEvt (classOf q) })
    (modQueue q (fun r => { r with state := .halted, cause := st, armed := false }) b))

/-- A queue halts with no record of a failing submission: its lines are discarded (R52) and the error vector is
requested at once (R65, R66). -/
def enterHalt (q : Nat) (st : Status) (b : Block) : Block :=
  if haltsNot b q then b else msix (errVector q) (setHalted q st (dropLines q (fun _ => false) b))

/-- Queue `q` halts as submission `sid` fails: the error vector follows the submission's record (R63, R64, R66; DEDUCED,
log entry 40), or comes at once where that record is out already. -/
def haltBy (q sid : Nat) (st : Status) (b : Block) : Block :=
  if haltsNot b q then b
  else if (subOf b q sid).any (fun s => s.record == .pending) then
    modSub q sid (fun s => { s with halter := true }) (setHalted q st b)
  else msix (errVector q) (setHalted q st b)

/-- Queue `q` halts with submission `sid` failing by `f` (R66). Its prefetched lines are discarded; the lines read on
demand for the launch pass of earlier submissions stay, and that pass reads the others again (R52, R439). -/
def failSub (q sid : Nat) (f : Failure) (b : Block) : Block :=
  let subs := (queueOf b q).subs
  let b := haltBy q sid f.status b
  let b := modQueue q (fun r => { r with subs := markFailed sid f r.subs }) b
  let b := abortOps ((b.dep.ops.filter (fun o => o.q == q && (fromSub sid subs).contains o.sid)).map (·.oid)) b
  dropLines q (fun l => l.demand && itemOf (beforeSub sid subs) l.item) b

/-- A halt that names no submission takes the oldest that has not retired; with none, no record is written (R66). -/
def haltQueue (q : Nat) (st : Status) (b : Block) : Block :=
  match (queueOf b q).subs.find? (fun s => s.fail.isNone) with
  | some s => failSub q s.sid { status := st, kind := 0, detail := 0xFFFFFFFF } b
  | none => enterHalt q st b

/-- The packet whose offset a failure of the operation reports: its own, or the LAUNCH_TURN of its template. -/
def packetOff (b : Block) (o : Op) : Nat :=
  if o.inst = 0 then o.off else
  match (b.bat.insts.find? (·.id == o.inst)).bind (fun i => opOf b i.oid) with
  | some l => l.off
  | none => o.off

/-- Instance `id` of a turn template belongs to a turn in flight, or names none. -/
def instRuns (b : Block) (id : Nat) : Bool :=
  id == 0 || b.bat.loops.any (fun e => e.2.turn.any (fun t => t.inst == id))

/-- An operation fails: its submission fails with the packet's offset in DETAIL (R91, R122). A signal left over from an aborted
turn fails nothing (R257). -/
def failOp (oid : Nat) (st : Status) (b : Block) : Block :=
  match opOf b oid with
  | none => b
  | some o =>
    match subOf b o.q o.sid with
    | none => b
    | some s => if s.fail.isSome || !instRuns b o.inst then b
                else failSub o.q o.sid { status := st, kind := 3, detail := packetOff b o } b

end Sys2Proof.Machine
end

