-- ==== Sys2Proof/Machine/Fetch.lean ====
section
/-! DEFINITION. The fetcher, the prefetch buffer and the host reads of queues (R43, R44, R49 to R52). -/

namespace Sys2Proof.Machine

/-! ### The idle handshake (R43, R44) -/

/-- The fetcher of queue `q` may take a step: ACTIVE, lease not expired, no QUEUE_RESET in progress. -/
def fetcherRuns (b : Block) (r : QueueRec) : Bool :=
  r.state == .active && !b.hub.leaseExpired && !r.resetting

/-- An IDLE queue with PENDING set becomes ACTIVE; with the lease expired it holds with LEASE_STOP set. -/
def queueWake (q : Nat) (b : Block) : Block :=
  let r := queueOf b q
  if r.state == .idle && r.pending && !r.resetting then
    modQueue q (fun r => { r with state := .active, leaseStop := b.hub.leaseExpired }) b
  else b

/-- With HEAD at the captured tail the fetcher arms. -/
def fetcherArm (q : Nat) (b : Block) : Block :=
  let r := queueOf b q
  if fetcherRuns b r && !r.armed && r.head == r.captured then
    modQueue q (fun r => { r with armed := true }) b
  else b

/-- The capture: reads TAIL, clears PENDING, and goes IDLE only if nothing was pending and HEAD equals TAIL. -/
def captureRec (r : QueueRec) : QueueRec :=
  { r with captured := r.tail, pending := false, armed := false,
           state := if !r.pending && r.tail == r.head then .idle else r.state }

/-- An armed fetcher captures. -/
def fetcherCapture (q : Nat) (b : Block) : Block :=
  let r := queueOf b q
  if fetcherRuns b r && r.armed then modQueue q captureRec b else b

/-! ### Lines of the prefetch buffer (R49, R51) -/

/-- What reading a byte range of an item from the held lines gives: a byte not held (with whether its read is
outstanding), a failed read with the first address it covers, or the bytes. -/
inductive Got where
  | missing (a : Nat) (out : Bool)
  | bad (s : BitVec 3) (lo : Nat)
  | ok (l : List Byte)
deriving DecidableEq, Repr

/-- The line of an item that holds address `a`. -/
def lineAt (ls : List Line) (it : LineItem) (a : Nat) : Option Line :=
  ls.find? (fun l => l.item == it && decide (l.lo ≤ a) && decide (a < l.lo + l.len))

/-- Read `n` bytes of an item at `a`, over at most `fuel` lines. -/
def readRange (ls : List Line) (it : LineItem) : Nat → Nat → Nat → Got
  | _, _, 0 => .ok []
  | 0, a, _ => .missing a true
  | fuel + 1, a, n =>
    match lineAt ls it a with
    | none => .missing a false
    | some l => match l.data with
      | none => .missing a true
      | some (.bad s) => .bad s l.lo
      | some (.bytes d) =>
        let k := min n (l.lo + l.len - a)
        match readRange ls it fuel (a + k) (n - k) with
        | .ok r => .ok (slice d (a - l.lo) k ++ r)
        | g => g

/-- The first address of `[a, hi)` that no line of the item holds or awaits. -/
def firstGap (ls : List Line) (it : LineItem) : Nat → Nat → Nat → Option Nat
  | 0, _, _ => none
  | fuel + 1, a, hi =>
    if hi ≤ a then none else
    match lineAt ls it a with
    | none => some a
    | some l => firstGap ls it fuel (l.lo + l.len) hi

/-- The aligned 512-byte address lines among the lines of a queue that are held for demand reads, or that are shared: a
line that holds bytes of two stream items counts once (R49). -/
def heldLines (r : QueueRec) (demand : Bool) : List Nat :=
  ((r.lines.filter (fun l => l.demand == demand)).map (fun l => l.lo / 512)).dedup

/-- Shared lines a queue holds (R49). -/
def sharedLines (r : QueueRec) : Nat := (heldLines r false).length

/-- Shared lines in use across the block. -/
def sharedUsed (b : Block) : Nat := (b.hub.queues.map (fun e => sharedLines e.2)).foldl (· + ·) 0

/-- Demand lines in use across the block. -/
def demandUsed (b : Block) : Nat :=
  (b.hub.queues.map (fun e => (heldLines e.2 true).length)).foldl (· + ·) 0

/-- A queue may hold the aligned line of address `a` as a shared line: it does already, or it is below its PF_LINES and a
shared line is free (R49, R50). -/
def sharedRoom (b : Block) (r : QueueRec) (a : Nat) : Bool :=
  (heldLines r false).contains (a / 512) || (decide (sharedLines r < r.pfLines) && decide (sharedUsed b < 448))

/-- Address of ring entry `i`. -/
def entryAddr (r : QueueRec) (i : Nat) : Nat := r.ringBase + i * entrySize r.gen2

/-- The unwrapped stretch of ring entries from HEAD that the fetcher may read: first and past-last address. -/
def ringRange (r : QueueRec) : Nat × Nat :=
  (entryAddr r r.head, entryAddr r (if r.captured < r.head then 2 ^ r.ringLog2 else r.captured))

/-- The bytes of an item: first and past-last address. -/
def itemRange (r : QueueRec) : LineItem → Nat × Nat
  | .ring => ringRange r
  | .patch sid => match r.subs.find? (·.sid == sid) with
    | some s => (s.ent.patchAddr, s.ent.patchAddr + 16 * s.ent.patchCount)
    | none => (0, 0)
  | .buf sid => match r.subs.find? (·.sid == sid) with
    | some s => (s.ent.cbAddr, s.ent.cbAddr + s.ent.cbLen)
    | none => (0, 0)
  | .tpl sid off => match r.subs.find? (·.sid == sid) with
    | some s => match s.chk.tpl with
      | some t => if t.ltOff == off then (t.addr, t.addr + t.len) else (0, 0)
      | none => (0, 0)
    | none => (0, 0)

/-- Bytes of the next packet that a pass at `pos` still needs: its first unit, then, once steps 1 to 4 of R89 pass on the
patched header, all of it. -/
def packetNeed (g1 : Bool) (ls : List Line) (it : LineItem) (base pos limit : Nat) (patch : List Byte → List Byte) :
    Option Nat :=
  if limit ≤ pos then none else
  match readRange ls it 3 (base + pos) 32 with
  | .missing a false => some a
  | .ok u =>
    if (headerCheck g1 pos limit (patch u)).isSome then none else
    match readRange ls it 4 (base + pos) (32 * (hdrLen (word (patch u) 0) + 1)) with
    | .missing a false => some a
    | _ => none
  | _ => none

/-- Bytes of a submission's buffer below offset `upto` wait for a record of the patch list's second reading: the records
come in OFFSET order, and the last one taken lies below (R53, R54). -/
def patchWaits (s : Sub) (upto : Nat) : Bool :=
  decide (s.patchNext < s.ent.patchCount)
  && (match s.patches.getLast? with | some p => decide (p.offset < upto) | none => true)

/-- Offset past the aligned 512-byte line that holds offset `off` of a buffer at `base`. -/
def lineEnd (base off : Nat) : Nat := (base + off) / 512 * 512 + 512 - base

/-- The offset below which the check pass needs the patch records of the second reading before it can go on: those of
the lines that the next packet's header lies in, then of those that its other bytes lie in (R54, R89). -/
def patchReach (g1 : Bool) (ls : List Line) (s : Sub) : Option Nat :=
  if s.phase != .checking || s.chk.tpl.isSome then none else
  let it : LineItem := .buf s.sid; let base := s.ent.cbAddr; let pos := s.chk.pos
  match readRange ls it 3 (base + pos) 32 with
  | .ok u =>
    let h := lineEnd base pos
    if patchWaits s h then some h else
    let u := applyPatches pos s.patches u
    if (headerCheck g1 pos s.ent.cbLen u).isSome then none else
    let n := 32 * (hdrLen (word u 0) + 1)
    let e := lineEnd base (pos + n - 1)
    match readRange ls it 4 (base + pos) n with
    | .ok _ => if patchWaits s e then some e else none
    | _ => none
  | _ => none

/-- The address of the next patch record, where its bytes are neither held nor awaited. -/
def recordNeed (ls : List Line) (s : Sub) : Option (LineItem × Nat) :=
  if s.ent.patchCount ≤ s.patchNext then none else
  match readRange ls (.patch s.sid) 2 (s.ent.patchAddr + 16 * s.patchNext) 16 with
  | .missing a false => some (.patch s.sid, a)
  | _ => none

/-- Patches of a submission on the bytes at `pos` in its launch pass: its list, then what PATCH_FROM_FLAG wrote. -/
def launchPatch (s : Sub) (l : List Byte) : List Byte :=
  applyWrites s.lch.pos s.lch.flagWr (applyPatches s.lch.pos s.patches l)

/-- The next byte that the interpreter or the patch engine needs for a submission and does not have (R49). -/
def subNeed (g1 : Bool) (r : QueueRec) (s : Sub) : Option (LineItem × Nat) :=
  if s.fail.isSome then none else
  match s.phase with
  | .fetched => none
  | .patching => recordNeed r.lines s
  | .checking =>
    match s.chk.tpl with
    | some t => (packetNeed g1 r.lines (.tpl s.sid t.ltOff) t.addr t.pos t.len id).map (fun a => (.tpl s.sid t.ltOff, a))
    | none =>
      if (patchReach g1 r.lines s).isSome then recordNeed r.lines s else
      (packetNeed g1 r.lines (.buf s.sid) s.ent.cbAddr s.chk.pos s.ent.cbLen (applyPatches s.chk.pos s.patches)).map
        (fun a => (.buf s.sid, a))
  | .checked =>
    if s.lch.ended then none else
    (packetNeed g1 r.lines (.buf s.sid) s.ent.cbAddr s.lch.pos s.ent.cbLen (launchPatch s)).map
      (fun a => (.buf s.sid, a))

/-- No submission of the queue is between its entry check and the end of its check pass, so the interpreter waits
for the entry at HEAD. -/
def interpreterFree (r : QueueRec) : Bool := !(r.subs.any (fun s => s.fail.isNone && s.phase != .checked))

/-- The demand read a queue needs next, if any. A queue whose record could not be delivered stops fetching (R65); a
HALTED one reads only for the launch passes of submissions before the failing one (R66). -/
def demandOf (b : Block) (r : QueueRec) : Option (LineItem × Nat) :=
  if b.hub.leaseExpired || r.resetting || r.undeliverable then none else
  match r.subs.findSome? (fun s =>
      if r.state == .halted && s.phase != .checked then none else subNeed b.pwr.g1 r s) with
  | some x => some x
  | none =>
    if r.state == .active && interpreterFree r && r.head != r.captured then
      match lineAt r.lines .ring (entryAddr r r.head) with
      | none => some (.ring, entryAddr r r.head)
      | some _ => none
    else none

/-- The next byte of the queue's stream that its window does not hold (R49): patch lists and buffers of fetched
submissions, then entries from HEAD up to the captured tail. -/
def prefetchOf (b : Block) (r : QueueRec) : Option (LineItem × Nat) :=
  if b.hub.leaseExpired || r.resetting || r.undeliverable || !(r.state == .active || r.state == .idle) then none else
  let fuel := r.lines.length + 1
  let fromSub (s : Sub) : Option (LineItem × Nat) :=
    if s.fail.isSome || s.phase == .checked then none else
    match firstGap r.lines (.patch s.sid) fuel (s.ent.patchAddr + 16 * s.patchNext)
        (s.ent.patchAddr + 16 * s.ent.patchCount) with
    | some a => some (.patch s.sid, a)
    | none => (firstGap r.lines (.buf s.sid) fuel (s.ent.cbAddr + s.chk.pos) (s.ent.cbAddr + s.ent.cbLen)).map
                (fun a => (LineItem.buf s.sid, a))
  let next := match r.subs.findSome? fromSub with
    | some x => some x
    | none => if fetcherRuns b r then
        (firstGap r.lines .ring fuel (ringRange r).1 (ringRange r).2).map (fun a => (LineItem.ring, a)) else none
  next.filter (fun x => sharedRoom b r x.2)

/-- Issue the read of the part of the item that lies in the aligned line of address `a`, if the limit on outstanding reads
allows one (R51). -/
def readLine (q : Nat) (it : LineItem) (a : Nat) (demand : Bool) (b : Block) : Option Block :=
  let r := queueOf b q
  let rng := itemRange r it
  let lo := if it == .ring then a else max rng.1 (a / 512 * 512)
  let hi := min rng.2 (a / 512 * 512 + 512)
  (hostRead (.line q it lo) lo (hi - lo) (some (ctxOf b (ctxOfQueue q)).ast) b).map (fun b =>
    modQueue q (fun r => { r with lines := r.lines ++
      [{ item := it, lo := lo, len := hi - lo, demand := demand, data := none }] }) b)

/-- The queues in the order in which prefetch serves them: by class, and within a class round robin across contexts
from the one after the last served (R50). -/
def prefetchOrder (b : Block) : List Nat :=
  let n := nContexts b
  ((List.range 6).map (fun k =>
    (List.range n).map (fun i => 6 * ((tget (n - 1) b.hub.rr k + 1 + i) % n) + k))).flatten

/-- Prefetch has served a queue: the round robin of its class goes on after its context (R50). -/
def servedNext (q : Nat) (b : Block) : Block :=
  { b with hub := { b.hub with rr := tset (nContexts b - 1) b.hub.rr (classOf q) (ctxOfQueue q) } }

/-- The fetch engine issues one read: a demand read before any prefetch read (R50). Where several queues need a demand
read, that of the lowest global queue number goes first (the spec leaves their order open; DESIGN CHOICE, log entry 47).
A queue has been served once its read is issued. -/
def prefetchRead (b : Block) : Block :=
  let dem := if demandUsed b < 64 then
      (b.hub.queues.map (·.1)).findSome? (fun q => (demandOf b (queueOf b q)).map (fun x => (q, x)))
    else none
  match dem with
  | some (q, it, a) => (readLine q it a true b).getD b
  | none =>
    match (prefetchOrder b).findSome? (fun q => (prefetchOf b (queueOf b q)).map (fun x => (q, x))) with
    | none => b
    | some (q, it, a) =>
      ((readLine q it a false b).map (servedNext q)).getD b

/-- A response for a line: its bytes, or the failure that is reported when a byte it covers is reached (R52). -/
def lineResponse (q : Nat) (it : LineItem) (lo : Nat) (st : BitVec 2) (data : List Byte) (b : Block) : Block :=
  let fill (l : Line) : Line := { l with data := some (if st = 0 then .bytes (data.take l.len) else .bad (st.setWidth 3)) }
  let hit (l : Line) : Bool := l.item == it && l.lo == lo && l.data.isNone
  modQueue q (fun r => { r with lines := modFirst hit fill r.lines }) b

/-- Lines of an item that end at or below `hi` are freed. -/
def freePassed (q : Nat) (it : LineItem) (hi : Nat) (b : Block) : Block :=
  let keep (l : Line) : Bool := !(l.item == it && decide (l.lo + l.len ≤ hi))
  modQueue q (fun r => { r with lines := r.lines.filter keep }) b

/-- A demand line of the buffer that the check pass has passed becomes shared while the queue holds fewer than PF_LINES, and is
freed otherwise (R85). -/
def keepOne (q : Nat) (b : Block) (l : Line) : Block :=
  if sharedRoom b (queueOf b q) l.lo then
    modQueue q (fun r => { r with lines := modFirst (· == l) (fun l => { l with demand := false }) r.lines }) b
  else modQueue q (fun r => { r with lines := r.lines.filter (· != l) }) b

/-- After the check pass has passed address `hi`: shared lines of the buffer stay, and every demand line that it has passed is
kept where there is room (R85). -/
def keepPassed (q : Nat) (it : LineItem) (hi : Nat) (b : Block) : Block :=
  let passed (l : Line) : Bool := l.item == it && decide (l.lo + l.len ≤ hi) && l.demand
  ((queueOf b q).lines.filter passed).foldl (keepOne q) b

/-! ### Taking an entry (R43) -/

/-- Launch-pass state before a buffer's first packet. -/
def launchZero : Launch :=
  { pos := 0, ended := false, tags := [], sect := none, sections := [], fences := [], flagWr := [] }

/-- A submission as fetched. -/
def newSub (sid idx : Nat) (raw : Fetched) (ent : Entry) : Sub :=
  { sid := sid, idx := idx, raw := raw, ent := ent, phase := .fetched, patchNext := 0, patches := [],
    chk := { pos := 0, tags := 0, sect := none, targets := [], roots := [], tpl := none }, started := false,
    wait0 := .none, wait1 := .none, lch := launchZero, tpls := [], sigs := [], fail := none, record := .pending,
    halter := false }

/-- An entry none of whose fields is known, with the SEQNO that R52 reports. -/
def entryUnread (r : QueueRec) : Entry :=
  let e := entryG1 []
  { e with seqno := match r.subs.getLast? with
      | some s => (s.ent.seqno + 1) % 2 ^ 48
      | none => if r.any then 0 else r.expected }

/-- The fetcher takes the entry at HEAD, once its bytes or its failure are there, and advances HEAD. -/
def fetchEntry (q : Nat) (b : Block) : Block :=
  let r := queueOf b q
  if !(fetcherRuns b r) || r.head == r.captured || r.armed then b else
  let a := entryAddr r r.head
  let n := entrySize r.gen2
  let take (raw : Fetched) (ent : Entry) : Block :=
    let b := modQueue q (fun r => { r with
      head := (r.head + 1) % 2 ^ r.ringLog2, subs := r.subs ++ [newSub b.hub.nextSid r.head raw ent] }) b
    freePassed q .ring (a + n) { b with hub := { b.hub with nextSid := b.hub.nextSid + 1 } }
  match readRange r.lines .ring 2 a n with
  | .missing _ _ => b
  | .bad s _ => take (.bad s) (entryUnread r)
  | .ok e => take (.bytes e) (entryOf r.gen2 e)

end Sys2Proof.Machine
end

