-- ==== Sys2Proof/Machine/Check.lean ====
section
/-! DEFINITION. The entry and patch checks, the check pass and the start of a submission (R56, R57, R83 to R92, R123,
R125, R439). -/

namespace Sys2Proof.Machine

/-- A check failure of submission `sid` (R57). -/
def checkFail (q sid : Nat) (st : Status) (kind detail : Nat) (b : Block) : Block :=
  failSub q sid { status := st, kind := kind, detail := detail } b

/-- The submission whose checks may go on: the oldest not yet checked, every earlier one checked without failure
(R439). -/
def checkable : List Sub → Option Sub
  | [] => none
  | s :: ss => if s.fail.isSome then none else if s.phase == .checked then checkable ss else some s

/-- A queue that is HALTED, undeliverable or being reset checks nothing more (R65, R66, R67). -/
def checkableOf (r : QueueRec) : Option Sub :=
  if r.state == .halted || r.undeliverable || r.resetting then none else checkable r.subs

/-- The submission leaves the patch checks for the check pass; with CB_LEN = 0 it has no packets (R84). A list of at
most 256 records has been taken; a longer one is read a second time as the buffer's lines pass (R54). -/
def toChecking (q sid : Nat) (b : Block) : Block :=
  modSub q sid (fun s =>
    if s.ent.cbLen = 0 then { s with phase := .checked, lch := { s.lch with ended := true } }
    else if 256 < s.ent.patchCount then { s with phase := .checking, patchNext := 0, patches := [] }
    else { s with phase := .checking, patchNext := s.ent.patchCount }) b

/-- Take patch record `r`, the next of its list: its line is passed. -/
def takePatch (q : Nat) (s : Sub) (r : List Byte) (b : Block) : Block :=
  freePassed q (.patch s.sid) (s.ent.patchAddr + 16 * (s.patchNext + 1))
    (modSub q s.sid (fun s => { s with patches := s.patches ++ [patchOf r], patchNext := s.patchNext + 1 }) b)

/-- Check the patch records at hand, in list order, over at most `fuel` records (R56 steps 9 to 11). -/
def checkPatches : Nat → Nat → Nat → Block → Block
  | 0, _, _, b => b
  | fuel + 1, q, sid, b =>
    match subOf b q sid with
    | none => b
    | some s =>
      let n := s.patchNext
      if s.ent.patchCount ≤ n then toChecking q sid b else
        let a := s.ent.patchAddr + 16 * n
        match readRange (queueOf b q).lines (.patch sid) 2 a 16 with
        | .missing _ _ => b
        | .bad st lo => checkFail q sid (respStatus st) 2 ((lo - s.ent.patchAddr) / 16) b
        | .ok r =>
          let prev := match s.patches.getLast? with | some p => p.offset | none => 0
          match patchCheck prev s.ent.cbLen r with
          | some st => checkFail q sid st 2 n b
          | none => checkPatches fuel q sid (takePatch q s r b)

/-- The second reading of a patch list: take the records at hand until the engine has those for the bytes below `upto`;
a failed read is reported at the first record it covers (R54, R87). -/
def repatch : Nat → Nat → Nat → Nat → Block → Block
  | 0, _, _, _, b => b
  | fuel + 1, upto, q, sid, b =>
    match subOf b q sid with
    | none => b
    | some s =>
      if !patchWaits s upto then b else
      match readRange (queueOf b q).lines (.patch sid) 2 (s.ent.patchAddr + 16 * s.patchNext) 16 with
      | .missing _ _ => b
      | .bad st lo => checkFail q sid (respStatus st) 2 ((lo - s.ent.patchAddr) / 16) b
      | .ok r => repatch fuel upto q sid (takePatch q s r b)

/-- SUBMISSION_CHECK: the entry checks of R56 in order, then the patch records whose bytes are at hand. -/
def submissionCheck (q : Nat) (b : Block) : Block :=
  let r := queueOf b q
  match checkableOf r with
  | none => b
  | some s =>
    match s.phase with
    | .fetched =>
      match s.raw with
      | .bad st => checkFail q s.sid (respStatus st) 0 0xFFFFFFFF b
      | .bytes e =>
        match entryCheck r.gen2 r.any r.expected (b.pwr.ifrev / 256) e with
        | some st => checkFail q s.sid st 0 0xFFFFFFFF b
        | none =>
          let b := modQueue q (fun r => { r with any := false, expected := (s.ent.seqno + 1) % 2 ^ 48 }) b
          if s.ent.patchCount = 0 then toChecking q s.sid b
          else checkPatches (s.ent.patchCount + 1) q s.sid (modSub q s.sid (fun s => { s with phase := .patching }) b)
    | .patching => checkPatches (s.ent.patchCount + 1) q s.sid b
    | _ => b

/-! ### The check pass -/

/-- The mosaic slot a packet runs on: its MSLOT, or the context's default slot for a G1 packet (R82). -/
def slotOfPacket (b : Block) (c : Nat) (k : Packet) : Nat := k.slot.getD (ctxOf b c).slot

/-- Step 13 of R89: MSLOT open to the context, pool, owning context (R234), key handle and node permitted. -/
def check13 (b : Block) (c : Nat) (k : Packet) (tplSlot : Option Nat) : Bool :=
  if !k.opc.isOp then true else
  let m := slotOfPacket b c k
  (match tplSlot with | some t => m == t | none => true) && slotOpen b c m &&
  (match k.body with
   | .seqAdmit _ pool _ _ _ _ _ _ => poolOk b m pool && poolOwner b m == some c
   | .seqRetire _ => poolOwner b m == some c
   | .kvReserve _ _ => poolOwner b m == some c
   | .keyBind _ h _ _ => keyOwned b c h
   | .signalFlag _ true _ _ node _ _ => (memberNodes b m).contains node
   | _ => true)

/-- What checking one packet gives: bytes missing, a failure with its DETAIL, or the packet and its bytes. -/
inductive Checked where
  | wait
  | fail (st : Status) (detail : Nat)
  | pass (k : Packet) (bytes : List Byte)
deriving DecidableEq, Repr

/-- Steps 1 to 13 of R89 on the packet at `pos` of the item whose bytes begin at `base`. `detail` maps an offset to
the DETAIL reported. -/
def checkOne (b : Block) (c : Nat) (ls : List Line) (it : LineItem) (base pos limit tags : Nat)
    (sect : Option Nat) (tplSlot : Option Nat) (patch : List Byte → List Byte) (detail : Nat → Nat) : Checked :=
  match readRange ls it 3 (base + pos) 32 with
  | .missing _ _ => .wait
  | .bad st lo => .fail (respStatus st) (detail (lo - base))
  | .ok u =>
    let u := patch u
    match headerCheck b.pwr.g1 pos limit u with
    | some st => .fail st (detail pos)
    | none =>
      match readRange ls it 4 (base + pos) (32 * (hdrLen (word u 0) + 1)) with
      | .missing _ _ => .wait
      | .bad st lo => .fail (respStatus st) (detail (lo - base))
      | .ok p =>
        let p := patch p
        match packetOf p with
        | none => .fail .badOpcode (detail pos)
        | some k =>
          let m := slotOfPacket b c k
          match bodyCheck k p pos limit (nSequences b) tags sect.isSome tplSlot.isSome (openMembers b c m) with
          | some st => .fail st (detail pos)
          | none => if check13 b c k tplSlot then .pass k p else .fail .notPermitted (detail pos)

/-- The section open after a packet at `pos`. -/
def sectAfter (k : Packet) (pos : Nat) (sect : Option Nat) : Option Nat :=
  match k.opc with
  | .atomicBegin => some pos
  | .atomicEnd => none
  | _ => sect

/-- Tags seen after a packet. -/
def tagsAfter (k : Packet) (tags : Nat) : Nat := if k.opc.isOp then setBit tags k.tag else tags

/-- Pending PATCH_FROM_FLAG targets after a packet at `pos` (R89 step 14). -/
def targetsAfter (k : Packet) (pos : Nat) (ts : List (Nat × Nat × Nat)) : List (Nat × Nat × Nat) :=
  let ts := ts.filter (fun t => !targetIn t pos (32 * (k.len + 1)))
  match k.body with
  | .patchFromFlag _ w o => ts ++ [(pos, o, w)]
  | _ => ts

/-- The end of interpretation (R90): a section still open, then a target not resolved; otherwise the submission is
checked. -/
def checkEnd (q : Nat) (s : Sub) (c : Check) (b : Block) : Block :=
  match c.sect with
  | some o => checkFail q s.sid .badState 3 o b
  | none =>
    match c.targets with
    | t :: ts => checkFail q s.sid .badParam 3 ((ts.map (·.1)).foldl min t.1) b
    | [] => modSub q s.sid (fun s => { s with phase := .checked, chk := c }) b

/-- The on-block flag of this chip that a SIGNAL_FLAG names (R104, R140). -/
def localSignal (b : Block) (k : Packet) : Option Nat :=
  match k.body with
  | .signalFlag false remote f _ node _ _ => if remote && node != b.fab.node then none else some f
  | _ => none

/-- The check pass notes a SIGNAL_FLAG it has passed. -/
def noteSignal (q : Nat) (s : Sub) (k : Packet) (b : Block) : Block :=
  match localSignal b k with
  | some f => modSub q s.sid (fun s => { s with sigs := s.sigs ++ [(s.chk.pos, 32 * (k.len + 1), f)] }) b
  | none => b

/-- The member counts after a packet at `pos`: that of a COLLECTIVE's mosaic is kept for the launch pass (R86, R102). -/
def rootsAfter (b : Block) (c : Nat) (k : Packet) (pos : Nat) (rs : List (Nat × Option Nat)) : List (Nat × Option Nat) :=
  match k.body with
  | .collective .. => rs ++ [(pos, openMembers b c (slotOfPacket b c k))]
  | _ => rs

/-- The check pass moves past a packet of the buffer. -/
def checkAdvance (q : Nat) (s : Sub) (k : Packet) (b : Block) : Block :=
  let pos := s.chk.pos
  let next := pos + 32 * (k.len + 1)
  let c : Check := { pos := next, tags := tagsAfter k s.chk.tags, sect := sectAfter k pos s.chk.sect,
                     targets := targetsAfter k pos s.chk.targets
                     roots := rootsAfter b (ctxOfQueue q) k pos s.chk.roots, tpl := none }
  let b := keepPassed q (.buf s.sid) (s.ent.cbAddr + next) (noteSignal q s k b)
  if k.opc == .endP || decide (s.ent.cbLen ≤ next) then checkEnd q s c b
  else modSub q s.sid (fun s => { s with chk := c }) b

/-- The patch engine supplies the records that the next packet's bytes still wait for, as far as they are at hand. -/
def patchRound (q : Nat) (b : Block) : Block :=
  match checkableOf (queueOf b q) with
  | none => b
  | some s => match patchReach b.pwr.g1 (queueOf b q).lines s with
    | some e => repatch (s.ent.patchCount + 1) e q s.sid b
    | none => b

/-- Check one packet of the buffer, or of the template of a LAUNCH_TURN being checked. -/
def checkNext (q : Nat) (b : Block) : Block :=
  let r := queueOf b q
  let c := ctxOfQueue q
  match checkableOf r with
  | none => b
  | some s =>
    if s.phase != .checking || (patchReach b.pwr.g1 r.lines s).isSome then b else
    match s.chk.tpl with
    | none =>
      match checkOne b c r.lines (.buf s.sid) s.ent.cbAddr s.chk.pos s.ent.cbLen s.chk.tags s.chk.sect none
          (applyPatches s.chk.pos s.patches) id with
      | .wait => b
      | .fail st d => checkFail q s.sid st 3 d b
      | .pass k _ =>
        match badTarget k s.chk.pos s.chk.targets with
        | some o => checkFail q s.sid .badParam 3 o b
        | none =>
          match k.body with
          | .launchTurn _ tl ta _ _ =>
            let t : TplCheck := { ltOff := s.chk.pos, ltTag := k.tag, addr := ta, len := tl,
                                  slot := slotOfPacket b c k, pos := 0, tags := 0, sect := none }
            let tpls := s.tpls.filter (·.1 != s.chk.pos) ++ [(s.chk.pos, [])]
            modSub q s.sid (fun s => { s with tpls := tpls, chk := { s.chk with tpl := some t } }) b
          | _ => checkAdvance q s k b
    | some t =>
      match checkOne b c r.lines (.tpl s.sid t.ltOff) t.addr t.pos t.len t.tags t.sect (some t.slot) id
          (fun _ => t.ltOff) with
      | .wait => b
      | .fail st d => checkFail q s.sid st 3 d b
      | .pass k p =>
        let next := t.pos + 32 * (k.len + 1)
        let t' : TplCheck := { t with pos := next, tags := tagsAfter k t.tags }
        let tpls := modFirst (·.1 == t.ltOff) (fun e => (e.1, e.2 ++ p)) s.tpls
        let grow (s : Sub) : Sub := { s with tpls := tpls, chk := { s.chk with tpl := some t' } }
        let b := freePassed q (.tpl s.sid t.ltOff) (t.addr + next) (modSub q s.sid grow b)
        if k.opc == .endP || decide (t.len ≤ next) then
          checkAdvance q { s with tpls := tpls } { k with opc := .launchTurn, len := 1, tag := t.ltTag, body := .control }
            (dropLines q (fun l => l.item != .tpl s.sid t.ltOff) b)
        else b

/-- CHECK_PASS: the patch engine gives the packet's header and then its other bytes what they wait for, and the packet
is checked. -/
def checkPass (q : Nat) (b : Block) : Block := checkNext q (patchRound q (patchRound q b))

/-! ### The start of a submission (R123, R125, R131) -/

/-- The completion ring is full (R61). -/
def cqFull (r : QueueRec) : Bool := (r.cqTail + 1) % 2 ^ r.cqLog2 == r.cqHead

/-- Queue order allows a submission to start, given the one before it in the queue's list: its immediate predecessor
has retired, or its entry has OVERLAP and that predecessor has started (R123; OVERLAP relaxes the order to the
predecessor alone, so that of the predecessor to the ones before it stands, R124). Consecutive SEQNOs tell whether the
one before it in the list is its predecessor (R47). -/
def orderAllows (prev : Option Sub) (s : Sub) : Bool :=
  match prev with
  | none => true
  | some p => (p.ent.seqno + 1) % 2 ^ 48 != s.ent.seqno || (s.ent.overlap && p.started)

/-- The oldest submission that queue order allows to start: checked and not started (R123, R124). -/
def startable : Option Sub → List Sub → Option Sub
  | _, [] => none
  | prev, s :: ss =>
    if s.fail.isNone && s.phase == .checked && !s.started && orderAllows prev s then some s
    else startable (some s) ss

/-- Start a submission: its flag pages are tested and its inline waits evaluated (R125, R127, R128). -/
def startSub (q : Nat) (s : Sub) (b : Block) : Block :=
  let c := ctxOfQueue q
  let e := s.ent
  if (e.wait0 && !flagAllowed b c e.wait0Flag) || (e.wait1 && !flagAllowed b c e.wait1Flag)
      || (e.sig && !flagAllowed b c e.sigFlag) then
    checkFail q s.sid .notPermitted 0 0xFFFFFFFF b
  else if (e.wait0 && flagBad b e.wait0Flag) || (e.wait1 && flagBad b e.wait1Flag) then
    checkFail q s.sid .memUncorrected 0 0xFFFFFFFF b
  else
    let n := b.dep.nextRel
    let w (en : Bool) (cmp flag : Nat) (v : W64) (k : Nat) : InlineWait :=
      if !en then .none else if waitHolds cmp (flagOf b flag) v then .satisfied else .waiting k
    let w0 := w e.wait0 e.wait0Cmp e.wait0Flag e.wait0Val n
    let w1 := w e.wait1 e.wait1Cmp e.wait1Flag e.wait1Val (n + 1)
    let b := modSub q s.sid (fun s => { s with started := true, wait0 := w0, wait1 := w1 }) b
    { b with dep := { b.dep with nextRel := n + 2 } }

/-- An inline wait of a submission that may start takes a wait-list entry if it has none and one is free (R131). -/
def takeWaitEntry (q sid : Nat) (second : Bool) (b : Block) : Block :=
  if 4096 ≤ waitEntries b then b else
  modSub q sid (fun s =>
    if second then (if s.ent.wait1 then { s with wait1 := .entry } else s)
    else if s.ent.wait0 then { s with wait0 := .entry } else s) b

/-- Every inline wait of a submission that has not started has gained its entry. -/
def gained (s : Sub) : Bool := (!s.ent.wait0 || s.wait0 == .entry) && (!s.ent.wait1 || s.wait1 == .entry)

/-- SUBMISSION_START: a submission that may start, with completion ring space (R61), takes a wait-list entry for each inline
wait as one is free, and starts once it has them all (R131). -/
def submissionStart (q : Nat) (b : Block) : Block :=
  let r := queueOf b q
  match startable none r.subs with
  | none => b
  | some s =>
    if cqFull r || r.undeliverable || r.resetting || b.hub.leaseExpired then b else
    let b := takeWaitEntry q s.sid true (takeWaitEntry q s.sid false b)
    match subOf b q s.sid with
    | some s => if gained s then startSub q s b else b
    | none => b

end Sys2Proof.Machine
end

