-- ==== Sys2Proof/Machine/Dma.lean ====
section
/-! DEFINITION. Issue of DMA descriptors on `dd_` (R132, R201, R202). -/

namespace Sys2Proof.Machine

/-- The sequencer whose port DEP and BAT use for a mosaic slot: the one that serves its lowest-numbered local core,
SEQ0 where it has none (R132). -/
def ddPortOf (b : Block) (slot : Nat) : Nat :=
  match firstBelow (nCores b) (bitOf (mosOf b slot).cores ·) with
  | some k => k / 8
  | none => 0

/-- The owner is an instruction of a pass. -/
def DdOwner.ofPass : DdOwner → Bool
  | .load .. | .store .. | .lds .. | .chunk .. | .comb .. => true
  | _ => false

/-- The owner is FAB, which acts for no context. -/
def DdOwner.byFab : DdOwner → Bool
  | .migCopy _ | .scrub _ => true
  | _ => false

/-- Descriptors a pass holds outstanding on a port. -/
def passTags (s : Seqr) : Nat :=
  (s.dd.filter (fun e => match e.2 with | some u => u.owner.ofPass | none => false)).length

/-- A free tag of a port for an owner: a pass holds at most 240 of the 256 (R201). -/
def freeDdTag (s : Seqr) (o : DdOwner) : Option Nat :=
  if o.ofPass && decide (240 ≤ passTags s) then none else firstBelow 256 (fun t => (tget none s.dd t).isNone)

/-- Issue a descriptor on port `n`: take a tag, record the owner, drive the descriptor. None while no tag is free or the
domain of the port is not ON. -/
def ddIssue (n : Nat) (o : DdOwner) (d : Desc) (b : Block) : Option Block :=
  if !seqUp b n then none else
  match freeDdTag (seqrOf b n) o with
  | none => none
  | some t =>
    let pc := match (seqrOf b n).pass with | some p => p.acc.pc | none => 0
    let first := d.body.getD 0 0 + at_ (d.body.getD 1 0) 32
    let use : DdUse := { owner := o, key := d.key, pc := pc, ctx := d.ctx, ast := d.ast, epoch := d.epoch,
                          addr := first, data := [] }
    some (emit (.dd n { d with tag := t }) (modSeqr n (fun s => { s with dd := tset none s.dd t (some use) }) b))

/-! ### Sealed ranges (R339 to R341) -/

/-- Two byte ranges share a byte. -/
def meets (a n b m : Nat) : Bool := decide (a < b + m) && decide (b < a + n) && decide (0 < n) && decide (0 < m)

/-- Bytes of a binding's tag area. -/
def tagBytes (len : Nat) : Nat := 16 * (len / 4096)

/-- `[a, a + n)` touches the data or tag area of a binding of context `c`. -/
def sealedTouch (b : Block) (c a n : Nat) : Bool :=
  b.sec.bindings.any (fun k => k.ctx == c && meets a n k.base (k.len + tagBytes k.len))

/-- The classification of a LOAD's footprint: its key handle, or the status the pass fails with (R341). -/
def loadKey (b : Block) (c a n : Nat) : Except Status (Option Nat) :=
  match b.sec.bindings.find? (fun k => k.ctx == c && decide (0 < n) && decide (k.base ≤ a)
      && decide (a + n ≤ k.base + k.len)) with
  | some k => if (keyOf b k.handle).state == .revoking then .error .keyRevoked else .ok (some k.handle)
  | none => if sealedTouch b c a n then .error .badExtent else .ok none

/-! ### The bandwidth regulator (R322) -/

/-- A charged descriptor of slot `k` may issue. -/
def bwOpen (b : Block) (k : Nat) : Bool := !(schOf b k).bw.en || decide (0 < (schOf b k).level)

/-- Charge slot `k` for a descriptor of `bytes`. -/
def bwTake (k bytes : Nat) (b : Block) : Block :=
  if (schOf b k).bw.en then modSch k (fun s => { s with level := s.level - (ceilDiv bytes 64 : Nat) }) b else b

/-- Low and high word of a 64-bit value, as body words (R7). -/
def words64 (x : Nat) : List Nat := [x % 2 ^ 32, x / 2 ^ 32 % 2 ^ 32]

/-- A descriptor of DEP or BAT for context `c` and mosaic slot `k`: epoch current at issue, no lanes (R202). -/
def plainDesc (b : Block) (c k kind kdata : Nat) (key : Option Nat) (body : List Nat) : Desc :=
  { kind := kind, tag := 0, lanes := 0, key := key, fab := false, ctx := c, epoch := b.fab.epoch,
    ast := (ctxOf b c).ast, kdata := kdata, mosaic := (mosOf b k).id, body := body }

end Sys2Proof.Machine
end

