-- ==== Sys2Proof/Machine/Release.lean ====
section
/-! DEFINITION. The launch pass and the release of operations (R81, R83 to R92, R105, R106, R109, R120 to R122, R127,
R137): what every packet row shares. -/

namespace Sys2Proof.Machine

/-! ### The launch pass -/

/-- Place of a fold record among those of its CLK_HUB cycle: IMAGE, TURN, then PACKET and TEMPLATE (R230). -/
def FoldRec.rank (f : FoldRec) : Nat := if f.kind = 4 then 0 else if f.kind = 3 then 1 else 2

/-- Queue a fold record of context `c` (R228), before those of the same CLK_HUB cycle that R230 folds after it. -/
def pushFold (c : Nat) (f : FoldRec) (b : Block) : Block :=
  let now := hubNow b
  let before (g : FoldRec) : Bool := g.cyc ≠ now || decide (g.rank ≤ f.rank)
  let put (l : List FoldRec) : List FoldRec := l.takeWhile before ++ { f with cyc := now } :: l.dropWhile before
  { b with sec := { b.sec with folds := tmod [] b.sec.folds c put } }

/-- RANKS of a PACKET record: the packet's slot, or the context's default slot (R229). -/
def foldRanks (b : Block) (c : Nat) (k : Packet) : Nat := ranksOf b (slotOfPacket b c k)

/-- Cut a template's bytes into its packets. -/
def packetsOf : Nat → List Byte → List (List Byte)
  | 0, _ => []
  | fuel + 1, l =>
    if l.length < 32 then [] else
    let n := 32 * (hdrLen (word l 0) + 1)
    l.take n :: packetsOf fuel (l.drop n)

/-- The operations that the set bits of WAIT_MASK name, bound at decode (R81, R120). -/
def bindMask (tags : Table Nat) (mask : Nat) : List Nat :=
  (bitsOf mask 64).filterMap (fun t => if tags.any (·.1 == t) then some (tget 0 tags t) else none)

/-- Launch-pass state after a packet at `off`; `oid` is the operation it became. -/
def launchAfter (l : Launch) (k : Packet) (off limit oid : Nat) : Launch :=
  let next := off + 32 * (k.len + 1)
  { l with
    pos := next
    ended := k.opc == .endP || decide (limit ≤ next)
    tags := if k.opc.isOp then tinsert k.tag oid (terase l.tags k.tag) else l.tags
    sect := sectAfter k off l.sect
    sections := if k.opc == .atomicEnd then l.sections ++ [(l.sect.getD 0, off)] else l.sections
    fences := if k.opc == .fence then l.fences ++ [{ off := off, scope := k.scope, sect := l.sect }] else l.fences }

/-- DEP takes an operation at its launch (R121). -/
def addOp (q sid c inst off slot : Nat) (k : Packet) (l : Launch) (b : Block) : Block :=
  let oid := b.dep.nextOid
  let o : Op := { oid := oid, q := q, sid := sid, ctx := c, inst := inst, off := off, slot := slot, pkt := k,
                  waits := bindMask l.tags k.mask, sect := l.sect, stage := .decoded, relNo := 0, poll := .none,
                  acks := 0 }
  { b with dep := { b.dep with ops := b.dep.ops ++ [o], nextOid := oid + 1 } }

/-- Bytes of fold records of context `c` that wait for their fold (R336). -/
def foldBytes (b : Block) (c : Nat) : Nat := ((tget [] b.sec.folds c).map (fun f => 16 + f.body.length)).foldl (· + ·) 0

/-- The launch pass may decode another packet: both limits of R121 leave room, no PATCH_FROM_FLAG of the buffer is
still to be released (R109), and the context's pending fold records are below 4 KiB (R336). -/
def mayDecode (b : Block) (c sid inst : Nat) : Bool :=
  let mine := b.dep.ops.filter (fun o => o.sid == sid)
  decide (foldBytes b c < 4096) && decide (liveOps b < 8192) && decide ((mine.filter Op.live).length < 256)
  && !(mine.any (fun o => o.inst == inst && o.live && o.pkt.opc == .patchFromFlag))

/-- The member count that the launch pass holds the ROOT of a COLLECTIVE to: the one that the check pass met at that offset, so
that a rebind between the passes is met at the release (R91, R102); a packet that is a COLLECTIVE only by a change of the buffer
is held to the present one (R86). -/
def rootMembers (b : Block) (c : Nat) (s : Sub) (k : Packet) : Option Nat :=
  match s.chk.roots.find? (·.1 == s.lch.pos) with
  | some r => r.2
  | none => openMembers b c (slotOfPacket b c k)

/-- The launch-pass checks 1 to 12 on the packet at the launch position of a submission's buffer (R86). -/
def launchChecked (b : Block) (c : Nat) (r : QueueRec) (s : Sub) : Checked :=
  let it : LineItem := .buf s.sid
  let tags := (s.lch.tags.map (·.1)).foldl setBit 0
  let patch := launchPatch s
  match readRange r.lines it 3 (s.ent.cbAddr + s.lch.pos) 32 with
  | .missing _ _ => .wait
  | .bad st lo => .fail (respStatus st) (lo - s.ent.cbAddr)
  | .ok u =>
    match headerCheck b.pwr.g1 s.lch.pos s.ent.cbLen (patch u) with
    | some st => .fail st s.lch.pos
    | none =>
      match readRange r.lines it 4 (s.ent.cbAddr + s.lch.pos) (32 * (hdrLen (word (patch u) 0) + 1)) with
      | .missing _ _ => .wait
      | .bad st lo => .fail (respStatus st) (lo - s.ent.cbAddr)
      | .ok p =>
        match packetOf (patch p) with
        | none => .fail .badOpcode s.lch.pos
        | some k =>
          match bodyCheck k (patch p) s.lch.pos s.ent.cbLen (nSequences b) tags s.lch.sect.isSome false
              (rootMembers b c s k) with
          | some st => .fail st s.lch.pos
          | none => .pass k (patch p)

/-- The fold records of a launched packet: its PACKET record, and for a LAUNCH_TURN its TEMPLATE records (R88, R230). -/
def foldLaunch (c : Nat) (s : Sub) (k : Packet) (off : Nat) (p : List Byte) (mark : Option Nat) (b : Block) : Block :=
  let ranks := foldRanks b c k
  let b := pushFold c { kind := 1, ranks := ranks, body := p, mark := mark } b
  if k.opc == .launchTurn then
    let t := tget [] s.tpls off
    (packetsOf 2048 t).foldl (fun b x => pushFold c { kind := 2, ranks := ranks, body := x, mark := none } b) b
  else b

/-- Note a launched packet for the crash dump: header word, queue, offset, SEQNO (R376). -/
def notePacket (q off seqno : Nat) (p : List Byte) (b : Block) : Block :=
  { b with flt := { b.flt with pkts := ([word p 0, q, off, seqno % 2 ^ 32] :: b.flt.pkts).take 4096 } }

/-- Launch the packet `k` at the launch position of submission `s` of queue `q`. -/
def launchPacket (q : Nat) (s : Sub) (k : Packet) (p : List Byte) (b : Block) : Block :=
  let c := ctxOfQueue q
  let off := s.lch.pos
  let oid := b.dep.nextOid
  let l := launchAfter s.lch k off s.ent.cbLen oid
  let b := notePacket q off s.ent.seqno p b
  let b := foldLaunch c s k off p (if k.opc == .transcriptMark then some oid else none) b
  let b := if k.opc.isOp then addOp q s.sid c 0 off (slotOfPacket b c k) k s.lch b else b
  freePassed q (.buf s.sid) (s.ent.cbAddr + l.pos) (modSub q s.sid (fun s => { s with lch := l }) b)

/-- The submission of queue `q` whose launch position is `off`. -/
def launching (r : QueueRec) (off : Nat) : Option Sub :=
  if r.resetting then none else
  r.subs.find? (fun s => s.fail.isNone && s.phase == .checked && !s.lch.ended && s.lch.pos == off)

/-- A packet row in the launch pass of a buffer: the packet at the launch position, when it carries opcode `o`, is
checked again, folded and handed to DEP; a failed check or read fails the submission (R86, R87). -/
def launchRow (o : Opc) (q off : Nat) (b : Block) : Block :=
  let r := queueOf b q
  match launching r off with
  | none => b
  | some s =>
    if !mayDecode b (ctxOfQueue q) s.sid 0 then b else
    match launchChecked b (ctxOfQueue q) r s with
    | .wait => b
    | .fail st d => checkFail q s.sid st 3 d b
    | .pass k p => if k.opc == o then launchPacket q s k p b else b

/-- The turn instance whose launch position is `off`. -/
def launchingInst (b : Block) (q off : Nat) : Option Inst :=
  if (queueOf b q).resetting then none else
  b.bat.insts.find? (fun i => i.q == q && !i.lch.ended && i.lch.pos == off)

/-- Change a turn instance. -/
def modInst (id : Nat) (f : Inst → Inst) (b : Block) : Block :=
  { b with bat := { b.bat with insts := modFirst (·.id == id) f b.bat.insts } }

/-- Checks 1 to 12 on the packet at the launch position of a turn instance (R86); the bytes are those that the check pass
read, since no rule has the template read again (DESIGN CHOICE, log entry 47). -/
def instChecked (b : Block) (i : Inst) : Checked :=
  let off := i.lch.pos; let limit := i.bytes.length
  let tags := (i.lch.tags.map (·.1)).foldl setBit 0
  match headerCheck b.pwr.g1 off limit (i.bytes.drop off) with
  | some st => .fail st off
  | none =>
    let p := slice i.bytes off (32 * (hdrLen (word (i.bytes.drop off) 0) + 1))
    match packetOf p with
    | none => .fail .badOpcode off
    | some k => match bodyCheck k p off limit (nSequences b) tags i.lch.sect.isSome true none with
      | some st => .fail st off
      | none => .pass k p

/-- A packet row in the launch pass of a turn instance: checked again, decoded and handed to DEP; a failure reports the
offset of the LAUNCH_TURN. The template was folded when its LAUNCH_TURN was launched (R230). -/
def launchRowTpl (o : Opc) (q off : Nat) (b : Block) : Block :=
  match launchingInst b q off with
  | none => b
  | some i =>
    if !mayDecode b i.ctx i.sid i.id then b else
    match instChecked b i with
    | .wait => b
    | .fail st _ => failOp i.oid st b
    | .pass k _ =>
      if k.opc != o then b else
      let l := launchAfter i.lch k off i.bytes.length b.dep.nextOid
      let b := if k.opc.isOp then addOp i.q i.sid i.ctx i.id off (k.slot.getD i.slot) k i.lch b else b
      modInst i.id (fun i => { i with lch := l }) b

/-! ### Release (R120, R127, R137) -/

/-- Operation `w` named by a WAIT_MASK is complete. -/
def waitMet (b : Block) (w : Nat) : Bool :=
  match opOf b w with
  | some o => o.stage == .complete
  | none => true

/-- The submission is the oldest of its queue that has not retired. -/
def isOldest (b : Block) (q sid : Nat) : Bool :=
  match (queueOf b q).subs with
  | s :: _ => s.sid == sid
  | [] => true

/-- A FENCE of the operation's buffer has its condition met (R105, R137). -/
def fenceMet (b : Block) (o : Op) (f : Fence) : Bool :=
  (b.dep.ops.all (fun e => !(e.sid == o.sid && e.inst == o.inst && decide (e.off < f.off)
      && (f.sect.isNone || e.sect == f.sect)) || e.stage == .complete))
  && (f.scope == 0 || f.sect.isSome || isOldest b o.q o.sid)

/-- A FENCE holds the operation: it lies later, inside the FENCE's section where the FENCE lies in one. -/
def fenceCovers (o : Op) (f : Fence) : Bool := decide (f.off < o.off) && (f.sect.isNone || f.sect == o.sect)

/-- The fences decoded before the operation in its buffer or template instance. -/
def fencesOf (b : Block) (o : Op) : List Fence :=
  if o.inst = 0 then
    match subOf b o.q o.sid with | some s => s.lch.fences | none => []
  else match b.bat.insts.find? (·.id == o.inst) with | some i => i.lch.fences | none => []

/-- The operation's submission has started, its inline waits are satisfied, and nothing forbids releases (R44, R65,
R123, R125, R374). An expired lease does not stop a turn in flight (R258; DEDUCED, log entry 23). -/
def subReleases (b : Block) (o : Op) : Bool :=
  let r := queueOf b o.q
  match subOf b o.q o.sid with
  | none => false
  | some s =>
    s.fail.isNone && s.started && !r.undeliverable && !r.resetting && (o.inst != 0 || !b.hub.leaseExpired)
    && (match s.wait0 with | .waiting _ => false | _ => true)
    && (match s.wait1 with | .waiting _ => false | _ => true)

/-- DEP may release the operation (R120). -/
def releasable (b : Block) (o : Op) : Bool :=
  (o.stage == .decoded || o.stage == .held) && subReleases b o && o.waits.all (waitMet b)
  && (fencesOf b o).all (fun f => !fenceCovers o f || fenceMet b o f)

/-- The oldest operation of opcode `k` at `off` of queue `q` (in the template or not) that may be released. -/
def releaseOf (b : Block) (k : Opc) (p : PktRef) : Option Op :=
  b.dep.ops.find? (fun o => o.q == p.q && (o.inst != 0) == p.tpl && o.off == p.off && o.pkt.opc == k
    && releasable b o)

/-- The release-time tests that every operation has (R91). -/
def releaseTest (b : Block) (o : Op) : Option Status :=
  if !slotOpen b o.ctx o.slot then some .notPermitted
  else if (mosOf b o.slot).state == .broken then some .mosaicBroken
  else none

/-- The operation is released: it takes the next place in release order. -/
def markReleased (oid : Nat) (b : Block) : Block :=
  let n := b.dep.nextRel
  let q := match opOf b oid with | some o => o.q | none => 0
  let b := progress q (modOp oid (fun o => { o with stage := .released, relNo := n }) b)
  { b with dep := { b.dep with nextRel := n + 1 } }

/-- A wait that would exceed the wait list, or the released memory waits, is held unreleased (R131, R133). -/
def waitFull (b : Block) (o : Op) : Bool :=
  match o.pkt.body with
  | .waitFlag false .. => decide (4096 ≤ waitEntries b)
  | .waitFlag true .. => decide (1024 ≤ memWaits b)
  | _ => false

/-- The row of an operation packet: release the operation if it may be released, with effect `f`; otherwise go on
with the launch pass. -/
def packetRow (k : Opc) (f : Op → Block → Block) (p : PktRef) (b : Block) : Block :=
  match releaseOf b k p with
  | some o =>
    if waitFull b o then modOp o.oid (fun o => { o with stage := .held }) b else
    match releaseTest b o with
    | some st => failOp o.oid st b
    | none => f o b
  | none => if p.tpl then launchRowTpl k p.q p.off b else launchRow k p.q p.off b

/-- The row of a control packet: the launch pass alone. -/
def controlRow (k : Opc) (p : PktRef) (b : Block) : Block :=
  if p.tpl then launchRowTpl k p.q p.off b else launchRow k p.q p.off b

end Sys2Proof.Machine
end

