-- ==== Sys2Proof/Machine/Packets.lean ====
section
/-! DEFINITION. The effects of released packets that DEP, DSP and HUB carry out themselves: LAUNCH, COPY, FILL,
WAIT_FLAG, SIGNAL_FLAG on this chip and in memory, PATCH_FROM_FLAG, TRANSCRIPT_MARK, RNG_SEED; memory polling; wait
completion; the wait-cycle detector (R91 to R115, R128 to R143). -/

namespace Sys2Proof.Machine

/-- An operation is released and completes in the same step (R92, R119). -/
def releaseDone (oid : Nat) (b : Block) : Block := completeOp oid (markReleased oid b)

/-! ### Work for the dispatcher -/

/-- Scratch slots a tile of B bricks reserves (R157). -/
def tileSlots (bricks : Nat) : Nat := min bricks 16 + clog2 bricks

/-- A job with pieces or chunks to place (R147, R149). -/
def addJob (oid : Nat) (chunks : Bool) (total bricks len : Nat) (b : Block) : Block :=
  let j : Job := { oid := oid, chunks := chunks, total := total, bricks := bricks, brickLen := len, next := 0,
                   back := [], tiles := [], done := 0, faulted := [], aborted := false }
  { b with dsp := { b.dsp with jobs := b.dsp.jobs ++ [j] } }

/-- A released LAUNCH (R91, R92, R147, R158). -/
def releaseLaunch (o : Op) (l : LaunchB) (b : Block) : Block :=
  if l.ops.any (fun x => decide (2 ^ 64 < x.1 + x.2)) then failOp o.oid .xlatFault b
  else if workOf l = 0 then releaseDone o.oid b
  else
    let n := bricksOf l
    if decide (2 ≤ n) && decide ((mosOf b o.slot).scratchSlots < tileSlots n) then failOp o.oid .noResource b
    else
      let t := l.gridM * l.gridN
      addJob o.oid false (if 2 ≤ n then t * n else t) n (brickLen l.fclass) (markReleased o.oid b)

/-- Chunks of a COPY or FILL of `len` bytes to `dst`: at most 64 KiB each, at 64 KiB boundaries of the destination
but for the first (R149). -/
def chunkCount (dst len : Nat) : Nat := if len = 0 then 0 else (dst + len - 1) / 65536 - dst / 65536 + 1

/-- Destination offset and length of chunk `i`. -/
def chunkAt (dst len i : Nat) : Nat × Nat :=
  let lo := if i = 0 then dst else (dst / 65536 + i) * 65536
  let hi := min (dst + len) ((dst / 65536 + i + 1) * 65536)
  (lo - dst, hi - lo)

/-- A released COPY or FILL: ranges that wrap fail, no bytes is no work (R91, R92, R149). -/
def releaseChunks (o : Op) (dst len : Nat) (srcWraps : Bool) (b : Block) : Block :=
  if len ≠ 0 ∧ (2 ^ 64 < dst + len ∨ srcWraps = true) then failOp o.oid .xlatFault b
  else if len = 0 then releaseDone o.oid b
  else addJob o.oid true (chunkCount dst len) 1 0 (markReleased o.oid b)

/-- The effect of a released LAUNCH packet. -/
def relLaunch (o : Op) (b : Block) : Block :=
  match o.pkt.body with
  | .launch l => releaseLaunch o l b
  | _ => b

/-- The effect of a released COPY packet. -/
def relCopy (o : Op) (b : Block) : Block :=
  match o.pkt.body with
  | .copy len src dst => releaseChunks o dst len (decide (2 ^ 64 < src + len)) b
  | _ => b

/-- The effect of a released FILL packet. -/
def relFill (o : Op) (b : Block) : Block :=
  match o.pkt.body with
  | .fill _ len dst _ => releaseChunks o dst len false b
  | _ => b

/-! ### Flag waits (R128, R131 to R134) -/

/-- Start a poll of a memory wait if the limit on polls allows (R133). -/
def pollStart (o : Op) (addr : Nat) (b : Block) : Block :=
  if b.dep.maxOut ≤ pollsOut b then b else
  if sealedTouch b o.ctx addr 8 then failOp o.oid .notPermitted b else
  let d := plainDesc b o.ctx o.slot 5 0 none (words64 addr ++ [0, 0, 0])
  match ddIssue (ddPortOf b o.slot) (.poll o.oid) d b with
  | none => wakeSeq (ddPortOf b o.slot) b
  | some b => modOp o.oid (fun o => { o with poll := .reading, acks := o.acks + 1 }) b

/-- A released on-block wait: the page test, and at once complete if its compare holds (R127, R128). -/
def releaseWait (o : Op) (flag cmp : Nat) (v : W64) (b : Block) : Block :=
  if !flagAllowed b o.ctx flag then failOp o.oid .notPermitted b
  else if flagBad b flag then failOp o.oid .memUncorrected b
  else if waitHolds cmp (flagOf b flag) v then releaseDone o.oid b
  else markReleased o.oid b

/-- A released memory wait: its first poll (R133). -/
def releaseMemWait (o : Op) (addr : Nat) (b : Block) : Block :=
  pollStart o addr (modOp o.oid (fun o => { o with poll := .due }) (markReleased o.oid b))

/-- The effect of a released WAIT_FLAG packet. -/
def relWait (o : Op) (b : Block) : Block :=
  match o.pkt.body with
  | .waitFlag false f c v _ => releaseWait o f c v b
  | .waitFlag true _ _ _ a => releaseMemWait o a b
  | _ => b

/-- MEMPOLL_INTERVAL_EXPIRY: the interval of a memory wait has run, or its poll waits for room; it is read again. -/
def mempollExpiry (oid : Nat) (b : Block) : Block :=
  match opOf b oid with
  | none => b
  | some o =>
    match o.pkt.body, o.poll with
    | .waitFlag true _ _ _ a, .due => pollStart o a b
    | .waitFlag true _ _ _ a, .interval d => if d ≤ hubNow b then pollStart o a b else b
    | _, _ => b

/-- The answer to a poll: the wait completes if its compare holds, polls again after INTERVAL if not, and a failed
read fails the submission (R133, R134). -/
def pollAnswer (oid : Nat) (st : BitVec 3) (v : W64) (b : Block) : Block :=
  match opOf b oid with
  | none => b
  | some o =>
    let t := hubNow b + b.dep.interval
    let b := modOp oid (fun o => { o with acks := o.acks - 1, poll := .none }) b
    if o.stage != .released then b
    else if st ≠ 0 then failOp oid (ddStatus st) b
    else match o.pkt.body with
      | .waitFlag _ _ c x _ =>
        if waitHolds c v x then completeOp oid b else modOp oid (fun o => { o with poll := .interval t }) b
      | _ => b

/-- A wait on a flag: its queue and release order, and the operation or the submission and number of its inline wait. -/
inductive Waiter where
  | op (q relNo oid : Nat)
  | inl (q relNo sid : Nat) (second : Bool)
deriving DecidableEq, Repr

/-- A waiter's place: ascending global queue number, and within a queue the order of release (R130). -/
def Waiter.place : Waiter → Nat × Nat
  | .op q r _ => (q, r)
  | .inl q r _ _ => (q, r)

/-- The packet waits on flag `i` whose compare now holds. -/
def packetWaiters (b : Block) (i : Nat) : List Waiter :=
  b.dep.ops.filterMap (fun o =>
    if o.stage != .released then none else
    match opWait o with
    | some (f, c, v) => if f == i && waitHolds c (flagOf b f) v then some (.op o.q o.relNo o.oid) else none
    | none => none)

/-- One inline wait of a submission of queue `q`, if it is on flag `i` and its compare now holds. -/
def inlineWaiter (b : Block) (i q sid flag cmp : Nat) (v : W64) (second : Bool) : InlineWait → List Waiter
  | .waiting r => if flag == i && waitHolds cmp (flagOf b i) v then [.inl q r sid second] else []
  | _ => []

/-- The inline waits on flag `i` whose compare now holds. -/
def inlineWaiters (b : Block) (i : Nat) : List Waiter :=
  (b.hub.queues.map (fun e => (e.2.subs.map (fun s =>
    inlineWaiter b i e.1 s.sid s.ent.wait0Flag s.ent.wait0Cmp s.ent.wait0Val false s.wait0
    ++ inlineWaiter b i e.1 s.sid s.ent.wait1Flag s.ent.wait1Cmp s.ent.wait1Val true s.wait1)).flatten)).flatten

/-- Insert a waiter in the order of R130. -/
def insWaiter (w : Waiter) : List Waiter → List Waiter
  | [] => [w]
  | x :: xs =>
    let a := w.place; let c := x.place
    if a.1 < c.1 ∨ (a.1 = c.1 ∧ a.2 < c.2) then w :: x :: xs else x :: insWaiter w xs

/-- The waits on flag `i` whose compare now holds, in the order of R130. -/
def satisfiedWaits (b : Block) (i : Nat) : List Waiter := (packetWaiters b i ++ inlineWaiters b i).foldr insWaiter []

/-- A wait completes: a progress event of its queue (R138, R365). -/
def completeWaiter (b : Block) : Waiter → Block
  | .op _ _ oid => completeOp oid b
  | .inl q _ sid second => progress q (modSub q sid (fun s =>
      if second then { s with wait1 := .satisfied } else { s with wait0 := .satisfied }) b)

/-- The released and inline waits on a poisoned flag fail (source 0x04 of R356). -/
def failWaitsOn (i : Nat) (b : Block) : Block :=
  let ops := (b.dep.ops.filter (fun o => o.stage == .released &&
    (match opWait o with | some (f, _, _) => f == i | none => false))).map (·.oid)
  let waits (s : Sub) : Bool :=
    (match s.wait0 with | .waiting _ => s.ent.wait0Flag == i | _ => false)
    || (match s.wait1 with | .waiting _ => s.ent.wait1Flag == i | _ => false)
  let subs := (b.hub.queues.map (fun e => (e.2.subs.filter (fun s => s.fail.isNone && waits s)).map (fun s => (e.1, s.sid)))).flatten
  let b := ops.foldl (fun b o => failOp o .memUncorrected b) b
  let f : Failure := { status := .memUncorrected, kind := 0, detail := 0xFFFFFFFF }
  subs.foldl (fun b x => match subOf b x.1 x.2 with
    | some s => if s.fail.isSome then b else failSub x.1 x.2 f b
    | none => b) b

/-- WAIT_COMPLETE: every released wait on flag `i` whose compare holds completes, packets and inline waits alike, queues
ascending and within a queue in release order (R128, R130). -/
def waitComplete (i : Nat) (b : Block) : Block :=
  if flagBad b i then failWaitsOn i b else (satisfiedWaits b i).foldl completeWaiter b

/-! ### Signals -/

/-- A released signal on a flag of this chip (R127, R129). -/
def releaseSignal (o : Op) (flag op : Nat) (v : W64) (b : Block) : Block :=
  if !flagAllowed b o.ctx flag then failOp o.oid .notPermitted b
  else if op ≠ 0 && flagBad b flag then failOp o.oid .memUncorrected b
  else releaseDone o.oid (signalFlag op flag v b)

/-- A released signal on a memory flag: one ATOM8 descriptor (R132). -/
def releaseMemSignal (o : Op) (op addr : Nat) (v : W64) (b : Block) : Block :=
  if sealedTouch b o.ctx addr 8 then failOp o.oid .notPermitted b else
  let d := plainDesc b o.ctx o.slot 6 op none (words64 addr ++ [0] ++ words64 v.toNat)
  match ddIssue (ddPortOf b o.slot) (.atom o.oid) d b with
  | none => wakeSeq (ddPortOf b o.slot) b
  | some b => modOp o.oid (fun o => { o with acks := o.acks + 1 }) (markReleased o.oid b)

/-- One of an operation's descriptors completed: the last one completes it, an error fails it (R114, R132, R134). -/
def opAck (oid : Nat) (st : BitVec 3) (b : Block) : Block :=
  match opOf b oid with
  | none => b
  | some o =>
    let b := modOp oid (fun o => { o with acks := o.acks - 1 }) b
    if st ≠ 0 then
      if o.stage == .released then
        modOp oid (fun o => if isSignal o then { o with stage := .dead } else o) (failOp oid (ddStatus st) b)
      else b
    else if o.acks == 1 then completeOp oid b else b

/-! ### PATCH_FROM_FLAG (R109) -/

/-- The flag's low bytes go into the interpreter's copy of the buffer. -/
def relPatch (o : Op) (b : Block) : Block :=
  match o.pkt.body with
  | .patchFromFlag f w off =>
    if !flagAllowed b o.ctx f then failOp o.oid .notPermitted b
    else if flagBad b f then failOp o.oid .memUncorrected b
    else if 2 ^ (8 * w) ≤ (flagOf b f).toNat then failOp o.oid .badParam b
    else
      let bs := leBytes (flagOf b f).toNat w
      releaseDone o.oid (modSub o.q o.sid (fun s =>
        { s with lch := { s.lch with flagWr := s.lch.flagWr ++ [(off, bs)] } }) b)
  | _ => b

/-! ### TRANSCRIPT_MARK and RNG_SEED (R114, R115) -/

/-- The eight 64-bit words of a mark record. -/
def markWords (digest : List Byte) (count mark : Nat) : List Nat :=
  (List.range 6).map (fun i => leNat (slice digest (8 * i) 8)) ++ [count, mark]

/-- Issue the ATOM8 SET descriptors of a mark record, word by word; none unless every one finds a tag. -/
def markWrites (o : Op) (n dst : Nat) : List Nat → Block → Option Block
  | [], b => some b
  | w :: ws, b =>
    let d := plainDesc b o.ctx o.slot 6 0 none (words64 dst ++ [0] ++ words64 w)
    match ddIssue n (.markW o.oid) d b with
    | none => none
    | some b => markWrites o n (dst + 8) ws b

/-- The effect of a released TRANSCRIPT_MARK: once its own fold is done, the record is written (R114). -/
def relMark (o : Op) (b : Block) : Block :=
  match o.pkt.body with
  | .transcriptMark mark dst =>
    if !(b.sec.marks.any (·.1 == o.oid)) then b
    else if sealedTouch b o.ctx dst 64 then failOp o.oid .notPermitted b else
    let m := tget ([], 0) b.sec.marks o.oid
    match markWrites o (ddPortOf b o.slot) dst (markWords m.1 m.2 mark) b with
    | none => wakeSeq (ddPortOf b o.slot) b
    | some b =>
      let b := { b with sec := { b.sec with marks := terase b.sec.marks o.oid } }
      modOp o.oid (fun o => { o with acks := 8 }) (markReleased o.oid b)
  | _ => b

/-- The effect of a released RNG_SEED: SEC holds the context's new sampling key (R115). -/
def relSeed (o : Op) (b : Block) : Block :=
  match o.pkt.body with
  | .rngSeed k => releaseDone o.oid { b with sec := { b.sec with skey := tset 0 b.sec.skey o.ctx k } }
  | _ => b

/-! ### The wait-cycle detector (R139 to R143) -/

/-- The inline signal of a submission is released and not yet applied: its record is on its way, and the submission has not
failed (R48, R139, R141). -/
def signalOut (s : Sub) : Bool :=
  s.ent.sig && s.fail.isNone && (match s.record with | .issued _ => true | _ => false)

/-- A queue is blocked (R139). -/
def blocked (b : Block) (q : Nat) : Bool :=
  let r := queueOf b q
  let w := failWaits b q
  (r.state == .active || r.state == .idle) && !w.isEmpty && !cqFull r
  && b.dep.ops.all (fun o => !(o.q == q && o.stage == .released) || w.any (fun x => x.oid == some o.oid))
  && !(b.dep.remote.any (fun m => match opOf b m.oid with | some o => o.q == q | none => false))
  && r.subs.all (fun s => !signalOut s)

/-- The flags of the SIGNAL_FLAG packets of a submission that have passed the check pass, are not launched, and lie in the
window: all their bytes are held (R140). -/
def windowSignals (r : QueueRec) (s : Sub) : List Nat :=
  (s.sigs.filter (fun x => decide (s.lch.pos ≤ x.1)
    && (match readRange r.lines (.buf s.sid) 3 (s.ent.cbAddr + x.1) x.2.1 with | .ok _ => true | _ => false))).map (·.2.2)

/-- The visible signals of a queue (R140): an inline signal is one until its record is issued, or until it is performed where no
record is written. -/
def visibleSignals (b : Block) (q : Nat) : List Nat :=
  let r := queueOf b q
  let ops := b.dep.ops.filterMap (fun o =>
    if o.q == q && (o.stage == .decoded || o.stage == .held) then localSignal b o.pkt else none)
  let subs := (r.subs.filter (·.fail.isNone)).map (fun s =>
    (if s.ent.sig && s.phase == .checked && s.record == .pending then [s.ent.sigFlag] else [])
    ++ windowSignals r s)
  ops ++ subs.flatten

/-- A queue is exposed (R140). -/
def exposed (b : Block) (q : Nat) : Bool :=
  let r := queueOf b q
  r.state != .active || (r.head == r.captured && r.subs.all (fun s => s.phase == .checked || s.fail.isSome))

/-- A signal to flag `f` is released and not yet applied (R141). -/
def signalInFlight (b : Block) (f : Nat) : Bool :=
  b.hub.queues.any (fun e => e.2.subs.any (fun s => signalOut s && s.ent.sigFlag == f))

/-- Member `q` of candidate set `d` stays in it (the body of the loop of R141). -/
def keepCandidate (b : Block) (queues d : List Nat) (q : Nat) : Bool :=
  (failWaits b q).all (fun w =>
    let p := w.flag / 256
    let cfg := tget pageZero b.dep.pages p
    cfg.detect && !cfg.remote
    && d.any (fun r => (visibleSignals b r).contains w.flag)
    && queues.all (fun r => d.contains r || !pageOpen b (ctxOfQueue r) p
        || (!((visibleSignals b r).contains w.flag) && exposed b r))
    && !signalInFlight b w.flag)

/-- One round of the loop of R141, in queue order, each removal seen by the next test. -/
def wcdRound (b : Block) (queues : List Nat) : List Nat → List Nat → List Nat
  | [], d => d
  | q :: qs, d =>
    if d.contains q && !keepCandidate b queues d q then wcdRound b queues qs (d.filter (· != q))
    else wcdRound b queues qs d

/-- The loop of R141, at most `fuel` rounds. -/
def wcdLoop (b : Block) (queues : List Nat) : Nat → List Nat → List Nat
  | 0, d => d
  | fuel + 1, d =>
    let d' := wcdRound b queues d d
    if d'.length == d.length then d else wcdLoop b queues fuel d'

/-- The queues that hold anything. -/
def usedQueues (b : Block) : List Nat := b.hub.queues.map (·.1)

/-- The candidate set D (R141). -/
def candidates (b : Block) : List Nat :=
  let d := (usedQueues b).filter (blocked b)
  wcdLoop b (usedQueues b) (d.length + 1) d

/-- CLK_HUB cycles that a pass takes: 4 for each blocked queue and 1 for each visible signal examined. The signals examined
are those of the blocked queues, as the example of the detector counts them (DEDUCED, log entry 31). -/
def wcdCycles (b : Block) : Nat :=
  let qs := (usedQueues b).filter (blocked b)
  4 * qs.length + (qs.map (fun q => (visibleSignals b q).length)).foldl (· + ·) 0

/-- WCD_PASS: the first pass, which remembers a non-empty D and when the second pass starts: SETTLE cycles after the cycle
in which the first ends (R142). -/
def wcdPass (b : Block) : Block :=
  if !b.dep.wcdEnable || b.dep.first.isSome then b else
  let d := candidates b
  let flags := (d.map (fun q => (failWaits b q).map (·.flag))).flatten
  let w : Option WcdFirst := if d.isEmpty then none else
    some { d := d, flags := flags, deadline := hubNow b + wcdCycles b - 1 + b.dep.wcdSettle, changed := false,
           second := none }
  { b with dep := { b.dep with candidate := d, first := w } }

/-- The declaration for queue `q` of D: its blocked submission fails with WAIT_CYCLE (R143). -/
def wcdHaltQueue (q : Nat) (b : Block) : Block :=
  match oldestWait (failWaits b q) with
  | none => b
  | some w =>
    let f : Failure := match w.oid.bind (opOf b) with
      | some o => { status := .waitCycle, kind := 3, detail := packetOff b o }
      | none => { status := .waitCycle, kind := 0, detail := 0xFFFFFFFF }
    let b := noteCycle (.wcdHalt q) (failSub q w.sid f b)
    { b with dep := { b.dep with wcdHalt := tmod 0 b.dep.wcdHalt (ctxOfQueue q) (setBit · (classOf q)) } }

end Sys2Proof.Machine
end

