-- ==== Sys2Proof/Machine/Program.lean ====
section
/-! DEFINITION. Tile programs: instruction fields, formats, the header and region table, the program cache and its
fetch-time checks (R175 to R179, R186, R188, R192, R208, R213). -/

namespace Sys2Proof.Machine

/-! ### Formats (R208, R213) -/

/-- A format code is defined. -/
def fmtDefined (f : Nat) : Bool := decide (1 ≤ f) && decide (f ≤ 0x12)

/-- A format is an OCP MX block format. -/
def fmtMx (f : Nat) : Bool := decide (0x09 ≤ f) && decide (f ≤ 0x0E)

/-- The reduction class that admits a format as input; 0 for none (R213). -/
def fmtClass (f : Nat) : Nat :=
  if decide (4 ≤ f) && decide (f ≤ 8) then 1
  else if fmtMx f || f == 2 || f == 3 then 2
  else if f == 1 then 3
  else if f == 0x0F || f == 0x10 then 4
  else 0

/-- The span form of a class: INT64 for I4096, FP32 otherwise. -/
def spanFmt (cls : Nat) : Nat := if cls = 4 then 0x12 else 1

/-- Bits of an element (R209, R210); an MX block's element alone. -/
def fmtBits (f : Nat) : Nat :=
  if f = 1 ∨ f = 0x11 then 32 else if f = 2 ∨ f = 3 then 16 else if f = 0x12 then 64
  else if f = 6 ∨ f = 7 ∨ f = 0x0B ∨ f = 0x0C then 6 else if f = 8 ∨ f = 0x0D ∨ f = 0x10 then 4 else 8

/-- Bytes of a row of `n` elements: whole bytes, and whole 3-byte groups for FP6 (R210). -/
def rowBytes (f n : Nat) : Nat :=
  if fmtBits f = 6 then 3 * ceilDiv n 4 else ceilDiv (n * fmtBits f) 8

/-! ### Instruction words (R188, R192) -/

/-- Major opcode. -/
def majorOf (w : Nat) : Nat := fld w 58 6

/-- Major opcodes of the access stream. -/
def accessMajor (m : Nat) : Bool := decide (1 ≤ m) && decide (m ≤ 0x0F) || m == 0x3E || m == 0x3F

/-- Major opcodes of the execute stream: AINC, 0x03, belongs to the access stream alone (R188). -/
def executeMajor (m : Nat) : Bool :=
  decide (1 ≤ m) && decide (m ≤ 0x07) && m != 0x03 || decide (0x10 ≤ m) && decide (m ≤ 0x13) || m == 0x3E || m == 0x3F

/-- Sign-extend the low `n` bits to 64 bits. -/
def sext (x n : Nat) : W64 :=
  if bitOf x (n - 1) then BitVec.ofNat 64 (2 ^ 64 + x % 2 ^ n - 2 ^ n) else BitVec.ofNat 64 (x % 2 ^ n)

/-- A tile operation code with its enables, in the order A, B, C, O, D (R192). -/
structure TopF where
  topc : Nat
  fmtA : Nat
  fmtB : Nat
  fmtD : Nat
  qa   : Nat
  qb   : Nat
  qc   : Nat
  qo   : Nat
  qd   : Nat
  ea   : Bool
  eb   : Bool
  ec   : Bool
  eo   : Bool
  ed   : Bool
  inplace : Bool
  opn  : Bool
  cls  : Bool
  hint : Nat
deriving DecidableEq, Repr

/-- The fields of a TOP. -/
def topOf (w : Nat) : TopF :=
  { topc := fld w 53 5, fmtA := fld w 48 5, fmtB := fld w 43 5, fmtD := fld w 38 5, qa := fld w 34 4,
    qb := fld w 30 4, qc := fld w 26 4, qo := fld w 22 4, qd := fld w 18 4, ea := bitOf w 17, eb := bitOf w 16,
    ec := bitOf w 15, eo := bitOf w 14, ed := bitOf w 13, inplace := bitOf w 12, opn := bitOf w 11,
    cls := bitOf w 10, hint := fld w 0 10 }

/-- The handles a tile operation code lists, as (A, B, C, O), are the ones enabled (R192). OPEN and CLOSE, which the spec
describes for MMA alone, are rejected with every other code; INPLACE on an ENGINE code needs C enabled and O disabled, as with MMA (DESIGN CHOICE, log entry 47). -/
def topHandlesOk (t : TopF) : Bool :=
  let h (a b c o : Bool) : Bool := t.ea == a && t.eb == b && t.ec == c && t.eo == o
  if t.topc = 1 then
    (h true true false true && t.opn && !t.inplace) || (h true true true false && t.inplace && !t.opn)
  else if t.topc = 2 then h true true false true && !t.inplace && !t.opn && !t.cls
  else if t.topc = 3 ∨ t.topc = 4 then h true false false true && !t.inplace && !t.opn && !t.cls
  else if t.topc = 5 then h false false false true && !t.inplace && !t.opn && !t.cls
  else decide (0x10 ≤ t.topc) && (!t.inplace || (!t.eo && t.ec)) && !t.opn && !t.cls

/-- The formats of a tile operation (R192, R213, R218). -/
def topFmtOk (t : TopF) : Bool :=
  if t.topc = 1 then
    let c := fmtClass t.fmtA
    decide (c ≠ 0) && fmtClass t.fmtB == c && t.fmtD == spanFmt c
  else if t.topc = 2 then t.fmtA == t.fmtB && t.fmtA == t.fmtD && (t.fmtA == 1 || t.fmtA == 0x12)
  else if t.topc = 3 then
    fmtDefined t.fmtA && fmtDefined t.fmtD && t.fmtB == 0 && !fmtMx t.fmtD && t.fmtD != 0x12 && t.fmtA != 0x12
  else if t.topc = 4 then fmtDefined t.fmtA && t.fmtD == t.fmtA && t.fmtB == 0
  else if t.topc = 5 then fmtDefined t.fmtD && t.fmtA == 0 && t.fmtB == 0
  else (t.fmtA == 0 || fmtDefined t.fmtA) && (t.fmtB == 0 || fmtDefined t.fmtB) && (t.fmtD == 0 || fmtDefined t.fmtD)

/-- Bits `[hi:lo]` of an instruction are zero. -/
def zeroBits (w lo n : Nat) : Bool := fld w lo n == 0

/-- A destination register class: S, or A in the access stream (R188). -/
def dclsOk (exe : Bool) (d : Nat) : Bool := d == 0 || (d == 1 && !exe)

/-- A source register class with its index: C takes 0 to 5 (R188). -/
def sclsOk (exe : Bool) (c i : Nat) : Bool := c == 0 || (c == 1 && !exe) || (c == 2 && decide (i ≤ 5))

/-- An IDX of RDP names a pass value (R180). -/
def rdpOk (i : Nat) : Bool := decide (i ≤ 0x021) || (decide (0x100 ≤ i) && decide (i ≤ 0x1FE))

/-- A region table entry (R176). -/
structure Region where
  base  : Nat
  units : Nat
  tiles : Nat
deriving DecidableEq, Repr

/-- The regions from `r` on, `n` of them, hold tile `t`. -/
def tileInRegions (rs : List Region) (r n t : Nat) : Bool :=
  decide (r + n ≤ rs.length) && ((rs.drop r).take n).all (fun x => decide (t < x.tiles))

/-- Step 8 of R179: the fields of one instruction of a stream. Loop-level fields of AINC, LOAD and ALLOC lie in 0 to
5. -/
def fieldsOk (exe : Bool) (rs : List Region) (w : Nat) : Bool :=
  let m := majorOf w
  if m = 0x01 then zeroBits w 24 26 && decide (fld w 55 3 ≤ 5)
  else if m = 0x02 then zeroBits w 0 55 && decide (fld w 55 3 ≤ 5)
  else if m = 0x03 then zeroBits w 40 6 && decide (fld w 55 3 ≤ 5)
  else if m = 0x04 then zeroBits w 48 4 && dclsOk exe (fld w 52 2)
  else if m = 0x05 then zeroBits w 32 4 && dclsOk exe (fld w 52 2) && sclsOk exe (fld w 46 2) (fld w 48 4)
      && (fld w 40 2 == 3 || sclsOk exe (fld w 40 2) (fld w 42 4)) && decide (fld w 36 4 ≤ 9)
  else if m = 0x06 then zeroBits w 0 43 && dclsOk exe (fld w 52 2) && rdpOk (fld w 43 9)
  else if m = 0x07 then zeroBits w 0 54
  else if m = 0x08 then zeroBits w 0 22 && decide (fld w 28 3 ≤ 5) && tileInRegions rs (fld w 44 6) (fld w 31 3 + 1) (fld w 34 10)
  else if m = 0x09 then zeroBits w 28 22 && zeroBits w 24 1 && zeroBits w 0 22
  else if m = 0x0A then zeroBits w 0 12
  else if m = 0x0B then zeroBits w 54 4 && zeroBits w 0 28 && decide (fld w 28 3 ≤ 5) && tileInRegions rs (fld w 44 6) (fld w 31 3 + 1) (fld w 34 10)
  else if m = 0x0C then zeroBits w 54 4 && zeroBits w 0 34 && tileInRegions rs (fld w 44 6) 1 (fld w 34 10)
  else if m = 0x0D then zeroBits w 54 4 && zeroBits w 0 50
  else if m = 0x0E then zeroBits w 28 22 && zeroBits w 0 25
  else if m = 0x0F then zeroBits w 0 54
  else if m = 0x10 then let t := topOf w; topHandlesOk t && topFmtOk t && (decide (0x10 ≤ t.topc) || t.ed)
  else if m = 0x11 then
    let tm := fld w 49 9; let tn := fld w 40 9; let tk := fld w 26 14
    zeroBits w 0 16 && decide (1 ≤ tm) && decide (tm ≤ 256) && decide (1 ≤ tn) && decide (tn ≤ 256)
      && decide (tk ≤ 8192) && decide (tm * tn ≤ 16384)
  else if m = 0x12 then zeroBits w 10 31 && [1, 2, 3].contains (fld w 41 5)
  else if m = 0x13 then zeroBits w 0 54
  else zeroBits w 0 58

/-! ### Programs in the cache (R175 to R178) -/

/-- Bytes of a program: not yet arrived, lost to a failed PFETCH, or there. -/
inductive PByte where
  | wait
  | bad (s : Status)
  | ok (n : Nat)
deriving DecidableEq, Repr

/-- The chunk of a program that holds offset `o`. -/
def chunkOf (p : Prog) (o : Nat) : Option (Nat × Fetched) :=
  p.chunks.find? (fun c => decide (c.1 ≤ o) && (match c.2 with
    | .bytes l => decide (o < c.1 + l.length)
    | .bad _ => decide (o < c.1 + (512 - (p.addr + c.1) % 512))))

/-- Status of a PFETCH that failed; 7 marks one that R341 refused. -/
def fetchStatus (s : BitVec 3) : Status := if s = 7 then .notPermitted else ddStatus s

/-- `n` bytes at offset `o` of a program, little-endian; they never cross a 512-byte line for aligned 8-byte reads. -/
def progRead (p : Prog) (o n : Nat) : PByte :=
  match chunkOf p o with
  | none => .wait
  | some (_, .bad s) => .bad (fetchStatus s)
  | some (b, .bytes l) => .ok (leNat (slice l (o - b) n))

/-- 32-bit word `i` of the header. -/
def hdrWord (p : Prog) (i : Nat) : Nat := match progRead p (4 * i) 4 with | .ok n => n | _ => 0

/-- REG_COUNT of the header. -/
def regCount (p : Prog) : Nat := fld (hdrWord p 5) 0 8

/-- The region whose table entry has the words `lo`, `hi` (R176). -/
def regionOf (x : Nat) : Region :=
  { base := fld x 0 16, units := fld x 16 16, tiles := fld x 32 11 }

/-- Region table entry `r`. -/
def regionAt (p : Prog) (r : Nat) : Region :=
  match progRead p (hdrWord p 4 + 8 * r) 8 with | .ok n => regionOf n | _ => regionOf 0

/-- The region table. -/
def regions (p : Prog) : List Region := (List.range (regCount p)).map (regionAt p)

/-- Instruction `i` of a stream. -/
def instrAt (p : Prog) (exe : Bool) (i : Nat) : PByte :=
  progRead p (hdrWord p (if exe then 2 else 0) + 8 * i) 8

/-- What the fetch-time checks give so far (R179): a byte to come, the first failure with STREAM and PC, or done. -/
inductive Fetch where
  | wait
  | fail (st : Status) (exe : Bool) (pc : Nat)
  | pass
deriving DecidableEq, Repr

/-- Two regions share a unit of core-local memory. -/
def overlaps (a b : Region) : Bool :=
  decide (a.base < b.base + b.tiles * b.units) && decide (b.base < a.base + a.tiles * a.units)

/-- Steps 5 and 6 on entry `r` and those after it, `prev` being the entries before it. -/
def checkRegions (p : Prog) : Nat → Nat → List Region → Fetch
  | 0, _, _ => .pass
  | n + 1, r, prev =>
    match progRead p (hdrWord p 4 + 8 * r) 8 with
    | .wait => .wait
    | .bad s => .fail s false r
    | .ok x =>
      let g := regionOf x
      if fld x 43 21 != 0 || g.units == 0 || g.tiles == 0 || decide (1024 < g.tiles) || prev.any (overlaps g) then
        .fail .badParam false r
      else if Config.memUnits < g.base + g.tiles * g.units then .fail .badExtent false r
      else checkRegions p n (r + 1) (prev ++ [g])

/-- Steps 7 to 9 on instruction `i` and those after it, with `depth` open levels; step 10 at the stream's end. -/
def checkStream (p : Prog) (exe : Bool) (rs : List Region) : Nat → Nat → Nat → Fetch
  | 0, i, _ => .fail .badLength exe i
  | n + 1, i, depth =>
    match instrAt p exe i with
    | .wait => .wait
    | .bad s => .fail s exe i
    | .ok w =>
      let m := majorOf w
      if !(if exe then executeMajor m else accessMajor m) then .fail .badOpcode exe i
      else if !fieldsOk exe rs w then .fail .badParam exe i
      else if m = 0x01 then
        if fld w 55 3 != depth || decide (6 ≤ depth) then .fail .badState exe i
        else checkStream p exe rs n (i + 1) (depth + 1)
      else if m = 0x02 then
        if depth = 0 ∨ fld w 55 3 ≠ depth - 1 then .fail .badState exe i
        else checkStream p exe rs n (i + 1) (depth - 1)
      else if m = 0x3F then if depth ≠ 0 then .fail .badState exe i else .pass
      else checkStream p exe rs n (i + 1) depth

/-- Steps 1 to 4 on a header that has arrived. -/
def headerOk (p : Prog) : Option Status :=
  let w := hdrWord p
  let fits (s l : Nat) : Bool := decide (64 ≤ s) && decide (s + l ≤ p.len)
  if fld (w 5) 16 16 != 0 || (List.range 10).any (fun i => w (6 + i) != 0) || decide (64 < regCount p) then some .badParam
  else if fld (w 5) 8 8 != Config.nclass then some .notPermitted
  else if w 0 % 8 != 0 || w 2 % 8 != 0 || (regCount p != 0 && w 4 % 8 != 0) then some .badAlign
  else if w 1 % 8 != 0 || w 3 % 8 != 0 || decide (w 1 < 8) || decide (w 3 < 8) || !fits (w 0) (w 1)
      || !fits (w 2) (w 3) || (regCount p != 0 && !fits (w 4) (8 * regCount p)) then some .badLength
  else none

/-- Every byte of the program has arrived, none lost. -/
def allArrived (p : Prog) : Fetch :=
  if p.nextOff < p.len ∨ p.out ≠ 0 then .wait else
  match p.chunks.find? (fun c => match c.2 with | .bad _ => true | _ => false) with
  | some (_, .bad s) => .fail (fetchStatus s) false 0
  | _ => .pass

/-- Header words that have not arrived or are lost. -/
def hdrState (p : Prog) : Fetch :=
  (List.range 8).foldl (fun f i => match f with
    | .pass => (match progRead p (8 * i) 8 with | .wait => .wait | .bad s => .fail s false 0 | .ok _ => .pass)
    | f => f) .pass

/-- The fetch-time checks of R179 in order, as far as the bytes at hand allow. -/
def fetchCheck (p : Prog) : Fetch :=
  if p.len < 64 then .fail .badLength false 0 else
  match hdrState p with
  | .wait => .wait
  | .fail s e i => .fail s e i
  | .pass =>
    match headerOk p with
    | some s => .fail s false 0
    | none =>
      match checkRegions p (regCount p) 0 [] with
      | .wait => .wait
      | .fail s e i => .fail s e i
      | .pass =>
        match checkStream p false (regions p) (hdrWord p 1 / 8) 0 0 with
        | .wait => .wait
        | .fail s e i => .fail s e i
        | .pass =>
          match checkStream p true (regions p) (hdrWord p 3 / 8) 0 0 with
          | .wait => .wait
          | .fail s e i => .fail s e i
          | .pass => allArrived p

end Sys2Proof.Machine
end

