-- ==== Sys2Proof/Machine/Streams.lean ====
section
/-! DEFINITION. What the instructions of both streams share: the running pass, its registers and queues, the scoreboard,
pass failures, and what keeps the next instruction of a stream from issuing (R172 to R174, R180, R183, R184, R186,
R187, R190, R193 to R197, R200, R207). -/

namespace Sys2Proof.Machine

/-! ### The running pass -/

/-- A sequencer's program pass: its bank, pass and resident program. -/
structure View where
  sq   : Seqr
  bank : Bank
  pass : Pass
  prog : Prog
deriving DecidableEq, Repr

/-- The resident program that a bank runs (R177). -/
def progOf (s : Seqr) (k : Bank) : Option Prog := s.progs.find? (fun p => p.resident && bankProg k p)

/-- The program pass of sequencer `n` while its streams run. -/
def viewOf (b : Block) (n : Nat) : Option View :=
  let s := seqrOf b n
  match s.active, s.pass with
  | some k, some p =>
    if p.kind == .program && p.fail.isNone && !p.abort && !p.ended then
      (progOf s k).map (fun g => { sq := s, bank := k, pass := p, prog := g })
    else none
  | _, _ => none

/-- Active lanes of a bank, ascending. -/
def lanesOf (k : Bank) : List Nat := k.lanes.map (·.1)

/-- The lowest active lane. -/
def lowLane (k : Bank) : Nat := (lanesOf k).headD 0

/-- A stream of a pass. -/
def streamOf (p : Pass) (exe : Bool) : Stream := if exe then p.exe else p.acc

/-- Change a stream of a pass. -/
def modStream (exe : Bool) (f : Stream → Stream) (p : Pass) : Pass :=
  if exe then { p with exe := f p.exe } else { p with acc := f p.acc }

/-- The major's stream as a Boolean. -/
def StreamSel.exe : StreamSel → Bool
  | .access => false
  | .execute => true

/-! ### Registers (R172, R188) -/

/-- s-register `i` of lane `l`. -/
def sReg (st : Stream) (l i : Nat) : W64 := tget 0 st.s (16 * l + i)

/-- a-register `i` of lane `l`. -/
def aReg (p : Pass) (l i : Nat) : W64 := tget 0 p.a (16 * l + i)

/-- Write the lanes' copies of an s-register. -/
def setS (exe : Bool) (i : Nat) (vs : List (Nat × W64)) (p : Pass) : Pass :=
  vs.foldl (fun p e => modStream exe (fun st => { st with s := tset 0 st.s (16 * e.1 + i) e.2 }) p) p

/-- Write the lanes' copies of an a-register. -/
def setA (i : Nat) (vs : List (Nat × W64)) (p : Pass) : Pass :=
  vs.foldl (fun p e => { p with a := tset 0 p.a (16 * e.1 + i) e.2 }) p

/-- A source of SALU on lane `l`: class and index, and the immediate (R188). -/
def srcVal (p : Pass) (exe : Bool) (l cls i : Nat) (imm : W64) : W64 :=
  if cls = 0 then sReg (streamOf p exe) l i
  else if cls = 1 then aReg p l i
  else if cls = 2 then BitVec.ofNat 64 (tget 0 (streamOf p exe).c i)
  else imm

/-- SALU functions (R188). -/
def saluFn (fn : Nat) (x y : W64) : W64 :=
  match fn with
  | 0 => x + y
  | 1 => x - y
  | 2 => x * y
  | 3 => x <<< (y.toNat % 64)
  | 4 => x >>> (y.toNat % 64)
  | 5 => x &&& y
  | 6 => x ||| y
  | 7 => x ^^^ y
  | 8 => if x.toNat ≤ y.toNat then x else y
  | 9 => if x.toNat ≤ y.toNat then y else x
  | _ => x

/-- s-register `i` of the access stream awaits an LDS on an active lane (R189). -/
def ldsBusy (v : View) (exe : Bool) (i : Nat) : Bool :=
  !exe && (lanesOf v.bank).any (fun l => v.pass.lds.contains (16 * l + i))

/-- The first active lane on which a per-lane register differs from the lowest active lane's copy (R174). The whole 64-bit
register is compared, also where the instruction uses only its low bits (DESIGN CHOICE, log entry 47). -/
def differs (v : View) (f : Nat → W64) : Option Nat :=
  (lanesOf v.bank).find? (fun l => f l != f (lowLane v.bank))

/-! ### Queues and scoreboard (R183, R184) -/

/-- Data queue `q`. -/
def queueQ (p : Pass) (q : Nat) : List QEntry := tget [] p.qs q

/-- Every active lane's bit of a mask is set. -/
def allLanes (k : Bank) (m : Nat) : Bool := (lanesOf k).all (bitOf m ·)

/-- The mask of the active lanes. -/
def laneMask (k : Bank) : Nat := (lanesOf k).foldl setBit 0

/-- A scoreboard counter is zero for region `r` on every active lane. -/
def zeroCnt (k : Bank) (t : Table Nat) (r : Nat) : Bool := (lanesOf k).all (fun l => tget 0 t (64 * l + r) == 0)

/-- Region of a handle. -/
def hRegion (h : Nat) : Nat := fld h 10 6

/-- Local address of a handle's tile, in 256-byte units (R176). -/
def laOf (g : Prog) (h : Nat) : Nat :=
  let r := regionAt g (hRegion h)
  (r.base + fld h 0 10 * r.units) % 2 ^ 16

/-- Bytes of a handle's tile. -/
def tileBytes (g : Prog) (h : Nat) : Nat := (regionAt g (hRegion h)).units * 256

/-- Push an entry, with the next entry number. -/
def pushQ (q handle r m wait : Nat) (p : Pass) : Pass :=
  let e : QEntry := { eid := p.nextEid, handle := handle, r := r, m := m, wait := wait }
  { p with qs := tset [] p.qs q (queueQ p q ++ [e]), nextEid := p.nextEid + 1 }

/-- Pop the head of a queue. -/
def popQ (q : Nat) (p : Pass) : Pass := { p with qs := tset [] p.qs q ((queueQ p q).drop 1) }

/-- Change the entry numbered `eid` wherever it stands. -/
def modEntry (eid : Nat) (f : QEntry → QEntry) (p : Pass) : Pass :=
  { p with qs := tmap [] p.qs (fun _ l => modFirst (·.eid == eid) f l) }

/-! ### Failures (R200) -/

/-- SEQ_FAULT takes a failure while none is recorded (R207). -/
def noteFault (n : Nat) (st : Status) (exe : Bool) (lane pc : Nat) (b : Block) : Block :=
  if (seqrOf b n).fault.valid then b else
  noteCycle (.seqFault n) (modSeqr n (fun s =>
    { s with fault := { valid := true, status := st, exe := exe, lane := lane, pc := pc } }) b)

/-- A pass fails: both streams stop, its lanes are asked to abort, SEQ_FAULT takes the first failure. -/
def passFail (n : Nat) (st : Status) (exe : Bool) (lane pc : Nat) (b : Block) : Block :=
  match (seqrOf b n).pass with
  | none => b
  | some p =>
    if p.fail.isSome || p.abort then b
    else abortPass n (noteFault n st exe lane pc (modPass n (fun p => { p with fail := some st }) b))

/-! ### Shapes and footprints (R190) -/

/-- A shape's stride as a signed number. -/
def strideOf (s : Shape) : Int := if s.stride < 2 ^ 31 then s.stride else (s.stride : Int) - 2 ^ 32

/-- A shape moves no bytes. -/
def shapeEmpty (s : Shape) : Bool := s.rowBytes == 0 || s.rows == 0

/-- Lowest byte address and past-the-highest of a shape at an address; may fall outside the address space. -/
def footprint (s : Shape) (a : Nat) : Int × Int :=
  let d := strideOf s * ((s.rows : Int) - 1)
  ((a : Int) + min d 0, (a : Int) + max d 0 + (s.rowBytes : Int))

/-- Checks of R190 and R341 on the footprint `[lo, hi)`: address space, OPN, extent. The shape of a LOAD or STORE with
no bytes has the test of OPN alone. A footprint whose low end falls below address 0 counts as outside the address space
(the spec names its upper end alone; DESIGN CHOICE, log entry 47). -/
def footCheck (k : Bank) (opn : Nat) (empty : Bool) (lo hi : Int) : Option Status :=
  if !empty && (decide (lo < 0) || decide ((2 : Int) ^ 64 < hi)) then some .xlatFault
  else match k.launch.ops[opn]? with
    | none => some .badParam
    | some o =>
      if !empty && (decide (lo < (o.1 : Int)) || decide ((o.1 : Int) + (o.2 : Int) < hi)) then some .badExtent
      else none

/-! ### Tile operations (R192, R193, R197) -/

/-- Bytes a TOP writes to its destination; none for operations the block does not know (R193). Every MMA counts the bytes of
the open span, one with CLOSE too, which leaves FP32 or INT64 values in the same tile (DESIGN CHOICE, log entry 47). -/
def topBytes (t : TopF) (s : TShape) : Nat :=
  if t.topc = 1 then s.tm * s.tn * Config.spanBytes
  else if t.topc = 0x16 ∨ t.topc = 0x17 then s.tm * 4
  else if 0x19 ≤ t.topc ∨ t.fmtD = 0 then 0
  else s.tm * rowBytes t.fmtD s.tn

/-- The queues a TOP pops, in the order A, B, C, O, X. -/
def topPops (t : TopF) (s : TShape) : List Nat :=
  (if t.ea then [t.qa] else []) ++ (if t.eb then [t.qb] else []) ++ (if t.ec then [t.qc] else [])
  ++ (if t.eo then [t.qo] else []) ++ (if s.xen then [s.xq] else [])

/-- Pop a list of queues in order: the entries, or the queue that stalls with its reason (R183). -/
def popAll (k : Bank) : List Nat → Pass → Except (Nat × Nat) (List QEntry × Pass)
  | [], p => .ok ([], p)
  | q :: qs, p =>
    match queueQ p q with
    | [] => .error (0x02, q)
    | e :: _ =>
      if !allLanes k e.r then .error (0x03, q) else
      match popAll k qs (popQ q p) with
      | .error x => .error x
      | .ok (es, p) => .ok (e :: es, p)

/-- The handles of a TOP out of the entries it pops: A, B, C, O, X. -/
structure TopH where
  a : Option Nat
  b : Option Nat
  c : Option Nat
  o : Option Nat
  x : Option Nat
deriving DecidableEq, Repr

/-- Hand the popped entries out to the enabled handles. -/
def topHandles (t : TopF) (s : TShape) (es : List QEntry) : TopH :=
  let take (en : Bool) (l : List QEntry) : Option Nat × List QEntry :=
    if en then (l.head?.map (·.handle), l.drop 1) else (none, l)
  let a := take t.ea es
  let b := take t.eb a.2
  let c := take t.ec b.2
  let o := take t.eo c.2
  let x := take s.xen o.2
  { a := a.1, b := b.1, c := c.1, o := o.1, x := x.1 }

/-- The handle of a TOP's destination. An ENGINE with D enabled and neither O nor INPLACE has none and pushes nothing (DESIGN
CHOICE, log entry 47). -/
def topDest (t : TopF) (h : TopH) : Option Nat := if t.inplace then h.c else h.o

/-- Checks of a TOP at issue: a tile shape, the launch's class, MX, the destination's size (R191, R193, R212). -/
def topCheck (v : View) (t : TopF) (h : TopH) : Option Status :=
  let s := v.pass.ts
  let cls := v.bank.launch.fclass
  if !s.valid then some .badParam
  else if t.topc == 1 && cls != 0 && (v.bank.role == .partialR || v.bank.role == .whole)
      && !(fmtClass t.fmtA == cls && fmtClass t.fmtB == cls) then some .badParam
  else if t.topc == 1 && (fmtMx t.fmtA || fmtMx t.fmtB) && (!s.xen || s.tk % 32 != 0) then some .badParam
  else match topDest t h with
    | some d => if tileBytes v.prog d < topBytes t s then some .badLength else none
    | none => none

/-- The 256 bits of a tile operation, its identifier left zero (R197). -/
def opData (topc fmtA fmtB fmtD : Nat) (la lb lc ld lx : Option Nat) (s : TShape) (opn cls : Bool) (draft seq : Nat)
    (imm : W64) : Beat :=
  let hv := b2n la.isSome + 2 * b2n lb.isSome + 4 * b2n lc.isSome + 8 * b2n ld.isSome
  let w0 := at_ topc 8 + at_ fmtA 16 + at_ fmtB 21 + at_ fmtD 26
  let w1 := la.getD 0 + at_ (lb.getD 0) 16
  let w2 := lc.getD 0 + at_ (ld.getD 0) 16
  let w3 := s.tm + at_ s.tn 9 + at_ s.tk 18
  let w4 := hv + at_ (b2n lx.isSome) 4 + at_ (b2n opn) 5 + at_ (b2n cls) 6 + at_ (lx.getD 0) 16
  let w5 := seq + at_ draft 14
  BitVec.ofNat 256 (w0 + at_ w1 32 + at_ w2 64 + at_ w3 96 + at_ w4 128 + at_ w5 160 + at_ imm.toNat 192)

/-- Put a tile operation into the issue buffer of lane `l`, counting it in CT of its regions (R184, R195). -/
def issueOp (n l : Nat) (o : LaneOp) (b : Block) : Block :=
  let b := modLane n l (fun x => { x with buf := x.buf ++ [o] }) b
  modPass n (fun p => { p with ct := o.regions.foldl (fun t r => tmod 0 t (64 * l + r) (· + 1)) p.ct }) b

/-- A lane's issue buffer is full on an active lane. -/
def issueFull (v : View) : Bool := (lanesOf v.bank).any (fun l => decide (16 ≤ (laneOf v.sq l).buf.length))

/-- The distinct regions of a list of handles. -/
def regionsOf (hs : List Nat) : List Nat := (hs.map hRegion).dedup

/-! ### The generator (R194, R222) -/

/-- The sampling key in force for the turn of a bank (R115). -/
def turnKey (b : Block) (k : Bank) : BitVec 128 :=
  match b.bat.insts.find? (·.id == k.turn) with
  | some i => i.key
  | none => tget 0 b.sec.skey k.ctx

/-- Generator value for sequence `s`, draft index `d`, position `p` (R222). Byte i of the AES key is bits 8i + 7 to 8i of the
sampling key (DESIGN CHOICE, log entry 47). -/
def genValue (key : BitVec 128) (s d p : Nat) : W64 :=
  let x := p + at_ d 40 + at_ s 48 + at_ 1 64
  BitVec.ofNat 64 (leNat ((aesEncrypt (leBytes key.toNat 16) (leBytes x 16)).take 8))

/-! ### Loops (R186, R187) -/

/-- The index after the ENDL that closes the loop whose body begins at `i`, with `d` inner loops open. -/
def afterEndl (g : Prog) (exe : Bool) : Nat → Nat → Nat → Nat
  | 0, i, _ => i
  | fuel + 1, i, d =>
    match instrAt g exe i with
    | .ok w =>
      if majorOf w = 1 then afterEndl g exe fuel (i + 1) (d + 1)
      else if majorOf w = 2 then (if d = 0 then i + 1 else afterEndl g exe fuel (i + 1) (d - 1))
      else afterEndl g exe fuel (i + 1) d
    | _ => i

/-- The a-registers of the active lanes. -/
def savedA (p : Pass) : Table W64 := p.a

/-- Add a level's increments to every a-register of the active lanes (R187). -/
def addIncs (k : Bank) (lvl : Nat) (p : Pass) : Pass :=
  (lanesOf k).foldl (fun p l => (List.range 16).foldl (fun p i =>
    { p with a := tset 0 p.a (16 * l + i) (aReg p l i + tget 0 p.inc (16 * lvl + i)) }) p) p

/-- Product of the counts of the open levels. -/
def openCount (st : Stream) : Nat := (st.levels.map (·.total)).foldl (· * ·) 1

/-! ### What the next instruction of a stream waits for -/

/-- The next instruction of a stream: it fails the pass, it stalls with a reason and argument, or it may issue. -/
inductive Gate where
  | fail (st : Status) (lane : Nat)
  | stall (reason arg : Nat)
  | go
deriving DecidableEq, Repr

/-- A pass has room for one more descriptor: a tag, and the regulator (R201, R322). -/
def ddRoom (b : Block) (v : View) : Bool :=
  decide (passTags v.sq < 240) && decide (v.sq.dd.length < 256) && bwOpen b v.bank.slot

/-- A TOP or SAMPLE with HINT `h` waits for its hinted cycle, while its other waits are clear (R196). -/
def hintGate (b : Block) (v : View) (h : Nat) : Gate :=
  if !b.seq.hintEn || h == 0 || decide (v.pass.exe.lastIss + h ≤ b.time.seq) then .go else .stall 0x07 0

/-- The waits of the major `m` of the access stream. -/
def accessGate (b : Block) (v : View) (w : Nat) : Gate :=
  let p := v.pass
  let k := v.bank
  let m := majorOf w
  let dd := if ddRoom b v then Gate.go else Gate.stall 0x05 0
  let full (q : Nat) : Bool := decide (64 ≤ (queueQ p q).length)
  if m = 0x08 ∨ m = 0x0B ∨ m = 0x0C then
    let q := fld w 50 4
    let lvl := if m = 0x0C then 0 else tget 0 p.acc.c (fld w 28 3)
    let rn := if m = 0x0C then 1 else fld w 31 3 + 1
    let r := fld w 44 6 + lvl % rn
    let unit := (regionAt v.prog r).units * 256
    if p.rem.isSome then dd
    else if m = 0x0C ∧ k.role ≠ .epilogue then .fail .notPermitted (lowLane k)
    else if m = 0x0C ∧ 131072 < unit then .fail .badLength (lowLane k)
    else if full q then .stall 0x01 q
    else if !(zeroCnt k p.ct r && zeroCnt k p.dr r && (m != 0x0B || zeroCnt k p.dw r)) then .stall 0x04 r
    else if m = 0x0B then .go else dd
  else if m = 0x09 ∨ m = 0x0D then
    let q := fld w 50 4
    if p.rem.isSome then dd
    else if m = 0x0D ∧ k.role ≠ .partialR then .fail .notPermitted (lowLane k)
    else match queueQ p q with
      | [] => .stall 0x02 q
      | e :: _ =>
        if m = 0x0D ∧ 131072 < tileBytes v.prog e.handle then .fail .badLength (lowLane k)
        else if !allLanes k e.m then .stall 0x03 q
        else if !zeroCnt k p.dw (hRegion e.handle) then .stall 0x04 (hRegion e.handle)
        else dd
  else if m = 0x0A then (if ldsBusy v false (fld w 12 4) then .stall 0x09 0 else .go)
  else if m = 0x0E then
    if p.rem.isSome then dd else if ldsBusy v false (fld w 54 4) then .stall 0x09 0 else dd
  else if m = 0x0F then
    if ldsBusy v false (fld w 54 4) || (lanesOf k).any (fun l => decide (64 ≤ (tget [] p.sq l).length)) then
      .stall 0x09 0
    else .go
  else if m = 0x03 then (if bitOf w 50 && ldsBusy v false (fld w 46 4) then .stall 0x09 0 else .go)
  else .go

/-- The waits of the majors of both streams but the tile operations. -/
def commonGate (v : View) (exe : Bool) (w : Nat) : Gate :=
  let m := majorOf w
  let busy (cls i : Nat) : Bool := cls == 0 && ldsBusy v exe i
  if m = 0x01 then (if bitOf w 54 && ldsBusy v exe (fld w 50 4) then .stall 0x09 0 else .go)
  else if m = 0x04 ∨ m = 0x06 then (if busy (fld w 52 2) (fld w 54 4) then .stall 0x09 0 else .go)
  else if m = 0x05 then
    if busy (fld w 52 2) (fld w 54 4) || busy (fld w 46 2) (fld w 48 4) || busy (fld w 40 2) (fld w 42 4) then
      .stall 0x09 0 else .go
  else if m = 0x07 then (if (queueQ v.pass (fld w 54 4)).isEmpty then .stall 0x02 (fld w 54 4) else .go)
  else .go

/-- The waits of a TOP (R183, R184, R195, R196). A TOP that pops from a full queue and pushes to it stalls: whether the queue
is full is tested before its own pop (DESIGN CHOICE, log entry 47). -/
def topGate (b : Block) (v : View) (w : Nat) : Gate :=
  let t := topOf w
  match popAll v.bank (topPops t v.pass.ts) v.pass with
  | .error (r, a) => .stall r a
  | .ok (es, _) =>
    let h := topHandles t v.pass.ts es
    if t.ed && (topDest t h).isSome && decide (64 ≤ (queueQ v.pass t.qd).length) then .stall 0x01 t.qd
    else match topDest t h with
      | some d =>
        if !(zeroCnt v.bank v.pass.dw (hRegion d) && zeroCnt v.bank v.pass.dr (hRegion d)) then .stall 0x04 (hRegion d)
        else if issueFull v then .stall 0x06 0 else hintGate b v t.hint
      | none => if issueFull v then .stall 0x06 0 else hintGate b v t.hint

/-- The waits of a SAMPLE; outside a turn template's launch it fails first (R194). -/
def sampleGate (b : Block) (v : View) (w : Nat) : Gate :=
  if v.bank.turn = 0 then .fail .notPermitted (lowLane v.bank) else
  let s := v.pass.ts
  match popAll v.bank (fld w 46 4 :: (if s.xen then [s.xq] else [])) v.pass with
  | .error (r, a) => .stall r a
  | .ok _ => if issueFull v then .stall 0x06 0 else hintGate b v (fld w 0 10)

/-- What the instruction `w` of a stream waits for. -/
def gateOf (b : Block) (v : View) (exe : Bool) (w : Nat) : Gate :=
  let m := majorOf w
  if m = 0x10 then topGate b v w
  else if m = 0x12 then sampleGate b v w
  else if m = 0x13 then
    (if (lanesOf v.bank).any (fun l => (tget [] v.pass.sq l).isEmpty) then .stall 0x09 0 else .go)
  else if m ≤ 0x07 ∧ m ≠ 0x03 then commonGate v exe w
  else accessGate b v w

/-- The next instruction of a stream that has not ended. -/
def nextInstr (v : View) (exe : Bool) : Option Nat :=
  let st := streamOf v.pass exe
  if st.ended then none else
  match instrAt v.prog exe st.pc with
  | .ok w => some w
  | _ => none

/-- Reason and argument that SEQ_STALL reports for a stream (R207). -/
def stallOf (b : Block) (n : Nat) (exe : Bool) : Nat × Nat :=
  match viewOf b n with
  | none => (0, 0)
  | some v =>
    if (streamOf v.pass exe).ended then (0x08, 0) else
    match nextInstr v exe with
    | none => (0, 0)
    | some w => match gateOf b v exe w with
      | .stall r a => (r, a)
      | _ => (0, 0)

/-! ### Issue -/

/-- After an issue the stream goes on at `pc`; `at` is the cycle of issue. -/
def stepPc (exe : Bool) (pc cyc : Nat) (p : Pass) : Pass :=
  modStream exe (fun st => { st with pc := pc, lastIss := cyc, ready := none }) p

/-- The instruction at hand has issued: the stream goes on with the next one. -/
def nextPc (n : Nat) (exe : Bool) (b : Block) : Block :=
  modPass n (fun p => stepPc exe ((streamOf p exe).pc + 1) b.time.seq p) b

/-- The instruction at hand fails the pass (R200). -/
def instrFail (n : Nat) (exe : Bool) (v : View) (st : Status) (lane : Nat) (b : Block) : Block :=
  passFail n st exe lane (streamOf v.pass exe).pc b

/-- The row of a stream instruction of major `m`: when it is the stream's next and nothing holds it, its effect. -/
def instrRow (n : Nat) (exe : Bool) (m : Nat) (f : View → Nat → Block → Block) (b : Block) : Block :=
  match viewOf b n with
  | none => b
  | some v =>
    match nextInstr v exe with
    | none => b
    | some w =>
      if majorOf w ≠ m then b else
      match gateOf b v exe w with
      | .stall _ _ => b
      | .fail st lane => instrFail n exe v st lane b
      | .go => f v w b

end Sys2Proof.Machine
end

