-- ==== Sys2Proof/Machine/Access.lean ====
section
/-! DEFINITION. The instructions of both streams and of the access stream (R180, R186 to R190, R195). -/

namespace Sys2Proof.Machine

/-! ### Instructions of both streams -/

/-- LOOP: the level opens, or with a count of 0 its body is skipped (R186, R187). -/
def loopEff (n : Nat) (exe : Bool) (v : View) (w : Nat) (b : Block) : Block :=
  let st := streamOf v.pass exe
  let d := fld w 55 3
  let reg := bitOf w 54
  let i := fld w 50 4
  match (if reg then differs v (fun l => sReg st l i) else none) with
  | some l => instrFail n exe v .badParam l b
  | none =>
    let count := if reg then (sReg st (lowLane v.bank) i).toNat % 2 ^ 24 else fld w 0 24
    if 2 ^ 48 < openCount st * count then instrFail n exe v .badParam (lowLane v.bank) b
    else if count = 0 then
      modPass n (stepPc exe (afterEndl v.prog exe 65536 (st.pc + 1) 0) b.time.seq) b
    else
      let lvl : Level := { total := count, saved := if exe then [] else savedA v.pass, back := st.pc + 1 }
      nextPc n exe (modPass n (modStream exe (fun st =>
        { st with c := tset 0 st.c d 0, levels := st.levels ++ [lvl] })) b)

/-- ENDL: the next iteration, or the exit with the rewind. It takes no issue cycle (R187). -/
def endlEff (n : Nat) (exe : Bool) (v : View) (w : Nat) (b : Block) : Block :=
  let st := streamOf v.pass exe
  let d := fld w 55 3
  match st.levels.getLast? with
  | none => b
  | some lv =>
    let c := tget 0 st.c d + 1
    if c < lv.total then
      let step (p : Pass) : Pass :=
        let p := if exe then p else addIncs v.bank d p
        modStream exe (fun st => { st with c := tset 0 st.c d c, pc := lv.back, ready := none }) p
      modPass n step b
    else
      let leave (p : Pass) : Pass :=
        let p := if exe then p else { p with a := lv.saved }
        modStream exe (fun st => { st with c := tset 0 st.c d c, levels := st.levels.dropLast, pc := st.pc + 1,
                                           ready := none }) p
      modPass n leave b

/-- Write a register of class S or A on every active lane and go on. -/
def writeReg (n : Nat) (exe : Bool) (cls i : Nat) (vs : List (Nat × W64)) (b : Block) : Block :=
  nextPc n exe (modPass n (if cls = 1 then setA i vs else setS exe i vs) b)

/-- SMOV (R188). -/
def smovEff (n : Nat) (exe : Bool) (v : View) (w : Nat) (b : Block) : Block :=
  writeReg n exe (fld w 52 2) (fld w 54 4) ((lanesOf v.bank).map (fun l => (l, sext w 48))) b

/-- SALU (R188). -/
def saluEff (n : Nat) (exe : Bool) (v : View) (w : Nat) (b : Block) : Block :=
  let imm := sext w 32
  let f (l : Nat) : W64 := saluFn (fld w 36 4) (srcVal v.pass exe l (fld w 46 2) (fld w 48 4) imm)
                            (srcVal v.pass exe l (fld w 40 2) (fld w 42 4) imm)
  writeReg n exe (fld w 52 2) (fld w 54 4) ((lanesOf v.bank).map (fun l => (l, f l))) b

/-- A pass value of a lane (R180); none where the table gives it no value for the role: piece index, brick, KSTART and
KCOUNT of an EPILOGUE. -/
def passValue (k : Bank) (l idx : Nat) : Option Nat :=
  let c := k.launch
  let p := (k.lanes.find? (·.1 == l)).map (·.2)
  let tile := match p with | some p => p.tile | none => 0
  let brick := match p with | some p => p.brick | none => 0
  let epi := k.role == .epilogue
  match idx with
  | 0x000 => some k.role.code
  | 0x001 => if epi then none else some (if k.role == .partialR then tile * k.bricks + brick else tile)
  | 0x002 => some (tile / c.gridN)
  | 0x003 => some (tile % c.gridN)
  | 0x004 => if c.fclass = 0 then some 0 else if epi then none else some brick
  | 0x005 => if c.fclass = 0 then some 0 else if epi then none else some (brick * k.brickLen)
  | 0x006 => if epi then none else some (if k.role == .partialR then min k.brickLen (c.k - brick * k.brickLen) else c.k)
  | 0x007 => some c.k
  | 0x008 => some c.gridM
  | 0x009 => some c.gridN
  | 0x00A => some k.bricks
  | 0x00B => some c.fclass
  | 0x00C => some l
  | 0x00D => some k.lanes.length
  | 0x00E => some k.ctx
  | 0x00F => some k.slot
  | 0x020 => some c.ops.length
  | 0x021 => some c.args.length
  | i =>
    if 0x100 ≤ i then some (c.args.getD (i - 0x100) 0)
    else if 0x018 ≤ i then some ((c.ops.getD (i - 0x018) (0, 0)).2)
    else some ((c.ops.getD (i - 0x010) (0, 0)).1)

/-- An RDP names an operand or argument that the launch does not have (R180). -/
def rdpAbsent (k : Bank) (i : Nat) : Bool :=
  if 0x100 ≤ i then decide (k.launch.args.length ≤ i - 0x100)
  else decide (0x010 ≤ i) && decide (i ≤ 0x01F) && decide (k.launch.ops.length ≤ (i - 0x010) % 8)

/-- RDP: a value the table does not give is a free value (log entry 6). -/
def rdpEff (n : Nat) (exe : Bool) (v : View) (w : Nat) (b : Block) : Block :=
  let i := fld w 43 9
  if rdpAbsent v.bank i then instrFail n exe v .badParam (lowLane v.bank) b
  else
    let f (l : Nat) : W64 := match passValue v.bank l i with
      | some x => BitVec.ofNat 64 x
      | none => freeVal 64 b
    useFree (writeReg n exe (fld w 52 2) (fld w 54 4) ((lanesOf v.bank).map (fun l => (l, f l))) b)

/-- DROP pops the head, whatever its readiness (R184). -/
def dropEff (n : Nat) (exe : Bool) (_ : View) (w : Nat) (b : Block) : Block :=
  nextPc n exe (modPass n (popQ (fld w 54 4)) b)

/-- NOP of a stream. -/
def nopEff (n : Nat) (exe : Bool) (_ : View) (_ : Nat) (b : Block) : Block := nextPc n exe b

/-- END: the stream has ended (R181). -/
def endEff (n : Nat) (exe : Bool) (_ : View) (_ : Nat) (b : Block) : Block :=
  nextPc n exe (modPass n (modStream exe (fun st => { st with ended := true })) b)

/-! ### Registers of the access stream -/

/-- AINC: an increment from the immediate, or from a lane-uniform register in the 40-bit range (R174, R189). -/
def aincEff (n : Nat) (v : View) (w : Nat) (b : Block) : Block :=
  let st := v.pass.acc
  let i := fld w 46 4
  let bad (l : Nat) : Bool :=
    let x := (sReg st l i).toInt
    decide (x < -(2 ^ 39)) || decide (2 ^ 39 ≤ x) || sReg st l i != sReg st (lowLane v.bank) i
  let put (x : W64) : Block := nextPc n false (modPass n (fun p =>
    { p with inc := tset 0 p.inc (16 * fld w 55 3 + fld w 51 4) x }) b)
  if bitOf w 50 then
    match (lanesOf v.bank).find? bad with
    | some l => instrFail n false v .badParam l b
    | none => put (sReg st (lowLane v.bank) i)
  else put (sext w 40)

/-- SHAPE: the stride is the signed low half of a lane-uniform register (R174, R189). -/
def shapeEff (n : Nat) (v : View) (w : Nat) (b : Block) : Block :=
  let i := fld w 12 4
  match differs v (fun l => sReg v.pass.acc l i) with
  | some l => instrFail n false v .badParam l b
  | none =>
    let s : Shape := { rowBytes := fld w 32 24, rows := fld w 16 16,
                       stride := (sReg v.pass.acc (lowLane v.bank) i).toNat % 2 ^ 32 }
    nextPc n false (modPass n (fun p =>
      { p with shapes := tset { rowBytes := 0, rows := 0, stride := 0 } p.shapes (fld w 56 2) s }) b)

/-- PUSHS: each lane's register goes to its scalar queue (R189). -/
def pushsEff (n : Nat) (v : View) (w : Nat) (b : Block) : Block :=
  let i := fld w 54 4
  let push (p : Pass) : Pass := { p with sq := (lanesOf v.bank).foldl (fun t l =>
    tmod [] t l (· ++ [sReg v.pass.acc l i])) p.sq }
  nextPc n false (modPass n push b)

/-- ALLOC pushes a handle that is ready at once (R184, R189). -/
def allocEff (n : Nat) (v : View) (w : Nat) (b : Block) : Block :=
  let r := fld w 44 6 + tget 0 v.pass.acc.c (fld w 28 3) % (fld w 31 3 + 1)
  nextPc n false (modPass n (pushQ (fld w 50 4) (at_ r 10 + fld w 34 10) 255 255 0) b)

/-! ### Instructions that issue descriptors (R189, R190, R195, R201, R202) -/

/-- A descriptor of a pass. -/
def passDesc (b : Block) (k : Bank) (kind lanes kdata : Nat) (key : Option Nat) (fab : Bool) (body : List Nat) : Desc :=
  { kind := kind, tag := 0, lanes := lanes, key := key, fab := fab, ctx := k.ctx, epoch := k.epoch,
    ast := (ctxOf b k.ctx).ast, kdata := kdata, mosaic := k.mosaic, body := body }

/-- Address, row bytes, rows and stride as body words. -/
def moveBody (addr : Nat) (s : Shape) : List Nat := words64 addr ++ [s.rowBytes, s.rows, s.stride]

/-- One descriptor of an access instruction for lane `l`: what checking it gives. -/
inductive Lane1 where
  | fail (st : Status)
  | issue (o : DdOwner) (d : Desc) (bytes : Nat)
deriving DecidableEq, Repr

/-- Shape slot of a LOAD or STORE. -/
def shapeAt (v : View) (w : Nat) : Shape := tget { rowBytes := 0, rows := 0, stride := 0 } v.pass.shapes (fld w 22 2)

/-- The checks of R190 and R341 on a LOAD or STORE of lane `l`, and its descriptor. -/
def moveLane (b : Block) (v : View) (w : Nat) (load : Bool) (handle eid lanes l : Nat) : Lane1 :=
  let s := shapeAt v w
  let a := (aReg v.pass l (fld w 54 4)).toNat
  let e := shapeEmpty s
  let f := footprint s a
  match footCheck v.bank (fld w 25 3) e f.1 f.2 with
  | some st => .fail st
  | none =>
    if tileBytes v.prog handle < s.rowBytes * s.rows then .fail .badLength else
    let lo := f.1.toNat
    let len := if e then 0 else (f.2 - f.1).toNat
    let bytes := s.rowBytes * s.rows
    if load then
      match loadKey b v.bank.ctx lo len with
      | .error st => .fail st
      | .ok key => .issue (.load l (hRegion handle) eid lanes)
          (passDesc b v.bank 1 lanes (laOf v.prog handle) key false (moveBody a s)) bytes
    else if sealedTouch b v.bank.ctx lo len then .fail .notPermitted
    else .issue (.store (hRegion handle) lanes)
      (passDesc b v.bank 2 lanes (laOf v.prog handle) none false (moveBody a s)) bytes

/-- Fabric address of scratch slot `i` of a mosaic slot (R156). -/
def scratchAddr (b : Block) (slot i : Nat) : Nat := (mosOf b slot).scratchBase + i * 131072

/-- The transfer of a whole tile between core-local memory and the piece's scratch slot (R189). -/
def slotLane (b : Block) (v : View) (load : Bool) (handle eid l : Nat) : Lane1 :=
  let i := match v.bank.lanes.find? (·.1 == l) with | some (_, p) => p.slotL | none => 0
  let n := tileBytes v.prog handle
  let s : Shape := { rowBytes := n, rows := 1, stride := 0 }
  let body := moveBody (scratchAddr b v.bank.slot i) s
  if load then .issue (.load l (hRegion handle) eid (2 ^ l))
    (passDesc b v.bank 1 (2 ^ l) (laOf v.prog handle) none true body) n
  else .issue (.store (hRegion handle) (2 ^ l))
    (passDesc b v.bank 2 (2 ^ l) (laOf v.prog handle) none true body) n

/-- The checks of R190 and R341 on an LDS of lane `l`, and its descriptor. -/
def ldsLane (b : Block) (v : View) (w l : Nat) : Lane1 :=
  let a := (aReg v.pass l (fld w 50 4)).toNat
  match footCheck v.bank (fld w 25 3) false (a : Int) ((a : Int) + 8) with
  | some st => .fail st
  | none =>
    if a % 8 ≠ 0 then .fail .badAlign
    else if sealedTouch b v.bank.ctx a 8 then .fail .notPermitted
    else .issue (.lds l (fld w 54 4)) (passDesc b v.bank 5 0 0 none false (words64 a ++ [0, 0, 0])) 8

/-- Count a descriptor of lanes `mask` in a scoreboard counter of region `r` (R184). -/
def bump (t : Table Nat) (mask r : Nat) : Table Nat :=
  (bitsOf mask 8).foldl (fun t l => tmod 0 t (64 * l + r) (· + 1)) t

/-- Uncount a descriptor of lanes `mask`. -/
def unbump (t : Table Nat) (mask r : Nat) : Table Nat :=
  (bitsOf mask 8).foldl (fun t l => tmod 0 t (64 * l + r) (· - 1)) t

/-- What a descriptor's issue counts in the pass. -/
def countOwner (o : DdOwner) (p : Pass) : Pass :=
  match o with
  | .load _ r _ lanes => { p with dw := bump p.dw lanes r }
  | .store r lanes => { p with dr := bump p.dr lanes r }
  | .lds l i => { p with lds := (16 * l + i) :: p.lds }
  | _ => p

/-- Issue the descriptors of the lanes still to come, each as its check allows and while the port has room; a failed
check fails the pass. The instruction has issued once every lane has (R195). -/
def issueLanes (n : Nat) (v : View) (mk : Block → Nat → Lane1) : List Nat → Block → Block
  | [], b => nextPc n false (modPass n (fun p => { p with rem := none }) b)
  | l :: ls, b =>
    if !ddRoom b { v with sq := seqrOf b n } then b else
    match mk b l with
    | .fail st => instrFail n false v st l b
    | .issue o d bytes =>
      match ddIssue n o d b with
      | none => b
      | some b =>
        let b := modPass n (fun p => countOwner o { p with rem := p.rem.map (fun x => (x.1, x.2.1, ls)) })
                  (bwTake v.bank.slot bytes b)
        issueLanes n v mk ls b

/-- Begin an access instruction: note its handle and entry and the lanes to come. -/
def beginLanes (n handle eid : Nat) (ls : List Nat) (b : Block) : Block :=
  modPass n (fun p => { p with rem := some (handle, eid, ls) }) b

/-- The instruction at hand with its handle, entry and remaining lanes: begun now by `start`, or earlier. -/
def startOr (n : Nat) (v : View) (start : Block → Nat × Nat × List Nat × Block) (b : Block) :
    Nat × Nat × List Nat × Block :=
  match v.pass.rem with
  | some (h, e, ls) => (h, e, ls, b)
  | none =>
    let x := start b
    (x.1, x.2.1, x.2.2.1, beginLanes n x.1 x.2.1 x.2.2.1 x.2.2.2)

/-- LOAD (R189). -/
def loadEff (n : Nat) (v : View) (w : Nat) (b : Block) : Block :=
  let r := fld w 44 6 + tget 0 v.pass.acc.c (fld w 28 3) % (fld w 31 3 + 1)
  let ls := lanesOf v.bank
  let bcast := bitOf w 24
  let x := startOr n v (fun b =>
    let h := at_ r 10 + fld w 34 10
    let ls := if bcast then ls.take 1 else ls
    (h, v.pass.nextEid, ls, modPass n (pushQ (fld w 50 4) h 0 0 ls.length) b)) b
  issueLanes n v (fun b l => moveLane b v w true x.1 x.2.1 (if bcast then laneMask v.bank else 2 ^ l) l) x.2.2.1 x.2.2.2

/-- STORE (R189). -/
def storeEff (n : Nat) (v : View) (w : Nat) (b : Block) : Block :=
  let q := fld w 50 4
  let x := startOr n v (fun b =>
    (match (queueQ v.pass q).head? with | some e => e.handle | none => 0, 0, lanesOf v.bank, modPass n (popQ q) b)) b
  issueLanes n v (fun b l => moveLane b v w false x.1 x.2.1 (2 ^ l) l) x.2.2.1 x.2.2.2

/-- SLD (R189). -/
def sldEff (n : Nat) (v : View) (w : Nat) (b : Block) : Block :=
  let ls := lanesOf v.bank
  let x := startOr n v (fun b =>
    let h := at_ (fld w 44 6) 10 + fld w 34 10
    (h, v.pass.nextEid, ls, modPass n (pushQ (fld w 50 4) h 0 0 ls.length) b)) b
  issueLanes n v (fun b l => slotLane b v true x.1 x.2.1 l) x.2.2.1 x.2.2.2

/-- SST (R189). -/
def sstEff (n : Nat) (v : View) (w : Nat) (b : Block) : Block :=
  let q := fld w 50 4
  let x := startOr n v (fun b =>
    (match (queueQ v.pass q).head? with | some e => e.handle | none => 0, 0, lanesOf v.bank, modPass n (popQ q) b)) b
  issueLanes n v (fun b l => slotLane b v false x.1 x.2.1 l) x.2.2.1 x.2.2.2

/-- LDS (R189). -/
def ldsEff (n : Nat) (v : View) (w : Nat) (b : Block) : Block :=
  let x := startOr n v (fun b => (0, 0, lanesOf v.bank, b)) b
  issueLanes n v (fun b l => ldsLane b v w l) x.2.2.1 x.2.2.2

end Sys2Proof.Machine
end

