-- ==== Sys2Proof/Machine/Execute.lean ====
section
/-! DEFINITION. The instructions of the execute stream (R191 to R194, R196, R197). -/

namespace Sys2Proof.Machine

/-- TSHAPE sets the tile shape (R191). -/
def tshapeEff (n : Nat) (_ : View) (w : Nat) (b : Block) : Block :=
  let s : TShape := { valid := true, tm := fld w 49 9, tn := fld w 40 9, tk := fld w 26 14, xq := fld w 22 4,
                      xen := bitOf w 21, imms := fld w 17 4, immen := bitOf w 16 }
  nextPc n true (modPass n (fun p => { p with ts := s }) b)

/-- POPS pops each lane's scalar queue into a register (R191). -/
def popsEff (n : Nat) (v : View) (w : Nat) (b : Block) : Block :=
  let ls := lanesOf v.bank
  let vs := ls.map (fun l => (l, (tget [] v.pass.sq l).headD 0))
  let pop (p : Pass) : Pass :=
    let p := setS true (fld w 54 4) vs p
    { p with sq := ls.foldl (fun t l => tmod [] t l (·.drop 1)) p.sq }
  nextPc n true (modPass n pop b)

/-- A TOP or SAMPLE with hint `h` has issued: in its hinted cycle, or as a slip in the cycle after its last wait cleared
(R196). -/
def hintedPc (n : Nat) (v : View) (h : Nat) (b : Block) : Block :=
  if h = 0 ∨ b.seq.hintEn = false then nextPc n true b else
  let t := v.pass.exe.lastIss + h
  let r := v.pass.exe.ready.getD b.time.seq
  let cyc := if r ≤ t then t else r + 1
  let b := modPass n (fun p => stepPc true (p.exe.pc + 1) cyc p) b
  if r ≤ t then b else
    modSeqr n (fun s => { s with slipEv := satAdd 32 s.slipEv 1, slipCyc := satAdd 32 s.slipCyc (cyc - t) }) b

/-- Put the operation that `mk` gives for each lane into the lanes' issue buffers. -/
def issueOps (n : Nat) (mk : Nat → LaneOp) : List Nat → Block → Block
  | [], b => b
  | l :: ls, b => issueOps n mk ls (issueOp n l (mk l) b)

/-- TOP: pops its handles, checks, issues one tile operation to every active lane and pushes its destination, lane-ready
at issue (R184, R192). -/
def topEff (n : Nat) (v : View) (w : Nat) (b : Block) : Block :=
  let t := topOf w
  let s := v.pass.ts
  match popAll v.bank (topPops t s) v.pass with
  | .error _ => b
  | .ok (es, p) =>
    let h := topHandles t s es
    match topCheck v t h with
    | some st => instrFail n true v st (lowLane v.bank) b
    | none =>
      let dst := topDest t h
      let pushed := if t.ed then dst else none
      let eid := p.nextEid
      let b := modPass n (fun _ => match pushed with
        | some d => pushQ t.qd d 255 0 0 p
        | none => p) b
      let la (x : Option Nat) : Option Nat := x.map (laOf v.prog)
      let mk (l : Nat) : LaneOp :=
        { data := opData t.topc t.fmtA t.fmtB t.fmtD (la h.a) (la h.b) (la h.c) (la dst) (la h.x) s t.opn t.cls 0 0
            (if s.immen then sReg v.pass.exe l s.imms else 0)
          regions := regionsOf (h.a.toList ++ h.b.toList ++ h.c.toList ++ dst.toList ++ h.x.toList)
          out := pushed.map (fun _ => (t.qd, eid)) }
      hintedPc n v t.hint (issueOps n mk (lanesOf v.bank) b)

/-- SAMPLE: one SAMPLE operation to every active lane, IMM holding the generator value (R194, R222, R223). -/
def sampleEff (n : Nat) (v : View) (w : Nat) (b : Block) : Block :=
  let s := v.pass.ts
  let st := v.pass.exe
  let sseq := fld w 54 4
  let spos := fld w 50 4
  match popAll v.bank (fld w 46 4 :: (if s.xen then [s.xq] else [])) v.pass with
  | .error _ => b
  | .ok (es, p) =>
    let bad (l : Nat) : Bool := decide (2 ^ 17 ≤ (sReg st l sseq).toNat) || decide (2 ^ 40 ≤ (sReg st l spos).toNat)
    match (lanesOf v.bank).find? bad with
    | some l => instrFail n true v .badParam l b
    | none =>
      if !s.valid || s.tm != 1 || s.tk == 0 then instrFail n true v .badParam (lowLane v.bank) b
      else
        let hs := es.map (·.handle)
        let x := if s.xen then hs[1]? else none
        let key := turnKey b v.bank
        let b := modPass n (fun _ => p) b
        let mk (l : Nat) : LaneOp :=
          let q := (sReg st l sseq).toNat
          { data := opData 0x07 (fld w 41 5) 0 0 (hs.head?.map (laOf v.prog)) none none none (x.map (laOf v.prog)) s
              false false (fld q 14 3) (fld q 0 14) (genValue key (fld q 0 14) (fld q 14 3) (sReg st l spos).toNat)
            regions := regionsOf (hs.take 1 ++ x.toList)
            out := none }
        hintedPc n v (fld w 0 10) (issueOps n mk (lanesOf v.bank) b)

end Sys2Proof.Machine
end

