-- ==== Sys2Proof/Machine/Offer.lean ====
section
/-! DEFINITION. Which operations SCH offers to DSP: boards, squares, entitlement, the pool's order (R311 to R319). -/

namespace Sys2Proof.Machine

/-! ### Squares (R312) -/

/-- A square's KIND is RT. -/
def sqRt (w : Nat) : Bool := fld w 30 2 == 2

/-- Duration of a square in CLK_HUB cycles. -/
def sqCycles (w : Nat) : Nat := 64 * fld w 0 16

/-- The current square of slot `k`. -/
def squareNow (b : Block) (k : Nat) : Nat := (schOf b k).board.getD (schOf b k).square 0

/-- The owner of the current square when it is RT and does not act as POOL (R315). -/
def rtOwner (b : Block) (k : Nat) : Option Nat :=
  let w := squareNow b k
  if sqRt w && !(schOf b k).asPool.contains (schOf b k).square then some (fld w 16 8) else none

/-! ### Work left to place -/

/-- A tile has a piece left to place: its EPILOGUE, or the addition of a collective, whose tile has no EPILOGUE. -/
def tileLeft (t : Tile) : Bool := !t.epi || (decide (2 ≤ t.vals.length) && t.busy.isEmpty)

/-- A job has a piece or chunk left to place. -/
def jobLeft (j : Job) : Bool :=
  !j.aborted && (!j.back.isEmpty || decide (j.next < j.total) || j.tiles.any tileLeft)

/-- Operation `o` is released on slot `k` with a piece or chunk left to place. -/
def opLeft (b : Block) (k : Nat) (o : Op) : Bool :=
  o.slot == k && o.stage == .released && (match jobOf b o.oid with | some j => jobLeft j | none => false)

/-- Insert an operation in release order. -/
def insRel (o : Op) : List Op → List Op
  | [] => [o]
  | x :: xs => if o.relNo < x.relNo then o :: x :: xs else x :: insRel o xs

/-- Operations in release order. -/
def byRelease (l : List Op) : List Op := l.foldr insRel []

/-- The operations of queue `q` with work left on slot `k`, in release order. -/
def workOfQueue (b : Block) (k q : Nat) : List Op := byRelease (b.dep.ops.filter (fun o => o.q == q && opLeft b k o))

/-- The operations of Q1 to Q5 of context `c` with work left on slot `k`, Q1 first (R316). -/
def poolWork (b : Block) (k c : Nat) : List Op := ((List.range 5).map (fun i => workOfQueue b k (6 * c + i + 1))).flatten

/-- SCH withholds this cycle of the current RT square (R320). -/
def withheld (b : Block) (k : Nat) : Bool := decide (hubNow b < (schOf b k).start + (schOf b k).held)

/-- The current RT square is lent: its owner's Q0 has nothing left to place, or SCH withholds the cycle (R316, R320). -/
def lent (b : Block) (k : Nat) : Bool :=
  match rtOwner b k with
  | none => false
  | some c => withheld b k || (workOfQueue b k (6 * c)).isEmpty

/-- The pool is entitled now: a POOL square, or a lent RT square. -/
def poolTime (b : Block) (k : Nat) : Bool := (rtOwner b k).isNone || lent b k

/-! ### The active list (R317) -/

/-- Context `c` belongs on the active list of slot `k`: it has entitled operations with work left. -/
def inPool (b : Block) (k c : Nat) : Bool := poolTime b k && slotOpen b c k && !(poolWork b k c).isEmpty

/-- The release number of the first operation of context `c` with work left for the pool of slot `k`. -/
def firstRel (b : Block) (k c : Nat) : Nat := ((byRelease (poolWork b k c)).head?.map (·.relNo)).getD 0

/-- The active list brought up to date: those with work stay in order, others leave, newcomers join at the tail. Contexts that
join in one cycle join in the order in which their work was released (DESIGN CHOICE, log entry 49). -/
def activeNow (b : Block) (k : Nat) : List Nat :=
  let old := (schOf b k).active.filter (inPool b k)
  let new := (List.range (nContexts b)).filter (fun c => inPool b k c && !old.contains c)
  old ++ new.mergeSort (fun x y => decide (firstRel b k x ≤ firstRel b k y))

/-- The order in which the pool's contexts are offered: those with a share from the head on, then those with none. -/
def poolOrder (b : Block) (k : Nat) : List Nat :=
  let l := activeNow b k
  l.filter (fun c => (schCtx b c).share != 0) ++ l.filter (fun c => (schCtx b c).share == 0)

/-- Context `c` is entitled on slot `k` through queue `q` now (R316). -/
def entitled (b : Block) (k q : Nat) : Bool :=
  let c := ctxOfQueue q
  if classOf q = 0 then rtOwner b k == some c && !withheld b k
  else poolTime b k && slotOpen b c k

/-! ### Spans (R319) -/

/-- The span that an operation belongs to: its section, or itself when ATOMIC. -/
def spanKey (o : Op) : Option (Option Nat × Option Nat) :=
  match o.sect with
  | some s => some (none, some s)
  | none => if o.pkt.atomic then some (some o.oid, none) else none

/-- A span is the one that operation `o` belongs to. -/
def spanOf (o : Op) (s : Span) : Bool :=
  s.q == o.q && s.sid == o.sid && s.inst == o.inst && spanKey o == some (s.oid, s.sect)

/-- The operation belongs to a span that has started. -/
def spanStarted (b : Block) (o : Op) : Bool := b.sch.spans.any (spanOf o)

/-- Start the span of an operation whose first piece or chunk is placed. -/
def startSpan (o : Op) (b : Block) : Block :=
  match spanKey o with
  | none => b
  | some (i, s) =>
    if spanStarted b o then b else
    let x : Span := { q := o.q, sid := o.sid, inst := o.inst, slot := o.slot, oid := i, sect := s, cyc := 0 }
    { b with sch := { b.sch with spans := b.sch.spans ++ [x] } }

/-! ### Offers (R316) -/

/-- Slot `k` lets DSP place: its board runs, no partition reset, no hold for migration (R289, R313, R367). -/
def slotPlaces (b : Block) (k : Nat) : Bool :=
  (schOf b k).running && !(mosOf b k).held && !resetting b k

/-- The operations SCH offers on slot `k`, in its order; spans already started come after them when their context is
not entitled (R316, R319). -/
def offers (b : Block) (k : Nat) : List Op :=
  if !slotPlaces b k then [] else
  let ent := match rtOwner b k with
    | some c => if lent b k then ((poolOrder b k).map (poolWork b k)).flatten else workOfQueue b k (6 * c)
    | none => ((poolOrder b k).map (poolWork b k)).flatten
  ent ++ byRelease (b.dep.ops.filter (fun o => opLeft b k o && spanStarted b o && !(ent.any (·.oid == o.oid))))

/-- The offers of every slot, slots ascending. -/
def allOffers (b : Block) : List Op := ((List.range 64).map (offers b)).flatten

end Sys2Proof.Machine
end

