-- ==== Sys2Proof/Machine/Place.lean ====
section
/-! DEFINITION. DSP: placement and launch descriptors, the bond-order tree, passes from bank transfer to pass end report,
withdrawal, core faults (R147 to R161, R165, R173, R181, R199, R200, R215). -/

namespace Sys2Proof.Machine

/-! ### The bond-order tree (R215) -/

/-- A node of the tree over bricks `[lo, lo + n)`: left part `h`, and its number. -/
structure Node where
  lo  : Nat
  n   : Nat
  h   : Nat
  num : Nat
deriving DecidableEq, Repr

/-- Largest power of two below `n`. -/
def splitAt2 (n : Nat) : Nat := 2 ^ (clog2 n - 1)

/-- The parent of the subtree of `m` bricks at `x`, sought below the node over `[lo, lo + n)` whose first created node
would be number `base`. -/
def parentOf (x m : Nat) : Nat → Nat → Nat → Nat → Option Node
  | 0, _, _, _ => none
  | fuel + 1, lo, n, base =>
    if n ≤ m then none else
    let h := splitAt2 n
    if (x = lo ∧ m = h) ∨ (x = lo + h ∧ m = n - h) then some { lo := lo, n := n, h := h, num := base + n - 2 }
    else if x < lo + h then parentOf x m fuel lo h base
    else parentOf x m fuel (lo + h) (n - h) (base + h - 1)

/-- The nodes of a tile of `bricks` whose two children are complete and that are not placed, by number (R159). -/
def readyNodes (t : Tile) (bricks : Nat) : List Node :=
  let ns := t.vals.filterMap (fun v => match parentOf v.1 v.2 64 0 bricks 0 with
    | some p => if p.lo == v.1 && v.2 == p.h && tget 0 t.vals (p.lo + p.h) == p.n - p.h && !t.busy.contains p.num then
        some p else none
    | none => none)
  ns.mergeSort (fun a b => decide (a.num ≤ b.num))

/-! ### Ready and next pieces -/

/-- The ready COMBINE and EPILOGUE pieces of a tile. -/
def readyTile (oid bricks : Nat) (t : Tile) : List Piece :=
  (readyNodes t bricks).map (fun p => { oid := oid, role := .combine, tile := t.t, brick := p.lo, node := p.num,
                                        slotL := tget 0 t.slotOf p.lo, slotR := tget 0 t.slotOf (p.lo + p.h) })
  ++ (if tget 0 t.vals 0 == bricks && !t.epi then
        [{ oid := oid, role := .epilogue, tile := t.t, brick := 0, node := bricks - 1, slotL := tget 0 t.slotOf 0,
           slotR := 0 }]
      else [])

/-- The ready COMBINE and EPILOGUE pieces of a job, tiles and nodes ascending (R152). -/
def readyOf (j : Job) : List Piece :=
  if j.aborted then [] else
  ((j.tiles.mergeSort (fun a b => decide (a.t ≤ b.t))).map (readyTile j.oid j.bricks)).flatten

/-- Change tile `t` of operation `oid`. -/
def modTile (oid t : Nat) (f : Tile → Tile) (b : Block) : Block :=
  modJob oid (fun j => { j with tiles := modFirst (·.t == t) f j.tiles }) b

/-- Slots of a mosaic slot's scratch that no tile holds, ascending. -/
def freeSlots (b : Block) (k : Nat) : List Nat :=
  (List.range (mosOf b k).scratchSlots).filter (fun i => !(tget [] b.dsp.scratch k).contains i)

/-- Reserve the slots of tile `t` (R157); none while too few are free. The lowest-numbered free slots are reserved and taken in
ascending order (DESIGN CHOICE, log entry 47). -/
def reserveTile (o : Op) (j : Job) (t : Nat) (b : Block) : Option Block :=
  let n := tileSlots j.bricks
  let sl := (freeSlots b o.slot).take n
  if sl.length < n then none else
  let x : Tile := { t := t, all := sl, free := sl, slotOf := [], vals := [], low := 0, above := [], busy := [],
                    epi := false }
  let sc := tmod [] b.dsp.scratch o.slot (· ++ sl)
  some (modJob o.oid (fun j => { j with tiles := j.tiles ++ [x] }) { b with dsp := { b.dsp with scratch := sc } })

/-- Two pieces are the same work. -/
def samePiece (p q : Piece) : Bool := p.role == q.role && p.tile == q.tile && p.brick == q.brick && p.node == q.node

/-- Core `c` has returned FAULT for the piece: it is placed again on another core (R165). -/
def barred (j : Job) (p : Piece) (c : Nat) : Bool := j.faulted.any (fun x => samePiece x.1 p && x.2 == c)

/-- Count the placing of a piece that a core has returned with FAULT (R165); one that is withdrawn afterwards and placed once more
counts again (DESIGN CHOICE, log entry 47). -/
def countAgain (j : Job) (p : Piece) (b : Block) : Block :=
  if j.faulted.any (fun x => samePiece x.1 p) then
    { b with dsp := { b.dsp with redispatch := satAdd 32 b.dsp.redispatch 1 } }
  else b

/-- Take the next PARTIAL or WHOLE piece, or chunk, of an operation: one to be placed again first, then the next index,
with its tile's reservation and the bound of R157. A LAUNCH with NONDET is divided and combined by R147 and R159 like any
other: of what R148 allows it the model takes none (DESIGN CHOICE, log entry 47). -/
def takePiece (o : Op) (b : Block) : Option (Piece × Block) :=
  match jobOf b o.oid with
  | none => none
  | some j =>
    if j.aborted then none else
    match j.back with
    | p :: ps => some (p, countAgain j p (modJob o.oid (fun j => { j with back := ps }) b))
    | [] =>
      if j.total ≤ j.next then none
      else if j.bricks ≤ 1 ∨ j.chunks = true then
        let p : Piece := { oid := o.oid, role := .whole, tile := j.next, brick := 0, node := 0, slotL := 0, slotR := 0 }
        some (p, modJob o.oid (fun j => { j with next := j.next + 1 }) b)
      else
        let t := j.next / j.bricks
        let k := j.next % j.bricks
        let b? := if j.tiles.any (·.t == t) then some b else reserveTile o j t b
        match b? with
        | none => none
        | some b =>
          match (jobOf b o.oid).bind (fun j => j.tiles.find? (·.t == t)) with
          | none => none
          | some x =>
            match x.free with
            | [] => none
            | s :: fs =>
              if x.low + 16 ≤ k then none else
              let b := modTile o.oid t (fun x => { x with free := fs, slotOf := tinsert k s (terase x.slotOf k) }) b
              let p : Piece := { oid := o.oid, role := .partialR, tile := t, brick := k, node := 0, slotL := s,
                                 slotR := 0 }
              some (p, modJob o.oid (fun j => { j with next := j.next + 1 }) b)

/-! ### Where a piece may go (R150) -/

/-- A core is eligible for an operation on slot `k`: its tessera, not failed, not being unbound, its domain ON. -/
def eligible (b : Block) (k core : Nat) : Bool :=
  bitOf (mosOf b k).cores core && !(coreOf b core).failed && !(coreOf b core).unbinding && seqUp b (core / 8)

/-- A sequencer has no pass running, by what DSP knows, and none about to start. -/
def seqIdle (s : Seqr) : Bool := (banksOf s).isEmpty && s.shadow.isNone

/-- A core is free. -/
def coreFree (b : Block) (core : Nat) : Bool :=
  (coreOf b core).active.isNone && (coreOf b core).next.isNone && seqIdle (seqrOf b (core / 8))

/-- A sequencer has a pass running, by what DSP knows: an ended one counts until its report (R150). -/
def seqRuns (s : Seqr) : Bool := s.pass.isSome || !s.reports.isEmpty

/-- A core is preloadable for a launch and role. -/
def corePre (b : Block) (oid : Nat) (role : Role) (core : Nat) : Bool :=
  let s := seqrOf b (core / 8)
  seqRuns s && (coreOf b core).next.isNone &&
  (match s.shadow with
   | none => true
   | some k => k.oid == oid && k.role == role && k.chunk.isNone)

/-- A core returned FAULT for piece `p` of operation `oid` (R165). -/
def barredOf (b : Block) (oid : Nat) (p : Piece) (c : Nat) : Bool :=
  match jobOf b oid with
  | some j => barred j p c
  | none => false

/-- The core that R150 gives a piece of an operation: the lowest-numbered free one, else the lowest-numbered preloadable one, of
those that are not among `used` and have not returned FAULT for the piece. -/
def coreFor (b : Block) (o : Op) (used : List Nat) (p : Piece) : Option Nat :=
  let ok (c : Nat) : Bool := eligible b o.slot c && !used.contains c && !barredOf b o.oid p c
  match firstBelow (nCores b) (fun c => ok c && coreFree b c) with
  | some c => some c
  | none => firstBelow (nCores b) (fun c => ok c && corePre b o.oid p.role c)

/-- The sequencer that takes a chunk: the lowest whose eight cores are all eligible and free, else the lowest whose eight
cores are all eligible and preloadable (R149, R150). -/
def chunkTarget (b : Block) (slot : Nat) : Option Nat :=
  let eight (n : Nat) (p : Nat → Bool) : Bool := (List.range 8).all (fun i => eligible b slot (8 * n + i) && p (8 * n + i))
  let ns := List.range (nSeqrs b)
  match ns.find? (fun n => eight n (coreFree b)) with
  | some n => some n
  | none => ns.find? (fun n => seqRuns (seqrOf b n) && (seqrOf b n).shadow.isNone
      && eight n (fun x => (coreOf b x).next.isNone))

/-! ### Banks (R154) -/

/-- The launch of an operation, all zero for a chunk; the additions of a COLLECTIVE have the class of its format (R308). -/
def launchOf (o : Op) : LaunchB :=
  match o.pkt.body with
  | .launch l => l
  | .collective _ fmt _ _ _ _ _ =>
    { fclass := if fmt = 0x0F ∨ fmt = 0x11 then 4 else 1, k := 0, gridM := 0, gridN := 1, progAddr := 0, progLen := 0,
      ops := [], args := [] }
  | _ => { fclass := 0, k := 0, gridM := 0, gridN := 1, progAddr := 0, progLen := 0, ops := [], args := [] }

/-- The active bank of a sequencer, if it holds the launch and role: the next pass on it needs no new contents (R154,
R155). -/
def sameBank (b : Block) (o : Op) (role : Role) (n : Nat) : Option Bank :=
  (seqrOf b n).active.filter (fun k => k.oid == o.oid && k.role == role && k.chunk.isNone)

/-- A bank for an operation, holding no lane: the contents of the active bank where it holds the launch and role, complete
at once, and with its epoch; else new contents to be transferred, with the epoch that is current. -/
def newBank (b : Block) (o : Op) (role : Role) (n : Nat) : Bank :=
  let l := launchOf o
  match sameBank b o role n with
  | some k => { k with lanes := [], ready := true }
  | none =>
    { oid := o.oid, ctx := o.ctx, q := o.q, slot := o.slot, mosaic := (mosOf b o.slot).id, epoch := b.fab.epoch,
      turn := o.inst, role := role, chunk := none, bricks := bricksOf l, brickLen := brickLen l.fclass, launch := l,
      lanes := [], ready := false, gen := none }

/-- Deliver pieces to the shadow bank of sequencer `n`, one to each core of the list (R151, R154). -/
def putPieces (o : Op) (role : Role) (n : Nat) (ps : List (Nat × Piece)) (b : Block) : Block :=
  let k := ((seqrOf b n).shadow).getD (newBank b o role n)
  let k := { k with lanes := (k.lanes ++ ps.map (fun (x : Nat × Piece) => (x.1 % 8, x.2))).mergeSort (fun (a b : Nat × Piece) => decide (a.1 ≤ b.1)),
                    ready := (sameBank b o role n).isSome }
  let b := modSeqr n (fun s => { s with shadow := some k }) b
  let b := ps.foldl (fun b x => modCore x.1 (fun c => { c with next := some x.2 }) b) b
  progress o.q (startSpan o b)

/-- The pieces of one descriptor for sequencer `n`, `fuel` at most: the next pieces of an operation with the cores that R150 gives
them, as long as those lie in the sequencer (R151). A piece barred from a core leaves it to the next one, which then stands on
the lower lane (DEDUCED, log entry 47). -/
def takePieces (o : Op) (n : Nat) : Nat → List Nat → Block → List (Nat × Piece) × Block
  | 0, _, b => ([], b)
  | fuel + 1, used, b =>
    match takePiece o b with
    | none => ([], b)
    | some (p, b') =>
      match (coreFor b o used p).filter (fun c => c / 8 == n) with
      | none => ([], b)
      | some c =>
        let r := takePieces o n fuel (c :: used) b'
        ((c, p) :: r.1, r.2)

/-- The same for ready COMBINE or EPILOGUE pieces. -/
def pairPieces (b : Block) (o : Op) (n : Nat) : List Nat → List Piece → List (Nat × Piece)
  | _, [] => []
  | used, p :: ps =>
    match (coreFor b o used p).filter (fun c => c / 8 == n) with
    | none => []
    | some c => (c, p) :: pairPieces b o n (c :: used) ps

/-- One descriptor of PARTIAL or WHOLE pieces, or one chunk, of an operation; none where its next cannot be placed. -/
def placeNext (o : Op) (b : Block) : Option Block :=
  match jobOf b o.oid with
  | none => none
  | some j =>
    if j.chunks then
      match chunkTarget b o.slot with
      | none => none
      | some n =>
        match takePiece o b with
        | none => none
        | some (p, b) =>
          let at1 := match o.pkt.body with
            | .copy len _ dst => chunkAt dst len p.tile
            | .fill _ len dst _ => chunkAt dst len p.tile
            | _ => (0, 0)
          let k := { newBank b o .whole n with chunk := some (p.tile, at1.1, at1.2) }
          some (progress o.q (startSpan o (modSeqr n (fun s => { s with shadow := some k }) b)))
    else
      let role : Role := if j.bricks ≤ 1 then .whole else .partialR
      match (takePiece o b).bind (fun x => coreFor b o [] x.1) with
      | none => none
      | some c =>
        match takePieces o (c / 8) 8 [] b with
        | ([], _) => none
        | (ps, b) => some (putPieces o role (c / 8) ps b)

/-- Mark a ready piece as placed. -/
def markPlaced (p : Piece) (b : Block) : Block :=
  modTile p.oid p.tile (fun t => if p.role == .combine then { t with busy := p.node :: t.busy } else { t with epi := true }) b

/-- One descriptor of the ready COMBINE or EPILOGUE pieces of an operation. -/
def placeReady (o : Op) (b : Block) : Option Block :=
  match jobOf b o.oid with
  | none => none
  | some j =>
    match readyOf j with
    | [] => none
    | p :: ps =>
      match coreFor b o [] p with
      | none => none
      | some c =>
        let pairs := pairPieces b o (c / 8) [] ((p :: ps).takeWhile (·.role == p.role))
        some (putPieces o p.role (c / 8) pairs (pairs.foldl (fun b x => countAgain j x.2 (markPlaced x.2 b)) b))

/-- The lowest-numbered core of an operation's mosaic that would be eligible were its sequencer group ON (R387). -/
def sleepingCore (b : Block) (o : Op) : Option Nat :=
  firstBelow (nCores b) (fun k =>
    bitOf (mosOf b o.slot).cores k && !(coreOf b k).failed && !(coreOf b k).unbinding && !seqUp b (k / 8))

/-- The next piece or chunk of an operation, or one that is ready, finds no core that is free or preloadable. -/
def pieceWaits (b : Block) (o : Op) : Bool :=
  match jobOf b o.oid with
  | none => false
  | some j =>
    (match readyOf j with
     | p :: _ => (coreFor b o [] p).isNone
     | [] => false)
    || (match takePiece o b with
        | some x => if j.chunks then (chunkTarget b o.slot).isNone else (coreFor b o [] x.1).isNone
        | none => false)

/-- The pieces and chunks that wait on slot `k` raise the PLACE wake of the group they are aimed at, in the cycle in which they
first wait, whether or not descriptors are held (R387). -/
def placeWake (k : Nat) (b : Block) : Block :=
  (offers b k).foldl (fun b o =>
    if pieceWaits b o then
      (match sleepingCore b o with
       | some c => wakeSeq (c / 8) b
       | none => b)
    else b) b

/-- DESCRIPTOR_ISSUE: the descriptor that R152 chooses. None is issued during an emergency or while the governor holds
launches (R391, R392). -/
def descriptorIssue (b : Block) : Block :=
  if b.pwr.emerg.active || b.pwr.dvfs.hold then b else
  let os := allOffers b
  match (byRelease os).findSome? (fun o => placeReady o b) with
  | some b => b
  | none => (os.findSome? (fun o => placeNext o b)).getD b

/-! ### Withdrawal (R153, R160) -/

/-- Insert a piece among those to be placed again, by index. -/
def insBack (bricks : Nat) (p : Piece) : List Piece → List Piece
  | [] => [p]
  | x :: xs => if p.tile * bricks + p.brick < x.tile * bricks + x.brick then p :: x :: xs else x :: insBack bricks p xs

/-- A piece returns to its operation's unplaced set. -/
def unplace (p : Piece) (b : Block) : Block :=
  match p.role with
  | .combine => modTile p.oid p.tile (fun t => { t with busy := t.busy.filter (· != p.node) }) b
  | .epilogue => modTile p.oid p.tile (fun t => { t with epi := false }) b
  | _ => modJob p.oid (fun j => { j with back := insBack j.bricks p j.back }) b

/-- The shadow bank of core `core`'s sequencer holds a piece for it. -/
def preloaded (b : Block) (core : Nat) : Bool :=
  match (seqrOf b (core / 8)).shadow with
  | some k => k.lanes.any (·.1 == core % 8)
  | none => false

/-- Withdraw what core `core` has preloaded, and its lane of the shadow bank; a bank left with no piece is cleared. -/
def withdrawCore (core : Nat) (b : Block) : Block :=
  match (coreOf b core).next with
  | none => b
  | some p =>
    if !preloaded b core then b else
    let n := core / 8
    let b := unplace p (modCore core (fun c => { c with next := none }) b)
    modSeqr n (fun s => match s.shadow with
      | some k =>
        let ls := k.lanes.filter (·.1 != core % 8)
        dropStale { s with shadow := if ls.isEmpty && k.chunk.isNone then none else some { k with lanes := ls } }
      | none => s) b

/-- Withdraw the chunk preloaded on sequencer `n`. -/
def withdrawChunk (n : Nat) (b : Block) : Block :=
  match (seqrOf b n).shadow with
  | some k =>
    match k.chunk with
    | some (i, _, _) =>
      let p : Piece := { oid := k.oid, role := .whole, tile := i, brick := 0, node := 0, slotL := 0, slotR := 0 }
      unplace p (modSeqr n (fun s => dropStale { s with shadow := none }) b)
    | none => b
  | none => b

/-- An operation may be withdrawn between pieces: not ATOMIC, not in a section (R160). -/
def preemptible (o : Op) : Bool := !o.pkt.atomic && o.sect.isNone

/-- Withdraw every preloaded piece and chunk of the operations that satisfy `p`. -/
def withdrawAll (p : Op → Bool) (b : Block) : Block :=
  let sel (oid : Nat) : Bool := match opOf b oid with | some o => p o | none => false
  let cores := (b.dsp.cores.filter (fun e => match e.2.next with | some x => sel x.oid | none => false)).map (·.1)
  let seqs := (b.seq.seqrs.filter (fun e => match e.2.shadow with
    | some k => k.chunk.isSome && sel k.oid | none => false)).map (·.1)
  seqs.foldl (fun b n => withdrawChunk n b) (cores.foldl (fun b c => withdrawCore c b) b)

/-- Core `c` is being unbound and holds no piece, nor does its sequencer hold a chunk. -/
def mayLeave (b : Block) (c : Nat) (r : CoreRec) : Bool :=
  let s := seqrOf b (c / 8)
  r.unbinding && r.active.isNone && r.next.isNone && !((banksOf s ++ s.shadow.toList).any (·.chunk.isSome))

/-- The cores being unbound that satisfy `p` and may leave their mosaic leave it (R153). -/
def leaveCores (p : Nat → Bool) (b : Block) : Block :=
  let gone := (b.dsp.cores.filter (fun e => p e.1 && mayLeave b e.1 e.2)).map (·.1)
  let b := gone.foldl (fun b c => modCore c (fun x => { x with unbinding := false }) b) b
  { b with fab := { b.fab with slots := tmap mosZero b.fab.slots (fun _ m =>
      { m with cores := gone.foldl clrBit m.cores }) } }

/-! ### Passes (R155, R173, R181) -/

/-- A bank's program is resident, or it needs none. -/
def bankRuns (s : Seqr) (k : Bank) : Bool := k.role == .combine || k.chunk.isSome || (progOf s k).isSome

/-- A sequencer's active bank is free for another: there is none, or its pass has ended (R155). -/
def bankFree (s : Seqr) : Bool := s.active.isNone || s.pass.any (·.ended)

/-- The cores of a bank's lanes hold its pieces, by what DSP knows. -/
def coresTake (n : Nat) (k : Bank) (b : Block) : Block :=
  k.lanes.foldl (fun b l => modCore (8 * n + l.1) (fun c => { c with active := c.next, next := none }) b) b

/-- Swap the banks of a sequencer whose shadow bank is complete and can run, once no pass is running (R155). DSP follows at
the report of the pass before, if that is still to come. -/
def swapBank (n : Nat) (b : Block) : Block :=
  let s := seqrOf b n
  match s.shadow with
  | some k =>
    if bankFree s && k.ready && bankRuns s k then
      let b := modSeqr n (fun s => dropStale { s with active := some k, shadow := none, pass := none }) b
      if s.reports.isEmpty then coresTake n k b else b
    else b
  | none => b

/-- BANK_TRANSFER_COMPLETE: the shadow bank is complete; the banks swap where nothing holds them. -/
def bankTransfer (n : Nat) (b : Block) : Block :=
  swapBank n (modSeqr n (fun s => { s with shadow := s.shadow.map (fun k => { k with ready := true }) }) b)

/-- A stream before its first instruction. -/
def streamZero : Stream := { pc := 0, ended := false, s := [], c := [], levels := [], lastIss := 0, ready := none }

/-- A pass as it starts: every register, counter, queue and readiness bit zero (R173). -/
def passZero (kind : PassKind) (now : Nat) : Pass :=
  { kind := kind, acc := { streamZero with lastIss := now }, exe := { streamZero with lastIss := now }, a := [],
    inc := [], shapes := [],
    ts := { valid := false, tm := 0, tn := 0, tk := 0, xq := 0, xen := false, imms := 0, immen := false },
    qs := [], sq := [], dw := [], dr := [], ct := [], lds := [], rem := none, nextEid := 0, cstep := [], jam := 0,
    fail := none, abort := false, ended := false, laneSt := [] }

/-- What kind of pass a bank runs. -/
def passKind (k : Bank) : PassKind := if k.chunk.isSome then .chunk else if k.role == .combine then .combine else .program

/-- PASS_START: the pass of the active bank starts. -/
def passStart (n : Nat) (b : Block) : Block :=
  let b := swapBank n b
  let s := seqrOf b n
  match s.active, s.pass with
  | some k, none =>
    let touch (p : Prog) : Prog :=
      if bankProg k p then { p with lastUse := b.time.root + 1 } else p
    modSeqr n (fun s => { s with pass := some (passZero (passKind k) b.time.seq), progs := s.progs.map touch }) b
  | _, _ => b

/-- Every lane of a pass has given its acknowledgement or reached its bound (R161, R167). -/
def lanesQuiet (s : Seqr) (k : Bank) : Bool :=
  (lanesOf k).all (fun l => (!(laneOf s l).abReq && !(laneOf s l).reraise) || (laneOf s l).expired)

/-- No tile operation waits or is outstanding on a lane of the pass. -/
def lanesDone (s : Seqr) (k : Bank) : Bool :=
  (lanesOf k).all (fun l => (laneOf s l).buf.isEmpty && (laneOf s l).out.isEmpty)

/-- A data queue, or the scalar queue of an active lane, holds an entry (R181). -/
def queueLeft (k : Bank) (p : Pass) : Bool :=
  !p.qs.isEmpty || (lanesOf k).any (fun l => !(tget [] p.sq l).isEmpty)

/-- The pass of bank `k` has ended: its report goes to DSP, its count rises, and its descriptors still outstanding keep only
their operation. The sequencer may go on with its shadow bank at once (R155). -/
def endPass (n : Nat) (b : Block) : Block :=
  match (seqrOf b n).active, (seqrOf b n).pass with
  | some k, some p =>
    let r : PassReport := { bank := k, lanes := p.laneSt, fail := p.fail, abort := p.abort }
    let orphan (u : DdUse) : DdUse := if u.owner.ofPass then { u with owner := .orphan k.oid } else u
    modSeqr n (fun s => { s with
      pass := some { p with ended := true }, reports := s.reports ++ [r], passes := satAdd 32 s.passes 1,
      dd := tmap none s.dd (fun _ u => u.map orphan) }) b
  | _, _ => b

/-- PASS_END (R181, R199, R200). -/
def passEnd (n : Nat) (b : Block) : Block :=
  let s := seqrOf b n
  match s.active, s.pass with
  | some k, some p =>
    if p.ended then b
    else if p.fail.isSome || p.abort then (if lanesQuiet s k then endPass n b else b)
    else match p.kind with
      | .program =>
        if p.acc.ended && p.exe.ended && p.rem.isNone && passTags s == 0 && lanesDone s k then
          if queueLeft k p then passFail n .badState false (lowLane k) p.acc.pc b else endPass n b
        else b
      | .combine => if (lanesOf k).all (fun l => tget 0 p.cstep l == 7) && lanesDone s k then endPass n b else b
      | .chunk => if tget 0 p.cstep 0 == 1 && passTags s == 0 then endPass n b else b
  | _, _ => b

/-! ### The pass end report (R157, R159, R165) -/

/-- Complete a job whose last tile or chunk is complete. -/
def jobCheck (oid : Nat) (b : Block) : Block :=
  match jobOf b oid with
  | none => b
  | some j =>
    let want := if j.chunks || decide (j.bricks ≤ 1) then j.total else j.total / j.bricks
    if j.aborted || decide (j.done < want) then b
    else completeOp oid { b with dsp := { b.dsp with jobs := b.dsp.jobs.filter (·.oid != oid) } }

/-- The bricks above `low` that are complete move it up. -/
def liftLow : Nat → Nat → List Nat → Nat × List Nat
  | 0, low, l => (low, l)
  | fuel + 1, low, l => if l.contains low then liftLow fuel (low + 1) (l.filter (· != low)) else (low, l)

/-- A PARTIAL piece of a tile is complete. -/
def partDone (brick : Nat) (t : Tile) : Tile :=
  let r := liftLow (t.above.length + 1) t.low (brick :: t.above)
  { t with vals := tinsert brick 1 (terase t.vals brick), low := r.1, above := r.2 }

/-- A COMBINE piece of a tile is complete: its right child's slot is free (R159). -/
def combDone (bricks : Nat) (p : Piece) (t : Tile) : Tile :=
  match parentOf p.brick (tget 0 t.vals p.brick) 64 0 bricks 0 with
  | none => t
  | some x =>
    { t with vals := tinsert x.lo x.n (terase (terase t.vals (x.lo + x.h)) x.lo),
             slotOf := terase t.slotOf (x.lo + x.h), busy := t.busy.filter (· != p.node),
             free := (p.slotR :: t.free).mergeSort (fun a b => decide (a ≤ b)) }

/-- A piece is complete. -/
def pieceDone (p : Piece) (b : Block) : Block :=
  match jobOf b p.oid, opOf b p.oid with
  | some j, some o =>
    match p.role with
    | .whole => jobCheck p.oid (modJob p.oid (fun j => { j with done := j.done + 1 }) b)
    | .partialR => modTile p.oid p.tile (partDone p.brick) b
    | .combine => modTile p.oid p.tile (combDone j.bricks p) b
    | .epilogue =>
      let sl := match j.tiles.find? (·.t == p.tile) with | some t => t.all | none => []
      let b := freeScratch o.slot sl b
      jobCheck p.oid (modJob p.oid (fun j => { j with done := j.done + 1, tiles := j.tiles.filter (·.t != p.tile) }) b)
  | _, _ => b

/-- A core returned FAULT: it is marked failed and reported (R165). -/
def coreFailed (core : Nat) (b : Block) : Block := report (uccReport 0x10 1 core .coreFault 0) (failCore core b)

/-- A core returned FAULT for a piece: the piece is to be placed again on another core. A second FAULT on a different core,
or no other core left, fails the operation (R165). -/
def coreFault (core : Nat) (p : Piece) (b : Block) : Block :=
  let b := coreFailed core b
  match jobOf b p.oid, opOf b p.oid with
  | some j, some o =>
    if j.aborted then b
    else if j.faulted.any (fun x => samePiece x.1 p && x.2 != core)
        || !((List.range (nCores b)).any (fun c => bitOf (mosOf b o.slot).cores c && !(coreOf b c).failed
              && !(coreOf b c).unbinding)) then failOp p.oid .coreFault b
    else unplace p (modJob p.oid (fun j => { j with faulted := (p, core) :: j.faulted }) b)
  | _, _ => b

/-- The report of a piece that a core returned with POISON (R356). -/
def poisonReport (q : Nat) (p : Piece) (b : Block) : Block :=
  let off := match opOf b p.oid with | some o => o.off | none => 0xFFFFFFFF
  report (uccReport 0x11 3 q .memUncorrected off) b

/-- A core returned POISON for a piece (R165). -/
def corePoison (q : Nat) (p : Piece) (b : Block) : Block := failOp p.oid .memUncorrected (poisonReport q p b)

/-- The status of one lane of an ended pass. An ABORTED completion in a pass that was not aborted counts as FAULT (the spec
names no meaning for it; DESIGN CHOICE, log entry 47). -/
def laneResult (n q : Nat) (lanes : Table Nat) (x : Nat × Piece) (b : Block) : Block :=
  match tget 0 lanes x.1 with
  | 0 => pieceDone x.2 b
  | 2 => corePoison q x.2 b
  | _ => coreFault (8 * n + x.1) x.2 b

/-- The cores of sequencer `n` leave the pass that its report ends, and those of the next one, if it has begun, hold its
pieces. `next` is the bank that follows. -/
def coresGo (n : Nat) (next : Option Bank) (b : Block) : Block :=
  let b := (List.range 8).foldl (fun b l => modCore (8 * n + l) (fun c => { c with active := none }) b) b
  match next with
  | some k => coresTake n k b
  | none => b

/-- The lanes of a pass, those that returned POISON after the others: reports of one cycle act in ascending source, 0x10 before
0x11 (R358). -/
def bySource (r : PassReport) : List (Nat × Piece) :=
  r.bank.lanes.filter (fun x => tget 0 r.lanes x.1 != 2) ++ r.bank.lanes.filter (fun x => tget 0 r.lanes x.1 == 2)

/-- The lanes of an aborted or failed pass that returned FAULT mark their cores failed; nothing is placed again. One that returned
POISON adds nothing to the abort, and its record is written (R358). -/
def faultedLanes (n : Nat) (r : PassReport) (b : Block) : Block :=
  (bySource r).foldl (fun b x => match tget 0 r.lanes x.1 with
    | 1 => coreFailed (8 * n + x.1) b
    | 2 => poisonReport r.bank.q x.2 b
    | _ => b) b

/-- What DSP does with the report of a pass (R165, R200). -/
def takeReport (n : Nat) (r : PassReport) (b : Block) : Block :=
  let k := r.bank
  match r.fail with
  | some st => failOp k.oid st (faultedLanes n r b)
  | none =>
    if r.abort then faultedLanes n r b
    else match k.chunk with
      | some _ => jobCheck k.oid (modJob k.oid (fun j => { j with done := j.done + 1 }) b)
      | none => (bySource r).foldl (fun b x => laneResult n k.q r.lanes x b) b

/-- PASS_END_REPORT: DSP takes the oldest report of sequencer `n`, frees its cores and acts on each lane's status. -/
def passEndReport (n : Nat) (b : Block) : Block :=
  let s := seqrOf b n
  match s.reports with
  | r :: rs =>
    let isLast := rs.isEmpty && s.pass.any (·.ended)
    let next := match rs with | x :: _ => some x.bank | [] => if isLast then none else s.active
    let b := modSeqr n (fun s => dropStale (if isLast then { s with active := none, pass := none, reports := rs }
                                            else { s with reports := rs })) b
    let b := progress r.bank.q (coresGo n next b)
    leaveCores (fun c => c / 8 == n) (dropAborted r.bank.oid (takeReport n r b))
  | [] => b

end Sys2Proof.Machine
end

