-- ==== Sys2Proof/Machine/Lanes.lean ====
section
/-! DEFINITION. Core lanes, the combine and chunk passes, program fetch, and the completions that SEQ takes itself (R163
to R169, R177 to R182, R184, R199, R200, R203, R204). -/

namespace Sys2Proof.Machine

/-! ### Core lanes -/

/-- LANE_OP_TRANSFER: the core takes the head of the issue buffer, numbered with the lane's next identifier (R163,
R164). -/
def laneTransfer (n l : Nat) (b : Block) : Block :=
  let x := laneOf (seqrOf b n) l
  match x.buf with
  | [] => b
  | o :: os =>
    if x.abReq || decide (64 ≤ x.out.length) then b else
    let id := x.nextId % 256
    let b := modLane n l (fun x => { x with buf := os, nextId := (id + 1) % 256, out := x.out ++ [(id, o)] }) b
    emit (.laneOp n l (o.data ||| BitVec.ofNat 256 id)) b

/-- What the completion of an operation changes in the pass: CT, the memory-ready bit of the entry it pushed, and the
step of a combine pass (R184, R199). Of several statuses other than OK, the lane reports the first (DESIGN CHOICE, log entry
47). -/
def opDone (l : Nat) (o : LaneOp) (st : Nat) (p : Pass) : Pass :=
  let p := { p with ct := o.regions.foldl (fun t r => tmod 0 t (64 * l + r) (· - 1)) p.ct }
  let p := match o.out with
    | some (_, eid) => modEntry eid (fun e => { e with m := setBit e.m l }) p
    | none => p
  let p := if p.kind == .combine then { p with cstep := tset 0 p.cstep l (if st = 0 then 5 else 7) } else p
  if st = 0 then p else { p with laneSt := if tget 0 p.laneSt l = 0 then tset 0 p.laneSt l st else p.laneSt }

/-- LANE_COMPLETION (R164). A reserved status counts as FAULT, and LAST_STATUS keeps its own code (R171; DESIGN CHOICE, log entry
47). A lane whose domain is not ON ignores it (R169). -/
def laneCompletion (n l : Nat) (id : BitVec 8) (status : BitVec 3) (b : Block) : Block :=
  if !seqUp b n then b else
  match (laneOf (seqrOf b n) l).out with
  | [] => laneStray b
  | (i, o) :: os =>
    if i ≠ id.toNat then laneStray b else
    let bad := decide (4 ≤ status.toNat)
    let st := if bad then 1 else status.toNat
    let b := if bad then { b with dsp := { b.dsp with laneStray := satAdd 32 b.dsp.laneStray 1 } } else b
    let b := modLane n l (fun x => { x with out := os }) b
    let b := modCore (8 * n + l) (fun c => { c with lastStatus := status.toNat }) b
    modPass n (fun p => if p.ended then p else opDone l o st p) b

/-- A lane's handshake counts as done for the partition resets that await it (R367). -/
def partLaneDone (n l : Nat) (b : Block) : Block :=
  let f (_ : Nat) (p : Option PartRst) : Option PartRst := p.map (fun p => { p with lanes := p.lanes.filter (· != (n, l)) })
  { b with flt := { b.flt with parts := tmap none b.flt.parts f } }

/-- LANE_ABORT_ACK (R166): the request falls; an abort that waits is raised again. Ignored in a domain that is not ON (R169). -/
def laneAck (n l : Nat) (b : Block) : Block :=
  let x := laneOf (seqrOf b n) l
  if !seqUp b n then b else
  if !x.abReq then laneStray b else
  let b := modLane n l (fun x => { x with buf := [], out := [], abReq := false, abDead := none, expired := false,
                                          reraise := false }) b
  let b := partLaneDone n l (emit (.laneAbort n l false) b)
  if x.reraise then abortLane n l b else b

/-- ABORT_BOUND_EXPIRY (R167): the core is marked failed and reported; the partition is reset unless it already is. -/
def abortBound (n l : Nat) (b : Block) : Block :=
  let x := laneOf (seqrOf b n) l
  if !(x.abReq && !x.expired && due (hubNow b) x.abDead) then b else
  let core := 8 * n + l
  let q := (seqrOf b n).active.map (·.q)
  let b := modLane n l (fun x => { x with expired := true, abDead := none }) b
  let b := partLaneDone n l (failCore core b)
  match slotOfCore b core with
  | none => report (uccReport 0x14 5 0 .stateLost 0) b
  | some k =>
    let busy := resetting b k
    let b := report (uccReport 0x14 5 k .stateLost 0) b
    if busy then b else startPart k 0x14 q none b

/-! ### The combine pass and the chunk pass (R199) -/

/-- Whether a bank's slots hold 64-bit integers. -/
def bankInt (k : Bank) : Bool := k.launch.fclass == 4

/-- Shape of a whole scratch slot's data. -/
def slotShape (k : Bank) : Shape := { rowBytes := if bankInt k then 131072 else 65536, rows := 1, stride := 0 }

/-- The tile operation of a combine pass: ADD (R199). For the MAX and MIN of a COLLECTIVE the spec names no tile operation,
and its code is a free value (R221; log entry 20). -/
def combCode (b : Block) (k : Bank) : Nat :=
  match opOf b k.oid with
  | some { pkt := { body := .collective _ _ rop _ _ _ _, .. }, .. } => if rop = 0 then 0x02 else (freeVal 8 b).toNat
  | _ => 0x02

/-- The shape of a whole scratch slot's elements. -/
def slotTile : TShape :=
  { valid := true, tm := 128, tn := 128, tk := 0, xq := 0, xen := false, imms := 0, immen := false }

/-- The combining of the two slots in a combine pass, by the tile operation `code`. -/
def combAdd (code : Nat) (k : Bank) : LaneOp :=
  let f := if bankInt k then 0x12 else 1
  { data := opData code f f f (some 0) (some 0x200) none (some 0) none slotTile false false 0 0 0, regions := [], out := none }

/-- The move that a pass of a COLLECTIVE makes on a lane, if the pass is one of a move (log entry 20). -/
def collMoveOf (b : Block) (k : Bank) : Option CollMove := (b.fab.colls.find? (·.oid == k.oid)).bind (·.move)

/-- The conversion of a COLLECTIVE's elements: CVT from local address 0x000 to 0x200 (R192, R217, R221). -/
def collCvt (f : Nat × Nat) : LaneOp :=
  { data := opData 0x03 f.1 0 f.2 (some 0) none none (some 0x200) none slotTile false false 0 0 0, regions := [], out := none }

/-- The step of a COLLECTIVE's move on lane `l`, numbered as those of a combine pass: one read, the conversion where there is one,
one write (DESIGN CHOICE, log entry 20). -/
def collLane (n l : Nat) (k : Bank) (m : CollMove) (s : Nat) (b : Block) : Block :=
  let set (v : Nat) (b : Block) : Block := modPass n (fun p => { p with cstep := tset 0 p.cstep l v }) b
  let body (a bytes : Nat) : List Nat := moveBody a { rowBytes := bytes, rows := 1, stride := 0 }
  match s with
  | 0 => match ddIssue n (.comb l) (passDesc b k 1 (2 ^ l) 0 none m.srcFab (body m.src m.srcBytes)) b with
    | some b => set 2 b
    | none => b
  | 3 => match m.cvt with
    | none => set 5 b
    | some f => if 16 ≤ (laneOf (seqrOf b n) l).buf.length then b else set 4 (issueOp n l (collCvt f) b)
  | 5 =>
    let la := if m.cvt.isSome then 0x200 else 0
    match ddIssue n (.comb l) (passDesc b k 2 (2 ^ l) la none m.dstFab (body m.dst m.dstBytes)) b with
    | some b => set 6 b
    | none => b
  | _ => b

/-- A transfer of a combine pass between the scratch slot `slot` and local address `la` of lane `l`. -/
def combMove (n : Nat) (k : Bank) (kind l slot la : Nat) (b : Block) : Option Block :=
  ddIssue n (.comb l) (passDesc b k kind (2 ^ l) la none true (moveBody (scratchAddr b k.slot slot) (slotShape k))) b

/-- Step of a combine pass on a lane: 0 nothing done, 1 and 2 reads outstanding, 3 reads done, 4 ADD outstanding, 5 sum
ready, 6 write outstanding, 7 done. -/
def combLane (n : Nat) (k : Bank) (x : Nat × Piece) (b : Block) : Block :=
  let l := x.1
  match (seqrOf b n).pass with
  | none => b
  | some p =>
    let set (v : Nat) (b : Block) : Block := modPass n (fun p => { p with cstep := tset 0 p.cstep l v }) b
    match collMoveOf b k with
    | some m => collLane n l k m (tget 0 p.cstep l) b
    | none =>
    match tget 0 p.cstep l with
    | 0 => if 239 ≤ passTags (seqrOf b n) then b else
        match (combMove n k 1 l x.2.slotL 0 b).bind (combMove n k 1 l x.2.slotR 0x200) with
        | some b => set 1 b
        | none => b
    | 3 => if 16 ≤ (laneOf (seqrOf b n) l).buf.length then b else
        let code := combCode b k
        set 4 (issueOp n l (combAdd code k) (if code = 0x02 then b else useFree b))
    | 5 => match combMove n k 2 l x.2.slotL 0 b with
        | some b => set 6 b
        | none => b
    | _ => b

/-- COMBINE_PASS: every lane takes the step of the fixed sequence that is open to it. -/
def combinePass (n : Nat) (b : Block) : Block :=
  match (seqrOf b n).active, (seqrOf b n).pass with
  | some k, some p =>
    if p.kind == .combine && p.fail.isNone && !p.abort && !p.ended then
      k.lanes.foldl (fun b x => combLane n k x b) b
    else b
  | _, _ => b

/-- A descriptor of a combine pass completed on lane `l`. -/
def combDd (l : Nat) (p : Pass) : Pass :=
  let s := tget 0 p.cstep l
  { p with cstep := tset 0 p.cstep l (if s = 6 then 7 else s + 1) }

/-- VALUE of a FILL turned so that its byte 0 falls on the chunk's first byte (R100). -/
def turnValue (width off : Nat) (v : W64) : Nat :=
  let bytes := leBytes v.toNat width
  leNat ((List.range width).map (fun i => bytes.getD ((i + off) % width) 0))

/-- Descriptor kind, KDATA, body and byte ranges read and written of a chunk. -/
def chunkBody (o : Op) (off len : Nat) : Option (Nat × Nat × List Nat × List (Nat × Nat)) :=
  match o.pkt.body with
  | .copy _ src dst =>
    some (3, 0, words64 (src + off) ++ words64 (dst + off) ++ [len], [(src + off, len), (dst + off, len)])
  | .fill w _ dst v =>
    some (4, clog2 w, words64 (dst + off) ++ [len] ++ words64 (turnValue w off v), [(dst + off, len)])
  | _ => none

/-- CHUNK_PASS: issues the chunk's one descriptor (R199, R322, R341). -/
def chunkPass (n : Nat) (b : Block) : Block :=
  let s := seqrOf b n
  match s.active, s.pass with
  | some k, some p =>
    if !(p.kind == .chunk && p.fail.isNone && !p.abort && !p.ended && tget 0 p.cstep 0 == 0) then b else
    match k.chunk, opOf b k.oid with
    | some (_, off, len), some o =>
      match chunkBody o off len with
      | none => b
      | some (kind, kdata, body, rs) =>
        if rs.any (fun r => sealedTouch b k.ctx r.1 r.2) then passFail n .notPermitted false 0 0 b
        else if !bwOpen b k.slot then b else
        match ddIssue n (.chunk k.oid) (passDesc b k kind 0 kdata none false body) b with
        | none => b
        | some b => modPass n (fun p => { p with cstep := tset 0 p.cstep 0 1 }) (bwTake k.slot len b)
    | _, _ => b
  | _, _ => b

/-! ### Program fetch (R177 to R179) -/

/-- 4 KiB blocks of a program. -/
def progBlocks (p : Prog) : Nat := ceilDiv p.len 4096

/-- Blocks in use. -/
def blocksUsed (s : Seqr) : Nat := (s.progs.map progBlocks).foldl (· + ·) 0

/-- A bank names the entry. -/
def named (s : Seqr) (p : Prog) : Bool :=
  (match s.active with | some k => bankProg k p | none => false)
  || (match s.shadow with | some k => bankProg k p | none => false)

/-- The entry to evict first: named by neither bank, no PFETCH outstanding, least recently used. -/
def victim (s : Seqr) : Option Prog :=
  (s.progs.filter (fun p => !named s p && p.out == 0)).foldl (fun m p => match m with
    | none => some p
    | some q => if p.lastUse < q.lastUse then some p else some q) none

/-- Evict until `need` more blocks fit; none where they do not (R178). -/
def makeRoom (need : Nat) : Nat → Seqr → Option Seqr
  | 0, s => if blocksUsed s + need ≤ 128 then some s else none
  | fuel + 1, s =>
    if blocksUsed s + need ≤ 128 then some s else
    match victim s with
    | none => none
    | some v => makeRoom need fuel { s with progs := s.progs.filter (· != v) }

/-- Change the cache entry that a bank names. -/
def modProg (n : Nat) (k : Bank) (f : Prog → Prog) (b : Block) : Block :=
  modSeqr n (fun s => { s with progs := modFirst (bankProg k) f s.progs }) b

/-- Issue PFETCH descriptors of an entry while fewer than 8 are outstanding; a piece that touches a sealed range is lost
to NOT_PERMITTED, marked 7 (R178, R341). -/
def pfetches (n : Nat) (k : Bank) : Nat → Block → Block
  | 0, b => b
  | fuel + 1, b =>
    match (seqrOf b n).progs.find? (bankProg k) with
    | none => b
    | some p =>
      if p.len ≤ p.nextOff ∨ 8 ≤ p.out then b else
      let a := p.addr + p.nextOff
      let len := min (512 - a % 512) (p.len - p.nextOff)
      if sealedTouch b k.ctx a len then
        pfetches n k fuel (modProg n k (fun p =>
          { p with chunks := tinsert p.nextOff (.bad 7) (terase p.chunks p.nextOff), nextOff := p.nextOff + len }) b)
      else
        match ddIssue n (.pfetch p.gen p.nextOff)
            (passDesc b k 7 0 0 none false (words64 a ++ [len, 0, 0])) b with
        | none => b
        | some b => pfetches n k fuel (modProg n k (fun p => { p with nextOff := p.nextOff + len, out := p.out + 1 }) b)

/-- A fetch-time check failed: the program is not kept and every LAUNCH that waits for it fails (R179). -/
def fetchFailed (n : Nat) (k : Bank) (st : Status) (exe : Bool) (pc : Nat) (b : Block) : Block :=
  let b := noteFault n st exe 0 pc b
  let b := modSeqr n (fun s => { s with progs := s.progs.filter (fun p => !bankProg k p) }) b
  failOp k.oid st b

/-- The checks of R179 on what has arrived: the program becomes resident, fails, or waits. -/
def fetchOutcome (n : Nat) (b : Block) : Block :=
  match (seqrOf b n).shadow with
  | none => b
  | some k =>
    match (seqrOf b n).progs.find? (bankProg k) with
    | none => b
    | some p =>
      if p.resident then b else
      match fetchCheck p with
      | .wait => b
      | .fail st exe pc => fetchFailed n k st exe pc b
      | .pass => modProg n k (fun p => { p with resident := true }) b

/-- PROGRAM_FETCH: the fetch of the shadow bank's program starts or goes on (R178). -/
def programFetch (n : Nat) (b : Block) : Block :=
  let s := seqrOf b n
  match s.shadow with
  | none => b
  | some k =>
    if k.role == .combine || k.chunk.isSome then b else
    let b := if s.progs.any (bankProg k) then b else
      match makeRoom (ceilDiv k.launch.progLen 4096) (s.progs.length + 1) s with
      | none => b
      | some s' =>
        let p : Prog := { ctx := k.ctx, addr := k.launch.progAddr, len := k.launch.progLen, chunks := [], nextOff := 0,
                          out := 0, resident := false, stale := false, lastUse := b.time.root + 1, gen := s.nextFetch }
        modSeqr n (fun _ => { s' with shadow := some { k with gen := none }, progs := s'.progs ++ [p],
                                      nextFetch := s.nextFetch + 1 }) b
    fetchOutcome n (pfetches n k 16 b)

/-- Invalidate the entries that satisfy `p`: one named by a bank stays usable by it, which from then on names it by the number of
its fetch; any other is dropped (R177). -/
def invalidate (sel : Nat → Bool) (b : Block) : Block :=
  let f (_ : Nat) (s : Seqr) : Seqr :=
    let mark (k : Option Bank) : Option Bank := k.map (fun k =>
      if sel k.ctx then { k with gen := ((s.progs.find? (bankProg k)).map (·.gen)).or k.gen } else k)
    let s' := { s with progs := s.progs.map (fun p => if sel p.ctx then { p with stale := true } else p),
                       active := mark s.active, shadow := mark s.shadow }
    dropStale s'
  { b with seq := { b.seq with seqrs := tmap seqrZero b.seq.seqrs f } }

/-! ### Jammed streams (R182) -/

/-- The streams of a pass are jammed. -/
def jammed (b : Block) (v : View) : Bool :=
  let stuck (exe : Bool) : Bool :=
    (streamOf v.pass exe).ended ||
    (match nextInstr v exe with
     | none => false
     | some w => match gateOf b v exe w with
       | .stall r _ => r == 1 || r == 2 || r == 9
       | _ => false)
  !(v.pass.acc.ended && v.pass.exe.ended) && stuck false && stuck true && passTags v.sq == 0 && lanesDone v.sq v.bank

/-- STREAM_JAM_EXPIRY: 16 consecutive jammed CLK_SEQ cycles fail the pass. -/
def jamExpiry (n : Nat) (b : Block) : Block :=
  match viewOf b n with
  | none => b
  | some v =>
    if 16 ≤ v.pass.jam ∧ jammed b v = true then
      let exe := v.pass.acc.ended
      passFail n .badState exe (lowLane v.bank) (streamOf v.pass exe).pc b
    else b

/-! ### Descriptor completions (R200, R203) -/

/-- The status a pass takes from a failed descriptor; AUTH under a REVOKING slot is KEY_REVOKED (R200, R341). -/
def passStatus (b : Block) (u : DdUse) (st : BitVec 3) : Status :=
  if st = 3 && (match u.key with | some h => (keyOf b h).state == .revoking | none => false) then .keyRevoked
  else ddStatus st

/-- Effect of an OK completion on the pass that issued the descriptor; the scoreboard counts whatever the status. -/
def ddPass (u : DdUse) (ok : Bool) (p : Pass) : Pass :=
  match u.owner with
  | .load _ r eid lanes =>
    let p := { p with dw := unbump p.dw lanes r }
    if ok then modEntry eid (fun e => if e.wait ≤ 1 then { e with wait := 0, r := 255, m := 255 }
                                      else { e with wait := e.wait - 1 }) p
    else p
  | .store r lanes => { p with dr := unbump p.dr lanes r }
  | .lds l i =>
    let p := { p with lds := p.lds.filter (· != 16 * l + i) }
    if ok then setS false i [(l, BitVec.ofNat 64 (leNat (u.data.take 8)))] p else p
  | .comb l => if ok then combDd l p else p
  | _ => p

/-- The lane concerned in a failed descriptor. -/
def ddLane (o : DdOwner) : Nat :=
  match o with
  | .load l .. => l
  | .store _ lanes => ((bitsOf lanes 8).headD 0)
  | .lds l _ => l
  | .comb l => l
  | _ => 0

/-- A completion of a pass's descriptor. -/
def ddOfPass (n : Nat) (u : DdUse) (st : BitVec 3) (b : Block) : Block :=
  let b := modPass n (fun p => if p.ended then p else ddPass u (st = 0) p) b
  if st = 0 then b else passFail n (passStatus b u st) false (ddLane u.owner) u.pc b

/-- A PFETCH of fetch `gen` completed: its bytes or its status go into the cache entry, whose checks go on; one of a fetch
that has failed meanwhile finds no entry. -/
def pfetchDone (n gen off : Nat) (u : DdUse) (st : BitVec 3) (b : Block) : Block :=
  let got (p : Prog) : Fetched :=
    if st = 0 then .bytes (u.data.take (min (512 - (p.addr + off) % 512) (p.len - off))) else .bad st
  fetchOutcome n (modSeqr n (fun s => { s with progs := modFirst (·.gen == gen) (fun p =>
    { p with chunks := tinsert off (got p) (terase p.chunks off), out := p.out - 1 }) s.progs }) b)

/-- Take a completion off a port: the use whose tag it names, and the status as taken; strays are counted (R203). A port
whose domain is not ON ignores its inputs (R205). -/
def ddTake (n tag : Nat) (status : BitVec 3) (b : Block) : Option (DdUse × BitVec 3) × Block :=
  if !seqUp b n then (none, b) else
  match tget none (seqrOf b n).dd tag with
  | none => (none, ddStray n b)
  | some u =>
    let bad := decide (5 ≤ status.toNat)
    let b := modSeqr n (fun s => { s with dd := tset none s.dd tag none,
                                          ddStray := if bad then satAdd 32 s.ddStray 1 else s.ddStray }) b
    (some (u, if bad then 1 else status), b)

/-- DD_READ_BEAT: a data beat joins the bytes of its read (R203); ignored in a domain that is not ON (R205). -/
def ddBeat (n tag : Nat) (data : Beat) (b : Block) : Block :=
  if !seqUp b n then b else
  match tget none (seqrOf b n).dd tag with
  | none => ddStray n b
  | some u => modSeqr n (fun s => { s with dd := tset none s.dd tag (some { u with data := u.data ++ leBytes data.toNat 32 }) }) b

end Sys2Proof.Machine
end

