-- ==== Sys2Proof/Machine/Complete.lean ====
section
/-! DEFINITION. Completion records, their answers, retirement and the end of QUEUE_RESET (R48, R58 to R67, R71, R72). -/

namespace Sys2Proof.Machine

/-- Bytes of a completion record (R58). -/
def recordBytes (r : QueueRec) (q : Nat) (s : Sub) : List Byte :=
  let st := match s.fail with | some f => f.status.code | none => 0
  let kind := match s.fail with | some f => f.kind | none => 0
  let det := match s.fail with | some f => if f.kind = 0 then 0xFFFFFFFF else f.detail | none => 0xFFFFFFFF
  leBytes (s.ent.seqno % 2 ^ 32) 4
  ++ leBytes (fld s.ent.seqno 32 16 + at_ st 16 + at_ (b2n r.cqPhase) 24 + at_ kind 25) 4
  ++ leBytes (r.head + at_ q 16) 4 ++ leBytes det 4

/-- Every operation of a submission is complete, its launch pass has ended and its inline waits are satisfied: it has
succeeded (R48, R119). -/
def subDone (b : Block) (s : Sub) : Bool :=
  s.fail.isNone && s.phase == .checked && s.started && s.lch.ended
  && (opsOfSub b s.sid).all (fun o => o.stage == .complete)
  && (match s.wait0 with | .waiting _ => false | _ => true) && (match s.wait1 with | .waiting _ => false | _ => true)

/-- The submission whose record or retirement comes next in SEQNO order: every earlier one has issued its own record
(R62, R123). -/
def nextRecord (r : QueueRec) : Option Sub := r.subs.find? (fun s => s.record == .pending || s.record == .notNeeded)

/-- The inline signal of a submission that succeeded (R48). -/
def inlineSignal (s : Sub) (b : Block) : Block :=
  if s.ent.sig && s.fail.isNone then signalFlag s.ent.sigOp s.ent.sigFlag s.ent.sigVal b else b

/-- A submission retires: it, its operations and its turn instances are gone; the queue's watchdog restarts (R365). -/
def retire (q sid : Nat) (b : Block) : Block :=
  let b := dropLines q (fun l => !itemOf [sid] l.item) b
  let b := modQueue q (fun r => { r with subs := r.subs.filter (·.sid != sid) }) b
  progress q { b with dep := { b.dep with ops := b.dep.ops.filter (·.sid != sid) },
                      bat := { b.bat with insts := b.bat.insts.filter (·.sid != sid) } }

/-- Issue the record of a submission, and after it the vector: the completion vector of one that succeeded with IRQ, the error
vector of the one whose failure halted the queue (R58, R61, R63, R64). -/
def writeRecord (q : Nat) (s : Sub) (b : Block) : Block :=
  let r := queueOf b q
  let c := ctxOfQueue q
  match hostWrite (.record q s.sid) (r.cqBase + 16 * r.cqTail) (recordBytes r q s) (some (ctxOf b c).ast) b with
  | none => b
  | some (id, b) =>
    let t := (r.cqTail + 1) % 2 ^ r.cqLog2
    let b := modQueue q (fun r => { r with cqTail := t, cqPhase := if t = 0 then !r.cqPhase else r.cqPhase }) b
    let b := modSub q s.sid (fun s => { s with record := .issued id }) b
    if s.fail.isNone then (if s.ent.irq then msix (complVector q) b else b)
    else if s.halter then msix (errVector q) b else b

/-- A submission without COMPLETE that has completed performs its inline signal at once; it writes no record (R48, R59).
One that succeeds with COMPLETE waits for its record's answer. -/
def signalSub (q : Nat) (b : Block) (s : Sub) : Block :=
  if s.record == .pending && !s.ent.complete && subDone b s then
    inlineSignal s (modSub q s.sid (fun s => { s with record := .notNeeded }) b)
  else b

/-- The completed submissions of queue `q` without COMPLETE, oldest first. -/
def signalDone (q : Nat) (b : Block) : Block := (queueOf b q).subs.foldl (signalSub q) b

/-- COMPLETION_RECORD_WRITE: the completed submissions without COMPLETE perform their signals, and the next submission of queue `q` in SEQNO order issues its record once its work is over and
the ring has space; one that succeeds without COMPLETE retires with no record (R59 to R62). -/
def completionRecord (q : Nat) (b : Block) : Block :=
  let r := queueOf b q
  if r.undeliverable || r.resetting || (ctxOf b (ctxOfQueue q)).state != .active then b else
  let b := signalDone q b
  let r := queueOf b q
  match nextRecord r with
  | none => b
  | some s =>
    if s.fail.isSome then (if subOver b s.sid && !cqFull r then writeRecord q s b else b)
    else if s.record == .notNeeded then retire q s.sid b
    else if !subDone b s || cqFull r then b else writeRecord q s b

/-- A record write was answered other than OK (R65): HUB_Q_LAST_SEQNO reads its SEQNO while UNDELIVERABLE stands (R75). Where two
record writes of a queue are so answered, the SEQNO of the later answer stands there (DESIGN CHOICE, log entry 47). -/
def undeliverable (q : Nat) (s : Sub) (b : Block) : Block :=
  let was := (queueOf b q).state
  let b := modSub q s.sid (fun s => { s with record := .undelivered }) b
  let b := enterHalt q .complUndeliverable b
  let b := modQueue q (fun r => { r with undeliverable := true, failSeqno := s.ent.seqno }) b
  let b := if was == .halted then msix (errVector q) b else b
  report (uccReport 0x18 3 q .complUndeliverable 0xFFFFFFFF) b

/-- The answer to the record write of submission `sid` (R48, R65): its record is the last one written (R75; of two writes that
are answered out of order it is the one answered later, DESIGN CHOICE, log entry 47). -/
def recordAnswer (q sid : Nat) (status : BitVec 2) (b : Block) : Block :=
  match subOf b q sid with
  | none => b
  | some s =>
    if status ≠ 0 then undeliverable q s b
    else
      let b := modQueue q (fun r => { r with lastSeqno := s.ent.seqno }) (modSub q sid (fun s => { s with record := .delivered }) b)
      if (queueOf b q).undeliverable || (queueOf b q).resetting then b else retire q sid (inlineSignal s b)

/-- Count a response of a torn-down context (R348). -/
def countLate (b : Block) : Block := { b with sec := { b.sec with late := satAdd 32 b.sec.late 1 } }

/-- Take the answer of a host write off its identifier. -/
def takeWrite (id : Nat) (b : Block) : Option WriteUse × Block :=
  let i := id % 512
  (tget none b.hub.writes i, { b with hub := { b.hub with writes := tset none b.hub.writes i none } })

/-- COMPLETION_WRITE_RESPONSE. -/
def completionResponse (id : Nat) (status : BitVec 2) (b : Block) : Block :=
  match takeWrite id b with
  | (some (.record q sid), b) => recordAnswer q sid status b
  | (some .late, b) => countLate b
  | (some (.discard _), b) => b
  | _ => b

/-- MSIX_REFUSED (R64). -/
def msixRefused (vec : Nat) (b : Block) : Block :=
  let b := if vec < 4 * nContexts b then noteCycle (.msiErr (vec / 4)) (modCtx (vec / 4) (fun c => { c with msiErr := true }) b)
    else b
  report (ceReport 0x1A) b

/-! ### QUEUE_RESET and disabling (R39, R67) -/

/-- Step 1 and 2: fetching stops and every operation of the queue is aborted. -/
def beginReset (q : Nat) (b : Block) : Block :=
  let b := modQueue q (fun r => { r with resetting := true, armed := false }) b
  abortOps ((b.dep.ops.filter (fun o => o.q == q)).map (·.oid)) b

/-- Step 2 has ended: every operation of the queue is over and no record write or line read is left. -/
def resetOver (b : Block) (q : Nat) : Bool := (b.dep.ops.filter (fun o => o.q == q)).all (opOver b)

/-- Discard everything a queue holds; answers still to come are discarded. -/
def clearQueue (q : Nat) (b : Block) : Block :=
  let b := dropLines q (fun _ => false) b
  let sids := (queueOf b q).subs.map (·.sid)
  let writes := tmap none b.hub.writes (fun _ u => match u with
    | some (.record q' _) => if q' == q then some (.discard (ctxOfQueue q)) else u
    | u => u)
  let b := { b with hub := { b.hub with writes := writes },
                    dep := { b.dep with ops := b.dep.ops.filter (fun o => o.q != q) },
                    bat := { b.bat with insts := b.bat.insts.filter (fun i => !sids.contains i.sid) },
                    sch := { b.sch with spans := b.sch.spans.filter (fun s => s.q != q) } }
  progress q (modQueue q (fun r => { r with subs := [] }) b)

/-- Steps 3 to 7. -/
def finishReset (q : Nat) (b : Block) : Block :=
  modQueue q (fun r => { r with
    state := .idle, head := 0, tail := 0, captured := 0, cqHead := 0, cqTail := 0, cqPhase := true, pending := false,
    armed := false, undeliverable := false, cause := .ok, any := true, resetting := false })
    (clearQueue q b)

end Sys2Proof.Machine
end

