-- ==== Sys2Proof/Machine/Sched.lean ====
section
/-! DEFINITION. SCH: boards, squares, withdrawal, the pool's head, spans, debt, accounting, bandwidth (R311 to R326). -/

namespace Sys2Proof.Machine

/-! ### Boards (R313 to R315) -/

/-- The default board of the active image; none in recovery. -/
def defaultBoard (b : Block) : List Nat :=
  match b.pwr.img.active with
  | some i => i.board
  | none => []

/-- The square of word `w` acts as POOL: its owner is not ACTIVE or the slot is not open to it (R315). -/
def sqVoid (b : Block) (k w : Nat) : Bool :=
  sqRt w && !((ctxOf b (fld w 16 8)).state == .active && slotOpen b (fld w 16 8) k)

/-- The board of slot `k`: the one that runs or is stored, else the default board it would run; none while it is FREE. -/
def boardOf (b : Block) (k : Nat) : List Nat :=
  if (mosOf b k).state == .free then []
  else if (schOf b k).running || (schOf b k).loaded then (schOf b k).board else defaultBoard b

/-- The RT squares of board `l` whose owner has access, as every one of an accepted image has (R314). -/
def liveSquares (b : Block) (k : Nat) (l : List Nat) : List Nat :=
  (List.range l.length).filter (fun i => sqRt (l.getD i 0) && !sqVoid b k (l.getD i 0))

/-- The RT squares of slot `k` whose owner has had its access and has lost it act as POOL from now on (R315). -/
def markPool (k : Nat) (b : Block) : Block :=
  let s := schOf b k
  let now := liveSquares b k s.board
  let up := now.filter (fun i => !s.live.contains i)
  let new := s.live.filter (fun i => !now.contains i && !s.asPool.contains i)
  if new.isEmpty && up.isEmpty then b
  else modSch k (fun s => { s with asPool := s.asPool ++ new, live := s.live ++ up }) b

/-- Slot `k` holds an accepted image from now on: each of its RT squares had its access when it was checked. -/
def putBoard (img : List Nat) (s : SchSlot) : SchSlot :=
  { s with board := img, loaded := true, lost := false, waiting := none, asPool := []
           live := (List.range img.length).filter (fun i => sqRt (img.getD i 0)) }

/-- Square `i` of slot `k` starts in cycle `cyc`, `turned` where a boundary begins it; the owner of an RT square repays its debt from it (R320). -/
def startSquare (k i cyc : Nat) (turned : Bool) (b : Block) : Block :=
  let b := modSch k (fun s => { s with square := i, start := cyc, turned := turned, held := 0, wasLent := false }) b
  let b := markPool k b
  match rtOwner b k with
  | none => b
  | some c =>
    let n := min (schCtx b c).debt (sqCycles (squareNow b k))
    modSchCtx c (fun r => { r with debt := r.debt - n }) (modSch k (fun s => { s with held := n }) b)

/-- A stored board that an uncorrected error has taken is no longer loaded (R356, source 0x07). -/
def dropLost (s : SchSlot) : SchSlot := if s.lost then { s with loaded := false, lost := false } else s

/-- Slot `k` enters READY: a board that does not run yet starts at its square 0 (R313). -/
def schReady (k : Nat) (b : Block) : Block :=
  if (schOf b k).running then b else
  let d := defaultBoard b
  let fresh (s : SchSlot) : SchSlot := if s.loaded || s.board == d then s else { s with board := d, asPool := [], live := [] }
  let b := modSch k (fun s => { fresh s with
    running := true, rounds := 0, active := [], tenure := none,
    deficit := s.deficit.filter (fun e => decide (e.2 < 0)), late := [] }) b
  startSquare k 0 (hubNow b) false b

/-- Slot `k` stops its board (R313); an image that waits is stored, as for a slot that runs no board (R314). -/
def schStop (k : Nat) (b : Block) : Block :=
  match (schOf b k).waiting with
  | some (img, i) =>
    admFinal i .ok (modSch k (fun s => { putBoard img s with running := false }) b)
  | none => modSch k (fun s => { dropLost s with running := false }) b

/-- Slot `k` is FREE again: SCH forgets its board; the regulator stays as it is configured. -/
def schFree (k : Nat) (b : Block) : Block :=
  modSch k (fun s => { schSlotZero with
    sqEv := s.sqEv, sqCyc := s.sqCyc, bw := s.bw, bwNext := s.bwNext, level := s.level, hold := s.hold,
    refill := s.refill }) b

/-! ### Withdrawal (R160, R318) -/

/-- R160 names the operation among those that may be withdrawn: a LAUNCH, COPY or FILL. -/
def withdrawable (o : Op) : Bool :=
  match o.pkt.body with
  | .launch _ | .copy .. | .fill .. => true
  | _ => false

/-- The contexts that have a released operation on slot `k` in a queue that `q` selects, which R160 allows to be withdrawn. -/
def preempted (b : Block) (k : Nat) (q : Nat → Bool) : List Nat :=
  ((b.dep.ops.filter (fun o => o.slot == k && o.stage == .released && withdrawable o && preemptible o && q o.q
    && (jobOf b o.oid).isSome)).map (·.ctx)).dedup

/-- The time of the queues that `q` selects is withdrawn on slot `k`: preloaded pieces return and each context concerned
counts a pre-emption. -/
def withdrawTime (k : Nat) (q : Nat → Bool) (b : Block) : Block :=
  let b := (preempted b k q).foldl (fun b c =>
    modSchCtx c (fun r => { r with preempts := (r.preempts + 1) % 2 ^ 32 }) b) b
  withdrawAll (fun o => o.slot == k && q o.q && preemptible o) b

/-! ### Squares -/

/-- A pass of context `c`'s Q0 runs on slot `k`. -/
def rtRuns (b : Block) (k c : Nat) : Bool :=
  b.seq.seqrs.any (fun e => match e.2.active with
    | some x => x.slot == k && x.q == 6 * c && e.2.pass.any (fun p => !p.ended)
    | none => false)

/-- An RT square has ended: a pass of its owner's Q0 still running is a square overrun event (R326). -/
def squareOver (k cyc : Nat) (b : Block) : Block :=
  match rtOwner b k with
  | none => b
  | some c => if rtRuns b k c then
      modSch k (fun s => { s with sqEv := satAdd 32 s.sqEv 1, late := s.late ++ [(c, cyc)] }) b else b

/-- The last square of slot `k`'s board has ended: a round is complete (R313). -/
def countRound (k : Nat) (b : Block) : Block :=
  if (schOf b k).square + 1 < (schOf b k).board.length then b
  else modSch k (fun s => { s with rounds := (s.rounds + 1) % 2 ^ 32 }) b

/-- The square that follows: an accepted image, a new default board, or the next square of the board; a round that this ends
is counted, whatever follows. -/
def nextSquare (k cyc : Nat) (b : Block) : Block :=
  let s := schOf b k
  let b := countRound k b
  match s.waiting with
  | some (img, i) => admFinal i .ok (startSquare k 0 cyc true (modSch k (putBoard img) b))
  | none =>
    let d := defaultBoard b
    let b := modSch k dropLost b
    if !(dropLost s).loaded && s.board != d then
      startSquare k 0 cyc true (modSch k (fun s => { s with board := d, asPool := [], live := [] }) b)
    else startSquare k (if s.square + 1 < s.board.length then s.square + 1 else 0) cyc true b

/-- Queue `q` was entitled on slot `k` in the last cycle of the square that has ended: an RT square withheld to its end, or
lent when SCH last looked, was the pool's; a Q0 operation released in the boundary's cycle is the new square's (R318, R320). -/
def wasEntitled (b : Block) (k q : Nat) : Bool :=
  let c := ctxOfQueue q
  let s := schOf b k
  let whole : Bool := decide (sqCycles (squareNow b k) ≤ s.held)
  match rtOwner b k with
  | none => classOf q != 0 && slotOpen b c k
  | some o => if classOf q = 0 then o == c && !whole else (whole || s.wasLent) && slotOpen b c k

/-- The current square of slot `k` has run its cycles. -/
def squareEnds (b : Block) (k : Nat) : Bool := decide ((schOf b k).start + sqCycles (squareNow b k) ≤ hubNow b)

/-- SQUARE_BOUNDARY: the current square of slot `k` has run its cycles (R313, R318). Boundaries depend on the board alone:
the next square starts where this one ends. -/
def squareBoundary (k : Nat) (b : Block) : Block :=
  let s := schOf b k
  let cyc := s.start + sqCycles (squareNow b k)
  if !s.running || s.board.isEmpty || !squareEnds b k then b else
  let was := b
  let b := nextSquare k cyc (squareOver k cyc b)
  withdrawTime k (fun q => wasEntitled was k q && !entitled b k q) b

/-! ### BOARD_LOAD (R314) -/

/-- A square word is well formed (R314 step 4). -/
def squareOk (b : Block) (w : Nat) : Bool :=
  fld w 24 6 == 0 && (fld w 30 2 == 1 || fld w 30 2 == 2)
  && (if sqRt w then decide (fld w 16 8 < nContexts b) else fld w 16 8 == 0) && fld w 0 16 != 0

/-- The checks 2 to 5 of R314 on an image. -/
def boardCheck (b : Block) (k : Nat) (img : List Byte) : Option Status :=
  let n := fld (word img 0) 0 11
  let sq := (List.range n).map (fun i => word img (4 + i))
  if fld (word img 0) 11 21 ≠ 0 ∨ !allZero (slice img 4 12) then some .badParam
  else if n = 0 ∨ 1024 < n then some .badLength
  else if !sq.all (squareOk b) then some .badParam
  else if sq.any (sqVoid b k) then some .notPermitted
  else none

/-- BOARD_LOAD: its image is read. -/
def boardLoad (i : Nat) (e : List Byte) (b : Block) : Block :=
  let m := (mosOf b (ef e 4 0 6)).state
  if m == .free || m == .releasing then admBad i .badState 16 b else
  match bufBad (dword e 6) 16 16 with
  | some st => admBad i st 24 b
  | none => admRead i b

/-- The image of a BOARD_LOAD has been read. -/
def boardData (i : Nat) (e img : List Byte) (b : Block) : Block :=
  let k := ef e 4 0 6
  let m := (mosOf b k).state
  if m == .free || m == .releasing then admBad i .badState 16 b else
  match boardCheck b k img with
  | some st => admBad i st 24 b
  | none =>
    let sq := (List.range (fld (word img 0) 0 11)).map (fun j => word img (4 + j))
    if (schOf b k).running then modSch k (fun s => { s with waiting := some (sq, i) }) b
    else admFinal i .ok (modSch k (putBoard sq) b)

/-! ### SHARES_SET -/

/-- The contexts that a SHARES_SET names, entry by entry. -/
def shareCtxs (e : List Byte) : List Nat := (List.range (ef e 4 0 5)).map (fun i => ef e (5 + i) 0 8)

/-- SHARES_SET: every entry takes force at once, or none (R317, R421). -/
def sharesSet (i : Nat) (e : List Byte) (b : Block) : Block :=
  let n := ef e 4 0 5
  let cs := shareCtxs e
  let off (j : Nat) : Nat := 20 + 4 * j
  if n = 0 ∨ 27 < n then admBad i .badParam 16 b else
  match firstBelow n (fun j => decide (nContexts b ≤ cs.getD j 0) || (cs.take j).contains (cs.getD j 0)) with
  | some j => admBad i .badParam (off j) b
  | none =>
    match firstBelow n (fun j => (ctxOf b (cs.getD j 0)).state != .active) with
    | some j => admBad i .badState (off j) b
    | none =>
      admFinal i .ok ((List.range n).foldl (fun b j =>
        modSchCtx (cs.getD j 0) (fun r => { r with share := ef e (5 + j) 16 16 }) b) b)

/-! ### The pool's head (R317) -/

/-- Deficit of context `c` on slot `k`. -/
def deficitOf (b : Block) (k c : Nat) : Int := tget 0 (schOf b k).deficit c

/-- Bring the active list up to date: a context that leaves keeps a negative deficit and loses a positive one. -/
def syncActive (k : Nat) (b : Block) : Block :=
  let now := activeNow b k
  if now == (schOf b k).active then b else
  let gone := (schOf b k).active.filter (fun c => !now.contains c)
  modSch k (fun s => { s with
    active := now, tenure := s.tenure.filter (now.contains ·),
    deficit := gone.foldl (fun t c => if 0 < tget 0 t c then tset 0 t c 0 else t) s.deficit }) b

/-- CORE tesserae of slot `k` on this chip. -/
def coresOf (b : Block) (k : Nat) : Nat := (bitsOf (mosOf b k).cores (nCores b)).length

/-- A context that becomes head adds its quantum, less its repayment (R317, R320). -/
def addQuantum (k c : Nat) (b : Block) : Block :=
  let q := (schCtx b c).share * 2 ^ b.sch.quantumLog2
  let n := coresOf b k
  let pay := if n = 0 then 0 else min (schCtx b c).debt (ceilDiv q n)
  let b := modSchCtx c (fun r => { r with debt := r.debt - pay }) b
  modSch k (fun s => { s with tenure := some c, deficit := tmod 0 s.deficit c (fun d => d + (q : Int) - (pay * n : Nat)) }) b

/-- The head of slot `k`: the first context of the active list that has a share. -/
def headOf (b : Block) (k : Nat) : Option Nat := (schOf b k).active.find? (fun c => (schCtx b c).share != 0)

/-- Context `c` moves to the tail of the active list. -/
def toTail (k c : Nat) (b : Block) : Block :=
  modSch k (fun s => { s with active := s.active.filter (· != c) ++ [c], tenure := none }) b

/-- Pass the head on: each context that becomes head adds its quantum, and stays head with a deficit above 0. -/
def headLoop (k : Nat) : Nat → Block → Block
  | 0, b => b
  | fuel + 1, b =>
    match headOf b k with
    | none => b
    | some c =>
      let b := addQuantum k c b
      if 0 < deficitOf b k c then b else headLoop k fuel (toTail k c b)

/-- HEAD_ADVANCE of slot `k`: a head that has its tenure and a deficit above 0 stays; else the head passes on, each context that
has a share becoming head at most once. -/
def headAdvance (k : Nat) (b : Block) : Block :=
  if !(schOf b k).running then b else
  let b := syncActive k b
  let n := ((schOf b k).active.filter (fun c => (schCtx b c).share != 0)).length
  match headOf b k with
  | none => b
  | some c =>
    if (schOf b k).tenure == some c then
      if 0 < deficitOf b k c then b else headLoop k n (toTail k c b)
    else headLoop k n b

/-! ### Spans (R319, R321) -/

/-- A span has ended: its operation is over, or the section's last operation. -/
def spanOver (b : Block) (s : Span) : Bool :=
  let closed : Bool := match s.sect with
    | none => true
    | some x =>
      (match (if s.inst = 0 then (subOf b s.q s.sid).map (·.lch) else (b.bat.insts.find? (·.id == s.inst)).map (·.lch)) with
       | some l => l.sections.any (·.1 == x) || l.ended
       | none => true)
  closed && (b.dep.ops.filter (fun o => spanOf o s)).all (opOver b)

/-- A span is in overrun: its queue is not entitled on its slot now (R319). -/
def inOverrun (b : Block) (s : Span) : Bool := !spanOver b s && !entitled b s.slot s.q

/-- OVERRUN_LIMIT_EXPIRY of queue `q` (R321). -/
def overrunExpiry (q : Nat) (b : Block) : Block :=
  let c := ctxOfQueue q
  match b.sch.spans.find? (fun s => s.q == q && decide (2 ^ (schCtx b c).limLog2 ≤ s.cyc) && !spanOver b s) with
  | none => b
  | some s =>
    let off := match s.oid.bind (opOf b) with
      | some o => packetOff b o
      | none => (match (b.dep.ops.find? (fun o => spanOf o s)) with
        | some o => if o.inst = 0 then s.sect.getD 0 else packetOff b o
        | none => s.sect.getD 0)
    let b := failSub q s.sid { status := .overrunLimit, kind := 3, detail := off } b
    let b := modSchCtx c (fun r => { r with overruns := (r.overruns + 1) % 2 ^ 32 }) b
    report (uccReport 0x17 3 q .overrunLimit off) b

/-! ### What every command leaves to SCH -/

/-- The owner's Q0 has released an operation since SCH last looked. -/
def ownerReleased (b : Block) (k c : Nat) : Bool :=
  (workOfQueue b k (6 * c)).any (fun o => decide ((schOf b k).relSeen ≤ o.relNo))

/-- One slot after a command: squares of the board it runs or stores that act as POOL, and for a slot that runs one the active
list and the withdrawal of pool time by an RT owner's release (R318). A release in withheld cycles withdraws nothing, since the
square stays lent (DEDUCED, log entry 49). -/
def settleSlot (k : Nat) (b : Block) : Block :=
  if !(schOf b k).running then (if (schOf b k).loaded then markPool k b else b) else
  let b := syncActive k (markPool k b)
  if squareEnds b k then b else
  match rtOwner b k with
  | none => modSch k (fun s => { s with wasLent := false, relSeen := b.dep.nextRel }) b
  | some c =>
    let took := (schOf b k).wasLent && ownerReleased b k c && !withheld b k
    let idle := (workOfQueue b k (6 * c)).isEmpty
    let b := modSch k (fun s => { s with wasLent := idle, relSeen := b.dep.nextRel }) b
    if took then withdrawTime k (fun q => classOf q != 0) b else b

/-- Every slot after a command, the pieces that wait for a domain to wake (R387), and the spans that have ended. -/
def settleSched (b : Block) : Block :=
  let b := { b with sch := { b.sch with spans := b.sch.spans.filter (fun s => !spanOver b s) } }
  (b.sch.slots.map (·.1)).foldl (fun b k => placeWake k (settleSlot k b)) b

/-! ### Accounting in a CLK_HUB cycle (R317, R319, R320, R323, R326) -/

/-- The operation that occupies core `core` by one of its pieces or chunks (R150): the one of a pass that has not reported, else
the one that waits in the core's entry or, as a chunk, in the shadow bank. -/
def occupant (b : Block) (core : Nat) : Option Nat :=
  let s := seqrOf b (core / 8)
  let c := coreOf b core
  (c.active.map (·.oid)).or ((((banksOf s).find? (·.chunk.isSome)).map (·.oid)).or
    ((c.next.map (·.oid)).or ((s.shadow.filter (·.chunk.isSome)).map (·.oid))))

/-- The operations that occupy cores of this chip, one entry for each core. -/
def occupants (b : Block) : List Op :=
  (b.seq.seqrs.map (fun e => (List.range 8).filterMap (fun i => (occupant b (8 * e.1 + i)).bind (opOf b)))).flatten

/-- Charge one core-cycle to an operation's context on its slot. -/
def chargeOne (o : Op) (b : Block) : Block :=
  modSchCtx o.ctx (fun r => { r with engine := (r.engine + 1) % 2 ^ 64 })
    (modSch o.slot (fun s => { s with deficit := tmod 0 s.deficit o.ctx (· - 1) }) b)

/-- The addition of a collective waits to be placed. -/
def addWaits (j : Job) : Bool := j.tiles.any (fun t => t.epi && tileLeft t)

/-- An operation that R311 gates is released and none of its pieces or chunks has been placed (R323); of a COLLECTIVE, R311
gates each local step, so each addition waits for itself (DEDUCED, log entry 49). -/
def unplaced (b : Block) (o : Op) : Bool :=
  o.stage == .released && (match jobOf b o.oid with
    | some j => !j.aborted && j.back.isEmpty && j.done == 0 && (j.next == 0 && j.tiles.isEmpty || addWaits j)
    | none => false)

/-- The queues that wait in this cycle. -/
def waitingQueues (b : Block) : List Nat := ((b.dep.ops.filter (unplaced b)).map (·.q)).dedup

/-- Spans in overrun count a cycle each, and their contexts' debts rise by one. -/
def overrunTick (b : Block) : Block :=
  let lim (s : Span) : Nat := 2 ^ (schCtx b (ctxOfQueue s.q)).limLog2
  let hit (s : Span) : Bool := inOverrun b s && decide (s.cyc < lim s)
  let cs := ((b.sch.spans.filter hit).map (fun s => ctxOfQueue s.q)).dedup
  let spans := b.sch.spans.map (fun s => if hit s then { s with cyc := s.cyc + 1 } else s)
  let b := { b with sch := { b.sch with spans := spans } }
  cs.foldl (fun b c => modSchCtx c (fun r => { r with debt := satAdd 32 r.debt 1 }) b) b

/-- RT squares that ended with a pass of their owner running count the cycles it goes on. -/
def lateTick (k : Nat) (b : Block) : Block :=
  let runs := (schOf b k).late.filter (fun x => rtRuns b k x.1)
  modSch k (fun s => { s with late := runs, sqCyc := satAdd 32 s.sqCyc runs.length }) b

/-- SCH in one CLK_HUB cycle. -/
def schTick (b : Block) : Block :=
  let b := (occupants b).foldl (fun b o => chargeOne o b) b
  let b := (waitingQueues b).foldl (fun b q => modSchCtx (ctxOfQueue q) (fun r => { r with wait := (r.wait + 1) % 2 ^ 64 }) b) b
  (b.sch.slots.map (·.1)).foldl (fun b k => lateTick k b) (overrunTick b)

/-! ### BUCKET_REFILL, UPDATE_POINT, POWER_WINDOW -/

/-- BUCKET_REFILL of slot `k`: each 1,024th CLK_SEQ edge not taken yet makes the settings written take effect and adds RATE
units, the level staying within BURST (R322, R326). -/
def bucketRefill (k : Nat) (b : Block) : Block :=
  let e := b.time.seq / 1024
  let s := schOf b k
  let last := max s.refill b.sch.edges
  if e ≤ last then b else
  modSch k (fun s =>
    let rises := s.bwNext.en && !s.bw.en
    let lvl : Int := if rises then s.bwNext.burst else min (s.bwNext.burst : Int) (s.level + ((e - last) * s.bwNext.rate : Nat))
    { s with bw := s.bwNext, level := lvl, refill := e }) b

/-- An update point of context `c` has come (R324). -/
def updateDue (b : Block) (c : Nat) : Bool :=
  let k := (ctxOf b c).slot
  let s := schOf b k
  let r := schCtx b c
  if (mosOf b k).state == .free then decide (r.lastUpd + 2 ^ 20 ≤ hubNow b)
  else s.running && decide (r.lastUpd < s.start) && s.turned

/-- UPDATE_POINT of context `c`: the tenant's copies are taken. -/
def updatePoint (c : Nat) (b : Block) : Block :=
  if (ctxOf b c).state == .free || !updateDue b c then b else
  let now := hubNow b
  modSchCtx c (fun r => { r with cEngine := r.engine / 4096, cWait := r.wait / 4096, cPre := r.preempts,
                                 updates := (r.updates + 1) % 2 ^ 32, lastUpd := now }) b

/-- POWER_WINDOW: a window of 2,500,000 CLK_REF cycles ends (R324). -/
def powerWindow (b : Block) : Block :=
  let s := b.sch
  if refNow b < s.powDue then b else
  let w := if s.powN = 0 then 0 else s.powSum / s.powN / 1000 / 5 * 5
  { b with sch := { s with watts := w, window := s.window + 1, powDue := s.powDue + 2500000, powSum := 0, powN := 0 } }

end Sys2Proof.Machine
end

