-- ==== Sys2Proof/Machine/Sideband.lean ====
section
/-! DEFINITION. The key sideband: operations queued for the instances of `ks_`, their issue and their bound, and the link
keys of mosaics (R343 to R345). -/

namespace Sys2Proof.Machine

/-- The memory-path instances, one for each configured channel (R343). -/
def memInsts (b : Block) : List Nat := List.range (nChannels b)

/-- The link instances of a mask of ports (R343). -/
def linkInsts (b : Block) (mask : Nat) : List Nat := (bitsOf mask (nPorts b)).map (· + 64)

/-- The jobs that can be issued now: none of their instances is needed by an earlier job that has not ended (R344). -/
def ksReady : List Nat → List KsJob → List KsJob
  | _, [] => []
  | busy, j :: js =>
    let free : Bool := j.insts.all (fun i => !busy.contains i)
    let rest := ksReady (busy ++ j.insts) js
    if j.issued || !free then j :: rest else { j with issued := true } :: rest

/-- Drive an operation on each of its instances. -/
def ksDrive (j : KsJob) (b : Block) : Block :=
  j.insts.foldl (fun b i => emit (.ks i j.op j.handle j.args) b) b

/-- Issue what can be issued; the acknowledgement is due within 1,024 CLK_HUB cycles (R344). -/
def ksPump (b : Block) : Block :=
  let now := hubNow b
  let jobs := ksReady [] b.sec.jobs
  let new := (jobs.zip b.sec.jobs).filter (fun x => x.1.issued && !x.2.issued)
  let jobs := (jobs.zip b.sec.jobs).map (fun x => if x.1.issued && !x.2.issued then { x.1 with dead := now + 1024 } else x.1)
  let b := { b with sec := { b.sec with jobs := jobs } }
  new.foldl (fun b x => ksDrive x.1 b) b

/-- Queue an operation for a list of instances; one that concerns none has nothing to do. -/
def ksAdd (op : KsOp) (handle : Nat) (args insts : List Nat) (u : KsUse) (b : Block) : Block :=
  if insts.isEmpty then b else
  let j : KsJob := { op := op, handle := handle, args := args, insts := insts, issued := false, dead := 0, use := u }
  ksPump { b with sec := { b.sec with jobs := b.sec.jobs ++ [j] } }

/-- Install the link key of slot `k`, with its generation, on a mask of ports (R345). -/
def linkInstall (k mask : Nat) (b : Block) : Block :=
  let m := mosOf b k
  ksAdd .linkSet k [leNat m.key, m.id, m.gen] (linkInsts b mask) (.link k m.gen) b

/-- Remove a generation of slot `k` from a mask of ports (R345). -/
def linkRemove (k gen mask : Nat) (b : Block) : Block :=
  ksAdd .linkClear k [0, (mosOf b k).id, gen] (linkInsts b mask) (.unlink k) b

/-- Remove the superseded generations of slot `k` from a mask of ports. -/
def linkOld (k mask : Nat) (b : Block) : Block :=
  (mosOf b k).prevKeys.foldl (fun b x => linkRemove k x.1 mask b) b

/-- Remove every generation of slot `k` from a mask of ports. -/
def linkDrop (k mask : Nat) (b : Block) : Block :=
  let m := mosOf b k
  if m.key.isEmpty then b else linkOld k mask (linkRemove k m.gen mask b)

/-- Ports of mask `x` that are not in mask `y`. -/
def maskMinus (x y : Nat) : Nat := (bitsOf x 72).foldl (fun m p => if bitOf y p then m else setBit m p) 0

end Sys2Proof.Machine
end

