-- ==== Sys2Proof/Machine/Serdo.lean ====
section
/-! DEFINITION. Serdo messages: numbering, authentication, sending, and the acceptance of a received message (R291 to
R294). -/

namespace Sys2Proof.Machine

/-! ### Sending -/

/-- The header of a message: 16 bytes in version 1, 32 in version 2 (R292). -/
def serdoHeader (m : SerdoMsg) : List Byte :=
  if m.ver = 1 then
    leBytes (m.body.length + at_ m.typ 16 + at_ 1 28) 4 ++ leBytes (m.dst + at_ m.src 16) 4
    ++ leBytes (at_ m.hops 8 + at_ m.mosaic 16) 4 ++ leBytes (m.seq % 2 ^ 32) 4
  else leBytes (m.body.length + at_ m.typ 16 + at_ (b2n m.auth) 27 + at_ m.ver 28) 4
  ++ leBytes (m.dst + at_ m.src 16) 4 ++ leBytes (m.epoch + at_ m.hops 8 + at_ m.mosaic 16) 4
  ++ leBytes m.seq 8 ++ List.replicate 12 0

/-- The tag of a message under a link key: AES-256-GCM with an empty plaintext (R293), over the header as its sender
wrote it, HOPS at 64 (R294; DEDUCED, log entry 19). -/
def serdoTag (key : List Byte) (m : SerdoMsg) : List Byte :=
  let m := { m with hops := 64 }
  gcmTag key (leBytes m.src 2 ++ [0, 0] ++ leBytes m.seq 8) (serdoHeader m ++ m.body)

/-- The output port for node `d` in the current epoch; none where it has no route (R294). -/
def routePort (b : Block) (d : Nat) : Option Nat :=
  let e := tget 0 (epochOf b (b.fab.epoch % 4)).routes d
  if bitOf e 15 then some (fld e 0 7) else none

/-- A message in the version that the link of port `p` uses: where that is 1, EPOCH is zero and SEQ wraps (R292, R293). A
version-1 message that goes on by a link of version 2 keeps its SEQ, and EPOCH 0 (DESIGN CHOICE, log entry 19). -/
def onLink (b : Block) (p : Nat) (m : SerdoMsg) : SerdoMsg :=
  if (portOf b p).ver = 1 then { m with ver := 1, epoch := 0, seq := m.seq % 2 ^ 32 }
  else if m.ver = 1 then { m with ver := 2, auth := false } else m

/-- A neighbour message of type `typ` on port `p`, in the version the link uses (R293). -/
def neighbour (b : Block) (p typ : Nat) (body : List Byte) : SerdoMsg :=
  onLink b p { ver := 2, auth := false, typ := typ, src := b.fab.node, dst := 0x3FFF, mosaic := 0, hops := 64,
               epoch := b.fab.epoch, seq := b.fab.seqOut + 1, body := body, tag := [] }

/-- Count a fabric message as sent. -/
def bumpSeq (b : Block) : Block := { b with fab := { b.fab with seqOut := b.fab.seqOut + 1 } }

/-- Send a neighbour message on port `p`. -/
def sendPort (typ : Nat) (body : List Byte) (p : Nat) (b : Block) : Block :=
  bumpSeq (emit (.serdo p (neighbour b p typ body)) b)

/-- Send a neighbour message on each of a list of ports. -/
def sendPorts (typ : Nat) (body : List Byte) (ps : List Nat) (b : Block) : Block :=
  ps.foldl (fun b p => sendPort typ body p b) b

/-- The port for a fabric message to node `d`: its primary port in the current epoch, else the port that leads to it while a
block joins (R294, R306; the latter DESIGN CHOICE, log entry 17). -/
def nodePort (b : Block) (d : Nat) : Option Nat :=
  match routePort b d with
  | some p => some p
  | none => if tget 0 b.fab.via d = 0 then none else some (tget 0 b.fab.via d - 1)

/-- Send a fabric message to node `d`; a node without a route gets none (R294). -/
def sendNode (typ : Nat) (body : List Byte) (d : Nat) (b : Block) : Block :=
  match nodePort b d with
  | none => { b with fab := { b.fab with dropNoroute := satAdd 16 b.fab.dropNoroute 1 } }
  | some p => bumpSeq (emit (.serdo p { neighbour b p typ body with dst := d }) b)

/-- The port a mosaic message to node `d` goes out on; none where the link speaks version 1 only, since mosaic messages use
version 2 (R293, R294; that such a message is counted under NOROUTE is DESIGN CHOICE, log entry 19). -/
def mosPort (b : Block) (d : Nat) : Option Nat := (routePort b d).filter (fun p => (portOf b p).ver != 1)

/-- Send a mosaic message of slot `k` to node `d`: version 2, AUTH set once the mosaic has a key (R293). -/
def sendMos (typ : Nat) (body : List Byte) (k d : Nat) (b : Block) : Block :=
  match mosPort b d with
  | none => { b with fab := { b.fab with dropNoroute := satAdd 16 b.fab.dropNoroute 1 } }
  | some p =>
    let r := mosOf b k
    let m : SerdoMsg := { ver := 2, auth := !r.key.isEmpty, typ := typ, src := b.fab.node, dst := d, mosaic := r.id,
                          hops := 64, epoch := b.fab.epoch, seq := r.seq + 1, body := body, tag := [] }
    let m := if m.auth then { m with tag := serdoTag r.key m } else m
    emit (.serdo p m) (modMos k (fun r => { r with seq := r.seq + 1 }) b)

/-- Send a mosaic message to each other member of slot `k`. -/
def sendMembers (typ : Nat) (body : List Byte) (k : Nat) (b : Block) : Block :=
  ((memberNodes b k).filter (· != b.fab.node)).foldl (fun b d => sendMos typ body k d b) b

/-- Ports that are up. -/
def upPorts (b : Block) : List Nat := (List.range (nPorts b)).filter (fun p => (portOf b p).up)

/-- Ports that are up with their HELLO exchange complete (R278). -/
def helloPorts (b : Block) : List Nat := (List.range (nPorts b)).filter (fun p => (portOf b p).up && (portOf b p).hello)

/-! ### Receiving -/

/-- A message of the type was discarded under AUTH. -/
def dropAuth (b : Block) : Block := { b with fab := { b.fab with dropAuth := satAdd 16 b.fab.dropAuth 1 } }

/-- A message was discarded under REPLAY. -/
def dropReplay (b : Block) : Block := { b with fab := { b.fab with dropReplay := satAdd 16 b.fab.dropReplay 1 } }

/-- A message was discarded under NOROUTE. -/
def dropNoroute (b : Block) : Block := { b with fab := { b.fab with dropNoroute := satAdd 16 b.fab.dropNoroute 1 } }

/-- A message was discarded under OVERFLOW. -/
def dropOverflow (b : Block) : Block := { b with fab := { b.fab with dropOverflow := satAdd 16 b.fab.dropOverflow 1 } }

/-- Types that name a mosaic (R294). -/
def mosaicType (t : Nat) : Bool := decide (0x10 ≤ t) && decide (t ≤ 0x14) || decide (0x20 ≤ t) && decide (t ≤ 0x22)
  || decide (0x28 ≤ t) && decide (t ≤ 0x2B) || t == 0x30 || t == 0x31 || t == 0x38

/-- Types listed by R294. -/
def listedType (t : Nat) : Bool := decide (1 ≤ t) && decide (t ≤ 0x0A) || decide (0x18 ≤ t) && decide (t ≤ 0x1C)
  || mosaicType t

/-- Types for the neighbour on the arrival port only. -/
def neighbourType (t : Nat) : Bool := decide (1 ≤ t) && decide (t ≤ 4) || t == 6 || t == 7

/-- Pass a message on by port `p`, with HOPS decremented, in the version of the link (R293, R294). -/
def serdoPass (m : SerdoMsg) (p : Nat) (b : Block) : Block :=
  emit (.serdo p { onLink b p m with hops := m.hops - 1 }) b

/-- Pass a flooded message on by every up port but the one it came by (R294, R304). -/
def serdoFlood (port : Nat) (m : SerdoMsg) (b : Block) : Block :=
  ((helloPorts b).filter (· != port)).foldl (fun b p => serdoPass m p b) b

/-- Forward a message for another node that came by port `port`, or discard it (R294). The way of a JOIN_REQUEST is kept for its
ASSIGN, since the block that joins has no node ID yet (R306; DESIGN CHOICE, log entry 17). -/
def serdoForward (port : Nat) (m : SerdoMsg) (b : Block) : Block :=
  match (if m.mosaic = 0 then nodePort b m.dst else mosPort b m.dst) with
  | none => dropNoroute b
  | some p =>
    let b := serdoPass m p b
    if m.typ = 0x0A then { b with fab := { b.fab with relays := b.fab.relays ++ [(p, port)] } } else b

/-- The link key verifies the tag: the one in force, or one before it while its traffic is in flight (R293, R295). -/
def tagOk (r : MosRec) (m : SerdoMsg) : Bool :=
  (!r.key.isEmpty && serdoTag r.key { m with tag := [] } == m.tag) ||
  r.prevKeys.any (fun k => serdoTag k.2 { m with tag := [] } == m.tag)

/-- Record the SEQ accepted from node `n` in slot `k`. -/
def noteSeq (k n seq : Nat) (b : Block) : Block :=
  modMos k (fun r => { r with members := r.members.map (fun x =>
    if x.node == n then { x with lastSeq := some seq } else x) }) b

/-- A join or agreement message of a chip that the leader's list of slot `k` does not name yet is kept for the rebind that will
name it, since the chip sends it once (R274, R295; DESIGN CHOICE, log entry 16). -/
def keepEarly (k : Nat) (m : SerdoMsg) (b : Block) : Block :=
  let s := (mosOf b k).state
  if (m.typ == 0x10 || m.typ == 0x12) && leads b k && (s == .ready || s == .rebinding || s == .broken) then
    modMos k (fun r => { r with early := r.early.filter (fun x => x.src != m.src || x.typ != m.typ) ++ [m] }) b
  else dropAuth b

/-- A mosaic message passes the checks of R293: its slot, and the state with its SEQ noted. A member that joins a keyed
mosaic holds no key yet: its join and agreement messages pass without AUTH (DEDUCED, log entry 16). -/
def mosaicAccept (m : SerdoMsg) (b : Block) : Option Nat × Block :=
  if m.ver ≠ 2 then (none, dropAuth b) else
  match slotOfId b m.mosaic with
  | none => (none, dropNoroute b)
  | some k =>
    let r := mosOf b k
    match r.members.find? (·.node == m.src) with
    | none => (none, keepEarly k m b)
    | some x =>
      let joins : Bool := r.state == .keying && (m.typ == 0x10 || m.typ == 0x12 || m.typ == 0x13)
      if !r.key.isEmpty && !(m.auth && tagOk r m) && !(joins && !m.auth) then (none, dropAuth b)
      else if (match x.lastSeq with | some s => decide (m.seq ≤ s) | none => false) then (none, dropReplay b)
      else (some k, noteSeq k m.src m.seq b)

/-- The beats of 32 bytes that carry a message (R291). -/
def beatsOf (m : SerdoMsg) : Nat := ceilDiv ((if m.ver = 1 then 16 else 32) + m.body.length + m.tag.length) 32

/-- PD_FAB is not ON: the beats are kept in a buffer of 2 KiB, 64 of them; each beat beyond it is discarded and counted, and a
message that lost a beat is lost (DEDUCED, log entry 33); the domain wakes (R386, R387). -/
def serdoSleep (port : Nat) (m : SerdoMsg) (b : Block) : Block :=
  let n := beatsOf m
  let room := 64 - b.fab.heldBeats
  let b := { b with fab := { b.fab with heldBeats := b.fab.heldBeats + min n room } }
  let b := if n ≤ room then { b with fab := { b.fab with heldRx := b.fab.heldRx ++ [(port, m)] } }
           else { b with fab := { b.fab with dropOverflow := satAdd 16 b.fab.dropOverflow (n - room) } }
  wake 3 4 b

/-- Little-endian field of a message body. -/
def bodyNat (m : SerdoMsg) (off len : Nat) : Nat := leNat (slice m.body off len)

end Sys2Proof.Machine
end

