-- ==== Sys2Proof/Machine/Pools.lean ====
section
/-! DEFINITION. State pools: page arithmetic, allocation, the page map, and BAT's writes to memory (R237 to R240, R253). -/

namespace Sys2Proof.Machine

/-! ### Page arithmetic (R239) -/

/-- D(n): data pages that hold n positions. -/
def dataPages (pt n : Nat) : Nat := ceilDiv n pt

/-- The least h with f ^ h ≥ d, at least `h`. -/
def levelsFrom (f d : Nat) : Nat → Nat → Nat
  | 0, h => h
  | fuel + 1, h => if d ≤ f ^ h then h else levelsFrom f d fuel (h + 1)

/-- h(D). -/
def mapLevels (f d : Nat) : Nat := if d = 0 then 0 else levelsFrom f d 64 1

/-- Map pages of each level from the leaves up. -/
def mapCounts (f d : Nat) : List Nat := (List.range (mapLevels f d)).map (fun j => ceilDiv d (f ^ (j + 1)))

/-- M(D). -/
def mapPages (f d : Nat) : Nat := (mapCounts f d).foldl (· + ·) 0

/-- Bytes of a page. -/
def Pool.pageBytes (p : Pool) : Nat := 2 ^ p.pageLog2

/-- F: entries of a map page (R238). -/
def Pool.fan (p : Pool) : Nat := p.pageBytes / 8

/-- P(n): pages that hold n positions. -/
def Pool.need (p : Pool) (n : Nat) : Nat := dataPages p.pageTok n + mapPages p.fan (dataPages p.pageTok n)

/-- META_BYTES of a pool for S sequences (R237). -/
def metaBytes (s pages pageLog2 : Nat) : Nat := ceilDiv (64 * s + 4 * pages) (2 ^ pageLog2) * 2 ^ pageLog2

/-- The virtual address of page `k` of pool `p`. -/
def pageAddr (b : Block) (p : Pool) (k : Nat) : Nat :=
  p.base + metaBytes (nSequences b) p.pages p.pageLog2 + k * p.pageBytes

/-- Free pages. -/
def Pool.free (p : Pool) : Nat := p.stack.length + (p.pages - p.fresh)

/-- Page number that entry `j` of the free stack holds, entry 0 at the bottom: a pool just configured has page 0 on top (the
order is DESIGN CHOICE, log entry 13). -/
def Pool.entry (p : Pool) (j : Nat) : Nat :=
  let low := p.pages - p.fresh
  if j < low then p.pages - 1 - j else p.stack.reverse.getD (j - low) 0

/-- The 8-byte word `w` of the free stack. -/
def Pool.stackWord (p : Pool) (w : Nat) : Nat := p.entry (2 * w) + at_ (p.entry (2 * w + 1)) 32

/-- The accesses to the free stack's words that hold entries `lo` to `hi` − 1 (R253). -/
def stackRun (s slot what : Nat) (rd : Bool) (p : Pool) (lo hi : Nat) : List BatWr :=
  if hi ≤ lo then [] else
  (List.range ((hi - 1) / 2 - lo / 2 + 1)).map (fun i =>
    let w := lo / 2 + i
    { rd := rd, slot := slot, what := what, addr := p.base + 64 * s + 8 * w, n := 1,
      val := if rd then 0 else p.stackWord w })

/-- Take `k` pages off the free stack. -/
def takePages (k : Nat) (p : Pool) : List Nat × Pool :=
  let n := min k p.stack.length
  (p.stack.take n ++ (List.range (k - n)).map (fun i => p.fresh + i),
   { p with stack := p.stack.drop n, fresh := p.fresh + (k - n), cached := p.cached - k })

/-- The reads of the entries that a take of `k` pages needs and the block does not hold. -/
def takeReads (s slot what k : Nat) (p : Pool) : List BatWr :=
  stackRun s slot what true p (p.free - k) (p.free - p.cached)

/-- Return pages to the free stack; a FAILED pool frees nothing (R240). The block holds at most the top 128 entries. -/
def givePages (l : List Nat) (p : Pool) : Pool :=
  if p.failed then p else { p with stack := l ++ p.stack, cached := min 128 (p.cached + l.length) }

/-- The writes of the entries that the block no longer holds once pages are returned; `was` is the pool before. -/
def giveWrites (s slot what : Nat) (was p : Pool) : List BatWr :=
  stackRun s slot what false p (was.free - was.cached) (p.free - p.cached)

/-! ### BAT's accesses (R253) -/

/-- Queue a run of words. -/
def batWrite (w : BatWr) (b : Block) : Block :=
  if w.n = 0 then b else { b with bat := { b.bat with wrq := b.bat.wrq ++ [w] } }

/-- The ports BAT uses for a mosaic slot: the sequencers that serve its CORE tesserae, lowest first, at most eight; SEQ0
where it has none. -/
def batPorts (b : Block) (slot : Nat) : List Nat :=
  let l := (List.range (nSeqrs b)).filter (fun n => (List.range 8).any (fun i => bitOf (mosOf b slot).cores (8 * n + i)))
  if l.isEmpty then [0] else l.take 8

/-- Tags BAT holds on a port. -/
def batTags (s : Seqr) : Nat :=
  (s.dd.filter (fun e => match e.2 with | some { owner := .bat _ _, .. } => true | _ => false)).length

/-- Issue one 8-byte access of BAT, an ATOM8 SET or a READ8, on the first port with room. -/
def batIssue (rd : Bool) (slot what addr val : Nat) (b : Block) : Option Block :=
  let c := (poolOwner b slot).getD 0
  let d := if rd then plainDesc b c slot 5 0 none (words64 addr ++ [0, 0, 0])
    else plainDesc b c slot 6 0 none (words64 addr ++ [0] ++ words64 val)
  (batPorts b slot).findSome? (fun n =>
    if batTags (seqrOf b n) < 8 then ddIssue n (.bat slot what) d b else none)

/-- The word of a pool's directory and free stack at index `i`: the directory is zero, the stack holds every free page
(R237). -/
def initWord (b : Block) (p : Pool) (i : Nat) : Nat :=
  let dir := 8 * nSequences b
  if i < dir then 0 else p.stackWord (i - dir)

/-- Issue the next word of a pool being configured. -/
def poolInitStep (k : Nat) (b : Block) : Option Block :=
  let p := poolOf b k
  if p.initEnd ≤ p.initPos ∨ p.failed = true then none else
  (batIssue false p.slot (1 + k) (p.base + 8 * p.initPos) (initWord b p p.initPos) b).map
    (modPool k (fun p => { p with initPos := p.initPos + 1, initOut := p.initOut + 1 }))

/-- One access of BAT: the first queued run, else the next word of a pool being configured. -/
def batStep (b : Block) : Option Block :=
  match b.bat.wrq with
  | w :: ws =>
    (batIssue w.rd w.slot w.what w.addr w.val b).map (fun b =>
      let ws := if w.n ≤ 1 then ws else { w with addr := w.addr + 8, n := w.n - 1 } :: ws
      { b with bat := { b.bat with wrq := ws } })
  | [] => (b.bat.pools.map (·.1)).findSome? (fun k => poolInitStep k b)

/-- BAT issues as many accesses as its tags allow, at most `fuel`. -/
def batPump : Nat → Block → Block
  | 0, b => b
  | fuel + 1, b => match batStep b with
    | some b => batPump fuel b
    | none => b

/-- Every access of mosaic slot `slot` is issued and acknowledged (R252). -/
def batQuiet (b : Block) (slot : Nat) : Bool :=
  !(b.bat.wrq.any (·.slot == slot)) &&
  !(b.seq.seqrs.any (fun e => e.2.dd.any (fun d => match d.2 with
    | some { owner := .bat s _, .. } => s == slot
    | _ => false)))

/-! ### The page map (R238, R239) -/

/-- Split a list of new pages over the levels of a map: the data pages first, then each level. -/
def spread (old : List (List Nat)) : List Nat → List Nat → List (List Nat)
  | [], _ => []
  | n :: ns, fresh =>
    let o := old.headD []
    let k := n - o.length
    (o ++ fresh.take k) :: spread (old.drop 1) ns (fresh.drop k)

/-- Writes of one map page: entries of children from `from_` on, then zeros to the end where the page is new. -/
def mapWrites (f : Nat) (slot what page : Nat) (addr : Nat → Nat) (kids : List Nat) (from_ : Nat) (zeros : Nat) :
    List BatWr :=
  ((kids.drop from_).zipIdx.map (fun x =>
    ({ rd := false, slot := slot, what := what, addr := page + 8 * (from_ + x.2), n := 1, val := addr x.1 } : BatWr)))
  ++ [{ rd := false, slot := slot, what := what, addr := page + 8 * kids.length, n := min zeros (f - kids.length), val := 0 }]

/-- Writes of the map pages of one level, whose children are `kids`: `was` of them and `had` pages were there before. -/
def levelWrites (f slot what : Nat) (addr : Nat → Nat) (pages kids : List Nat) (had was : Nat) : List BatWr :=
  (pages.zipIdx.map (fun x =>
    let mine := (kids.drop (x.2 * f)).take f
    let before := min f (was - x.2 * f)
    if had ≤ x.2 then mapWrites f slot what (addr x.1) addr mine 0 f
    else mapWrites f slot what (addr x.1) addr mine (min before mine.length) (before - mine.length))).flatten

/-- Writes of every level of a map. -/
def mapDiff (f slot what : Nat) (addr : Nat → Nat) : List (List Nat) → List (List Nat) → List BatWr
  | old, kids :: pages :: rest =>
    levelWrites f slot what addr pages kids (old.drop 1 |>.headD []).length (old.headD []).length
    ++ mapDiff f slot what addr (old.drop 1) (pages :: rest)
  | _, _ => []

/-- Writes of a directory entry (R238). -/
def dirWrites (s : Seqn) (i : Nat) (p : Pool) : List BatWr :=
  let a := p.base + 64 * i
  [{ rd := false, slot := s.mslot, what := 1 + s.pool, addr := a, n := 1, val := s.mapRoot },
   { rd := false, slot := s.mslot, what := 1 + s.pool, addr := a + 8, n := 1, val := s.depth },
   { rd := false, slot := s.mslot, what := 1 + s.pool, addr := a + 16, n := 6, val := 0 }]

/-- Reads of the map entries of one level, whose children are `kids`, that named the children from `keep` on: BAT learns
from them which pages to return. -/
def mapReads (f slot what : Nat) (addr : Nat → Nat) (pages : List Nat) (keep kids : Nat) : List BatWr :=
  (List.range (kids - keep)).map (fun i =>
    let j := keep + i
    { rd := true, slot := slot, what := what, addr := addr (pages.getD (j / f) 0) + 8 * (j % f), n := 1, val := 0 })

/-- Reads of every level of a map whose levels hold `counts` pages after. -/
def mapLooks (f slot what : Nat) (addr : Nat → Nat) : List Nat → List (List Nat) → List BatWr
  | counts, kids :: pages :: rest =>
    mapReads f slot what addr pages (counts.headD 0) kids.length
    ++ mapLooks f slot what addr (counts.drop 1) (pages :: rest)
  | _, _ => []

/-- Sequence `i` now holds exactly the pages of `n` positions: pages are taken from or returned to its pool, and the
accesses to the map, the free stack and the directory queued. BAT reads the map entries of the pages it returns and the
entries of the free stack it does not hold; memory gives back what BAT wrote there, and when it reads is DESIGN CHOICE (log
entry 13). -/
def cover (i n : Nat) (b : Block) : Block :=
  let s := seqnOf b i
  let p := poolOf b s.pool
  let d := dataPages p.pageTok n
  let counts := d :: mapCounts p.fan d
  let old := s.dataPg :: s.mapPg
  let kept := (old.zipIdx).map (fun x => x.1.take (counts.getD x.2 0))
  let gone := ((old.zipIdx).map (fun x => x.1.drop (counts.getD x.2 0))).flatten
  let held := (kept.map List.length).foldl (· + ·) 0
  let need := counts.foldl (· + ·) 0
  let g := givePages gone p
  let t := takePages (need - held) g
  let lv := spread kept counts t.1
  let addr (k : Nat) : Nat := pageAddr b p k
  let root := match (lv.drop 1).getLast? with | some (r :: _) => addr r | _ => 0
  let s' := { s with dataPg := lv.headD [], mapPg := lv.drop 1, pages := need, depth := lv.length - 1, mapRoot := root }
  let b := modPool s.pool (fun _ => t.2) (modSeqn i (fun _ => s') b)
  let nseq := nSequences b
  let w := 1 + s.pool
  let ws := mapLooks p.fan s.mslot w addr counts old ++ giveWrites nseq s.mslot w p g
    ++ takeReads nseq s.mslot w (need - held) g ++ mapDiff p.fan s.mslot w addr old lv
    ++ (if s'.mapRoot ≠ s.mapRoot ∨ s'.depth ≠ s.depth then dirWrites s' i p else [])
  if p.failed then b else ws.foldl (fun b w => batWrite w b) b

/-- take(s, k): sequence `i` grows to `n` positions if its pool holds the pages it lacks, all of them (R249). -/
def takeFor (i n : Nat) (b : Block) : Option Block :=
  let s := seqnOf b i
  let p := poolOf b s.pool
  if p.need n ≤ s.pages then some b
  else if p.failed then none
  else if p.need n - s.pages ≤ p.free then some (cover i n b) else none

end Sys2Proof.Machine
end

