-- ==== Sys2Proof/Machine/Turns.lean ====
section
/-! DEFINITION. The turn loop: token rings, formation, index tables, commit, aborts (R232 to R261). -/

namespace Sys2Proof.Machine

/-! ### Token rings (R259 to R261) -/

/-- Records a ring can still take beside those reserved. -/
def TokRing.room (r : TokRing) : Nat :=
  let size := 2 ^ r.log2
  size - 1 - (r.tail + size - r.head) % size - r.resv

/-- The ring takes records: enabled and not UNDELIVERABLE. -/
def TokRing.usable (r : TokRing) : Bool := r.en && !r.undel

/-- A token record's bytes (R259). -/
def tokenRecord (r : TokRing) (tok pos status : Nat) (ends tv : Bool) (draft seq turn : Nat) : List Byte :=
  leBytes (if tv then tok else 0xFFFFFFFF) 4 ++ leBytes (pos % 2 ^ 32) 4
  ++ leBytes (seq + at_ draft 14 + at_ (b2n tv) 21 + at_ (b2n ends) 22 + at_ (b2n r.phase) 23 + at_ status 24) 4
  ++ leBytes (fld pos 32 8 + at_ (turn % 2 ^ 24) 8) 4

/-- Append a record to context `c`'s ring. -/
def ringPut (c : Nat) (rec : TokRing → List Byte) (b : Block) : Block :=
  modRing c (fun r =>
    let t := (r.tail + 1) % 2 ^ r.log2
    { r with recs := r.recs ++ [(r.tail, rec r, false)], tail := t, phase := if t = 0 then !r.phase else r.phase }) b

/-- Issue the first record of context `c` that waits (R253); after the last of its commit or formation, the context's token
vector is requested (R64, R260). -/
def ringStep (c : Nat) (b : Block) : Option Block :=
  let r := ringOf b c
  match r.recs with
  | [] => none
  | (k, d, isLast) :: rs =>
    if r.undel then none else
    (hostWrite (.token c k) (r.base + 16 * k) d (some (ctxOf b c).ast) b).map
      (fun x =>
        let b := modRing c (fun r => { r with recs := rs }) x.2
        if isLast then msix (4 * c + 2) b else b)

/-- Issue what waits in context `c`'s ring. -/
def ringPump (c : Nat) : Nat → Block → Block
  | 0, b => b
  | fuel + 1, b => match ringStep c b with
    | some b => ringPump c fuel b
    | none => b

/-- Issue what waits in every ring. -/
def pumpRings (b : Block) : Block :=
  (b.bat.rings.map (·.1)).foldl (fun b c => ringPump c 64 b) b

/-- Mark the last entry of a list of records. -/
def markLast : List (Nat × List Byte × Bool) → List (Nat × List Byte × Bool)
  | [] => []
  | [x] => [(x.1, x.2.1, true)]
  | x :: y :: l => x :: markLast (y :: l)

/-- Each context whose ring got a record since `was` owes one vector request, after the last of them is issued (R260). -/
def ringVectors (was : Block) (b : Block) : Block :=
  (b.bat.rings.map (·.1)).foldl (fun b c =>
    if (ringOf b c).recs.length ≠ (ringOf was c).recs.length then
      modRing c (fun r => { r with recs := markLast r.recs }) b else b) b

/-! ### Sequences -/

/-- A live sequence is in decode (R235). -/
def Seqn.decoding (s : Seqn) : Bool := decide (s.promptLen ≤ s.pos)

/-- Sequences of mosaic slot `k` in a state, ascending. -/
def seqsIn (b : Block) (k : Nat) (st : SeqState) : List Nat :=
  (b.bat.seqs.filter (fun e => e.2.mslot == k && e.2.state == st)).map (·.1)

/-- Some sequence of slot `k` is not FREE (R233, R275). -/
def seqsHeld (b : Block) (k : Nat) : Bool := b.bat.seqs.any (fun e => e.2.mslot == k && e.2.state != .free)

/-- The sequence reaches FREE: the SEQ_RETIRE operations that await it complete (R242). -/
def freeSeq (i : Nat) (b : Block) : Block :=
  let s := seqnOf b i
  let b := modSeqn i (fun s => { s with state := .free, retire := false, turnT := 0, retOps := [], owes := false }) b
  s.retOps.foldl (fun b o => completeOp o b) b

/-- A LEAVING sequence writes its end record once the ring has room, and becomes FREE (R235, R260). -/
def leaveSeq (i : Nat) (b : Block) : Block :=
  let s := seqnOf b i
  let r := ringOf b s.ctx
  if s.state != .leaving then b
  else if !s.owes then freeSeq i b
  else if r.usable && decide (0 < r.room) then
    let n := (loopOf b s.mslot).n + 1
    freeSeq i (ringPut s.ctx (fun r => tokenRecord r 0 s.pos s.reason true false 0 i n) b)
  else b

/-- Every LEAVING sequence that can leave does: its ring may have room again by the commit or the abort of any mosaic (R260). -/
def leaveAll (b : Block) : Block :=
  ((b.bat.seqs.filter (fun e => e.2.state == .leaving)).map (·.1)).foldl (fun b i => leaveSeq i b) b

/-- A sequence ends with a reason that no token record carries. -/
def endSeq (i reason : Nat) (b : Block) : Block :=
  modSeqn i (fun s => { s with state := .ended, reason := reason, owes := true }) b

/-! ### Instances of a turn template (R98, R246) -/

/-- Remove instances no loop runs any more, with their operations once all are over. -/
def pruneInsts (b : Block) : Block :=
  let over_ (i : Inst) : Bool := (b.dep.ops.filter (fun o => o.inst == i.id)).all (opOver b)
  let gone := (b.bat.insts.filter (fun i => !instRuns b i.id && over_ i)).map (·.id)
  { b with bat := { b.bat with insts := b.bat.insts.filter (fun i => !gone.contains i.id) },
           dep := { b.dep with ops := b.dep.ops.filter (fun o => o.inst == 0 || !gone.contains o.inst) } }

/-- The sampling key in force on this chip for the loop of slot `k` (R115). -/
def loopKey (b : Block) (k : Nat) : Option (BitVec 128) :=
  ((loopOf b k).oid.bind (opOf b)).map (fun o => tget 0 b.sec.skey o.ctx)

/-- The chip instantiates its template for the turn in flight of slot `k`, with the sampling key the turn was formed with
(R115, R252). -/
def instantiate (k : Nat) (b : Block) : Block :=
  match (loopOf b k).oid.bind (opOf b), (loopOf b k).turn with
  | some o, some t =>
    if t.inst ≠ 0 then b else
    let bytes := match subOf b o.q o.sid with | some s => tget [] s.tpls o.off | none => []
    let id := b.bat.nextInst
    let i : Inst := { id := id, oid := o.oid, q := o.q, sid := o.sid, ctx := o.ctx, slot := k, bytes := bytes,
                      key := t.skey.getD (tget 0 b.sec.skey o.ctx), lch := launchZero }
    let b := { b with bat := { b.bat with insts := b.bat.insts ++ [i], nextInst := id + 1 } }
    modLoop k (fun l => { l with turn := l.turn.map (fun t => { t with inst := id }) }) b
  | _, _ => b

/-- Every operation of the instance is complete. -/
def instComplete (b : Block) (id : Nat) : Bool :=
  match b.bat.insts.find? (·.id == id) with
  | none => false
  | some i => i.lch.ended && (b.dep.ops.filter (fun o => o.inst == id)).all (fun o => o.stage == .complete)

/-- Abort the operations of an instance. -/
def abortInst (id : Nat) (b : Block) : Block :=
  if id = 0 then b else abortOps ((b.dep.ops.filter (fun o => o.inst == id)).map (·.oid)) b

/-! ### The turn tree (R246) -/

/-- This chip's place among the members. -/
def myIndex (b : Block) (k : Nat) : Nat := (memberNodes b k).findIdx (· == b.fab.node)

/-- Node of this chip's parent. -/
def parentNode (b : Block) (k : Nat) : Nat := (memberNodes b k).getD ((myIndex b k - 1) / 16) 0

/-- Nodes of this chip's children. -/
def childNodes (b : Block) (k : Nat) : List Nat := ((memberNodes b k).drop (16 * myIndex b k + 1)).take 16

/-- Send a message to every child. -/
def sendDown (typ : Nat) (body : List Byte) (k : Nat) (b : Block) : Block :=
  (childNodes b k).foldl (fun b d => sendMos typ body k d b) b

/-- Send TURN_ABORT to the parent and the children, but for the chip it came from. -/
def sendAbort (k turn status : Nat) (except_ : Option Nat) (b : Block) : Block :=
  let dst := (if leads b k then [] else [parentNode b k]) ++ childNodes b k
  (dst.filter (fun d => some d != except_)).foldl (fun b d => sendMos 0x2A (leBytes turn 8 ++ leBytes status 1) k d b) b

/-! ### Aborts (R257) -/

/-- Why a turn aborts. -/
inductive AbortCause where
  | pool | lost | failed (st : Status) | done
deriving DecidableEq, Repr

/-- Records a row of a turn reserves (R249). -/
def ringNeed (s : Seqn) (t : Nat) : Nat :=
  if s.decoding then t else if s.pos + t = s.promptLen then 1 else 0

/-- Give back what a row of an aborted turn reserved: ring space and pages beyond the committed position. -/
def dropRow (r : TurnRow) (b : Block) : Block :=
  let s := seqnOf b r.seq
  let b := modRing s.ctx (fun g => { g with resv := g.resv - ringNeed s r.toks }) b
  let b := modSeqn r.seq (fun s => { s with turnT := 0 }) b
  let p := poolOf b s.pool
  let n := max s.pos s.resvEnd
  if s.state == .active && decide (p.need n < s.pages) then cover r.seq n b else b

/-- The LAUNCH_TURN of a stopped loop fails, with a report for its queue (source 0x1D). -/
def failLoop (k : Nat) (st : Status) (b : Block) : Block :=
  match (loopOf b k).oid.bind (opOf b) with
  | none => b
  | some o => if o.stage == .released then report (uccReport 0x1D 3 o.q st 0xFFFFFFFF) (failOp o.oid st b) else b

/-- The turn in flight of slot `k` is discarded with its tables, its operations and its reservations, and counted. -/
def dropTurn (k : Nat) (b : Block) : Block :=
  match (loopOf b k).turn with
  | none => b
  | some t =>
    let b := { b with bat := { b.bat with wrq := b.bat.wrq.filter (fun w => !(w.slot == k && w.what == 0)) } }
    let b := t.rows.foldl (fun b r => dropRow r b) (abortInst t.inst b)
    modLoop k (fun l => { l with turn := none, dead := none, aborts := satAdd 16 l.aborts 1 }) b

/-- The turn of slot `k` aborts on this chip: its tables are discarded and its reservations returned; the loop forms
again after a pool failure and stops after any other cause. -/
def abortTurn (k : Nat) (cause : AbortCause) (b : Block) : Block :=
  let b := dropTurn k b
  match cause with
  | .pool => modLoop k (fun l => { l with event := true }) b
  | .lost =>
    let b := modMos k (fun m => if m.state == .ready || m.state == .rebinding then { m with state := .broken } else m) b
    modLoop k (fun l => { l with oid := none }) (failLoop k .mosaicBroken b)
  | .failed st => modLoop k (fun l => { l with oid := none }) (failLoop k st b)
  | .done => modLoop k (fun l => { l with oid := none }) b

/-! ### Pool failure (R240) -/

/-- Pool `p` is marked FAILED: its sequences end with STATE_LOST, and a turn that contains one aborts and forms again. -/
def failPool (p : Nat) (b : Block) : Block :=
  let r := poolOf b p
  if r.failed || !r.cfgd then b else
  let b := modPool p (fun r => { r with failed := true }) b
  let b := { b with bat := { b.bat with wrq := b.bat.wrq.filter (fun w => w.what != 1 + p) } }
  let hit := (b.bat.seqs.filter (fun e => e.2.pool == p &&
    (e.2.state == .joining || e.2.state == .active || e.2.state == .parked))).map (·.1)
  let b := hit.foldl (fun b i => endSeq i Status.stateLost.code b) b
  let b := report (uccReport 0x1B 4 r.ctx .stateLost 0) b
  let inTurn : Bool := match (loopOf b r.slot).turn with
    | some t => t.rows.any (fun x => hit.contains x.seq)
    | none => false
  if inTurn then abortTurn r.slot .pool b else modLoop r.slot (fun l => { l with event := true }) b

/-- A descriptor of a turn instantiation failed with XLAT or POISON inside a pool's range (R240). -/
def poolFault (slot addr : Nat) (st : BitVec 3) (b : Block) : Block :=
  if st ≠ 1 ∧ st ≠ 2 then b else
  ((b.bat.pools.filter (fun e => e.2.cfgd && e.2.slot == slot && decide (e.2.base ≤ addr)
      && decide (addr < pageAddr b e.2 e.2.pages))).map (·.1)).foldl (fun b p => failPool p b) b

/-! ### Formation (R249 to R252) -/

/-- t_max(s, budget). -/
def tMax (l : Loop) (s : Seqn) (budget : Nat) : Nat :=
  if s.decoding then min (s.draft + 1) (min (s.maxTok - s.gen) (2 ^ 40 - 1 - s.pos))
  else min l.chunk (min (s.promptLen - s.pos) budget)

/-- ring_room(s, t): the space is reserved; none where the ring lacks it. A ring that was disabled after the admission has room for
no sequence, for a chunk that needs no record either (DESIGN CHOICE, log entry 47). -/
def ringRoom (i t : Nat) (b : Block) : Option Block :=
  let s := seqnOf b i
  let r := ringOf b s.ctx
  let n := ringNeed s t
  if r.usable && decide (n ≤ r.room) then some (modRing s.ctx (fun r => { r with resv := r.resv + n }) b) else none

/-- A row for sequence `i` that takes `t` positions. -/
def rowOf (b : Block) (i t : Nat) : TurnRow :=
  let s := seqnOf b i
  { seq := i, prefill := !s.decoding, sample := s.decoding || s.pos + t == s.promptLen,
    draft := if s.decoding then t - 1 else 0, pool := s.pool, pos := s.pos, toks := t,
    input := if s.decoding then s.pend else 0, got := [] }

/-- Formation in progress: the block, the budget left, the rows, whether a sequence stays parked, and the sequences not
admitted. -/
structure Forming where
  b       : Block
  budget  : Nat
  rows    : List TurnRow
  blocked : Bool
  out     : List Nat
deriving DecidableEq, Repr

/-- add(batch, s, t). -/
def addRow (i t : Nat) (b : Block) (f : Forming) : Forming :=
  let row := rowOf b i t
  let n := (loopOf b (seqnOf b i).mslot).n + 1
  { f with b := modSeqn i (fun s => { s with state := .active, turnT := t, lastTurn := n }) b,
           budget := f.budget - t, rows := f.rows ++ [row] }

/-- The sequence is parked, with its record if the ring has room (R260). -/
def parkSeq (i : Nat) (b : Block) : Block :=
  let s := seqnOf b i
  let l := loopOf b s.mslot
  let b := modSeqn i (fun s => { s with state := .parked, order := l.joinCtr }) b
  let b := modLoop s.mslot (fun l => { l with joinCtr := (l.joinCtr + 1) % 2 ^ 32 }) b
  let r := ringOf b s.ctx
  if r.usable && decide (0 < r.room) then
    ringPut s.ctx (fun r => tokenRecord r 0 s.pos Status.parked.code false false 0 i (l.n + 1)) b
  else modRing s.ctx (fun r => { r with dropped := satAdd 16 r.dropped 1 }) b

/-- Insert by a key, equal keys keeping their order. -/
def insKey (key : Nat → Nat) (x : Nat) : List Nat → List Nat
  | [] => [x]
  | y :: ys => if key x < key y then x :: y :: ys else y :: insKey key x ys

/-- Sort by a key, stably. -/
def sortKey (key : Nat → Nat) (l : List Nat) : List Nat := l.foldl (fun acc x => insKey key x acc) []

/-- Step 1: leaves and trimming. -/
def formStep1 (k : Nat) (b : Block) : Block :=
  let ids := (b.bat.seqs.filter (fun e => e.2.mslot == k)).map (·.1)
  ids.foldl (fun b i =>
    let s := seqnOf b i
    let p := poolOf b s.pool
    if s.state == .ended || (s.retire && (s.state == .joining || s.state == .active || s.state == .parked)) then
      let b := if s.state == .ended then b else endSeq i 0 b
      let b := if p.failed then b else cover i 0 b
      leaveSeq i (modSeqn i (fun s => { s with state := .leaving, pages := 0, dataPg := [], mapPg := [] }) b)
    else if s.state == .active || s.state == .parked then
      let n := max s.pos s.resvEnd
      if p.need n < s.pages then cover i n b else b
    else b) b

/-- Step 2 for one continuing sequence. -/
def formCont (k i : Nat) (f : Forming) : Forming :=
  let s := seqnOf f.b i
  let t := tMax (loopOf f.b k) s f.budget
  if t = 0 then f else
  match ringRoom i t f.b with
  | none => f
  | some b =>
    match takeFor i (s.pos + t) b with
    | some b => addRow i t b f
    | none => { f with b := parkSeq i f.b, blocked := true, out := f.out ++ [i] }

/-- Step 3 for one sequence parked before. -/
def formParked (k i : Nat) (f : Forming) : Forming :=
  let s := seqnOf f.b i
  let t := tMax (loopOf f.b k) s f.budget
  match (if t = 0 then none else (ringRoom i t f.b).bind (takeFor i (s.pos + t))) with
  | some b => addRow i t b f
  | none => { f with blocked := true, out := f.out ++ [i] }

/-- Step 4: joins in arrival order, up to the first that must wait. -/
def formJoins (k : Nat) : List Nat → Forming → Forming
  | [], f => f
  | i :: is, f =>
    let s := seqnOf f.b i
    let t := tMax (loopOf f.b k) s f.budget
    match (if t = 0 then none else (ringRoom i t f.b).bind (takeFor i t)) with
    | some b => formJoins k is (addRow i t b f)
    | none => { f with out := f.out ++ (i :: is) }

/-- form_turn(m). With the host lease expired, every continuing sequence is parked and nothing admitted (R258). -/
def formTurn (k : Nat) (b : Block) : Forming :=
  let b := formStep1 k b
  let f : Forming := { b := b, budget := (loopOf b k).turnTokens, rows := [], blocked := false, out := [] }
  let prio (i : Nat) : Nat := 3 - (seqnOf b i).prio
  let parked := sortKey prio (sortKey (fun i => (seqnOf b i).order) (seqsIn b k .parked))
  let cont := sortKey prio (seqsIn b k .active)
  let joins := sortKey (fun i => (seqnOf b i).order) (seqsIn b k .joining)
  if b.hub.leaseExpired then { f with b := cont.foldl (fun b i => parkSeq i b) b, out := parked ++ cont ++ joins }
  else
    let f := cont.foldl (fun f i => formCont k i f) f
    let f := parked.foldl (fun f i => formParked k i f) f
    if f.blocked then { f with out := f.out ++ joins } else formJoins k joins f

/-- Rows by ascending sequence. -/
def sortRows (rs : List TurnRow) : List TurnRow :=
  (sortKey id (rs.map (·.seq))).filterMap (fun i => rs.find? (·.seq == i))

/-- IDX_ADDR and IDX_LEN of the loop's LAUNCH_TURN. -/
def idxOf (b : Block) (k : Nat) : Nat × Nat :=
  match (loopOf b k).oid.bind (opOf b) with
  | some { pkt := { body := .launchTurn _ _ _ a n, .. }, .. } => (a, n)
  | _ => (0, 0)

/-- The 8-byte words of an index row (R252). -/
def rowWords (r : TurnRow) : List Nat :=
  [r.seq + at_ r.pool 21 + at_ r.draft 27 + at_ (b2n r.sample) 30 + at_ (b2n r.prefill) 31 + at_ (r.pos % 2 ^ 32) 32,
   r.toks + at_ (fld r.pos 32 8) 24 + at_ r.input 32]

/-- The words of the index area of a turn. -/
def idxWords (num : Nat) (final : Bool) (rows : List TurnRow) : List Nat :=
  [num, rows.length + at_ (b2n final) 32, (rows.map (·.toks)).foldl (· + ·) 0, 0, 0, 0, 0, 0]
  ++ (rows.map rowWords).flatten

/-- The body of TURN_COMMIT (R294). -/
def commitBody (b : Block) (k planned : Nat) (final : Bool) : List Byte :=
  let n := (loopOf b k).n
  leBytes n 8 ++ leBytes planned 8 ++ leBytes (b2n final + 2 * b2n (n == 0)) 8 ++ leBytes (idxOf b k).1 8

/-- The loop of the leader ends: its LAUNCH_TURN completes, and the other chips hear of it by a TURN_COMMIT that plans no
turn (DESIGN CHOICE, log entry 14). -/
def finishLoop (k : Nat) (b : Block) : Block :=
  match (loopOf b k).oid with
  | none => b
  | some o =>
    let b := sendDown 0x28 (commitBody b k (loopOf b k).n true) k b
    completeOp o (modLoop k (fun l => { l with oid := none, failed := [], event := false }) b)

/-- The turn in flight of slot `k` is published once every write for it is acknowledged: TURN_COMMIT goes down the tree
and the leader instantiates its template (R246, R252). -/
def publish (k : Nat) (b : Block) : Block :=
  match (loopOf b k).turn with
  | none => b
  | some t =>
    if t.published || !leads b k || !batQuiet b k then b else
    let b := sendDown 0x28 (commitBody b k t.num t.final) k b
    instantiate k (modLoop k (fun l => { l with turn := l.turn.map (fun t => { t with published := true }) }) b)

/-- A turn as it starts. -/
def turnZero (num : Nat) (final : Bool) (rows : List TurnRow) : Turn :=
  { num := num, final := final, rows := rows, inst := 0, idx := none, skey := none, published := false, instDone := false, arrived := [],
    subToks := 0, fwdGot := 0, fwdOwn := 0, arriveSent := false, buf := [] }

/-- The outcome of a formation: a turn whose tables are written, or an empty batch, after which the loop completes or
waits (R251). -/
def formed (k : Nat) (f : Forming) : Block :=
  let b := f.b
  let l := loopOf b k
  let rows := sortRows f.rows
  if b.hub.leaseExpired then modLoop k (fun l => { l with leaseHeld := true }) b
  else if rows.isEmpty then
    if f.out.all (l.failed.contains ·) then finishLoop k b
    else modLoop k (fun l => { l with failed := f.out }) b
  else
    let num := l.n + 1
    let final := l.left == 1
    let t := { turnZero num final rows with skey := loopKey b k }
    let b := modLoop k (fun l => { l with turn := some t, failed := [] }) b
    let a := (idxOf b k).1
    let b := ((idxWords num final rows).zipIdx).foldl (fun b x =>
      batWrite { rd := false, slot := k, what := 0, addr := a + 8 * x.2, n := 1, val := x.1 } b) b
    publish k (batPump 64 b)

/-- TURN_FORMATION: the leader forms a turn when a loop runs, no turn is in flight and something has changed (R244,
R249); not while a migration holds the mosaic (R289). -/
def turnFormation (k : Nat) (b : Block) : Block :=
  let l := loopOf b k
  if !(leads b k) || l.oid.isNone || l.turn.isSome || !l.event || (mosOf b k).held || !domOn b 2 then b else
  let was := b
  let b := modLoop k (fun l => { l with event := false, leaseHeld := false }) b
  pumpRings (ringVectors was (formed k (formTurn k b)))

/-- A change that R244 admits reaches the loop of slot `k`. -/
def loopEvent (k : Nat) (b : Block) : Block :=
  if (loopOf b k).oid.isSome then modLoop k (fun l => { l with event := true }) b else b

/-! ### Tokens (R254, R255) -/

/-- Count a discarded token. -/
def tokenStray (b : Block) : Block := { b with bat := { b.bat with stray := satAdd 32 b.bat.stray 1 } }

/-- The leader records a token of the turn in flight. -/
def recordToken (k seq draft tok : Nat) (b : Block) : Block :=
  match (loopOf b k).turn with
  | none => tokenStray b
  | some t =>
    match t.rows.find? (·.seq == seq) with
    | none => tokenStray b
    | some r =>
      if r.toks ≤ draft ∨ r.got.any (·.1 == draft) = true then tokenStray b else
      let rows := modFirst (·.seq == seq) (fun r => { r with got := r.got ++ [(draft, tok)] }) t.rows
      modLoop k (fun l => { l with turn := some { t with rows := rows } }) b

/-- The body of a TURN_TOKENS message. -/
def tokensBody (num : Nat) (ts : List (Nat × Nat × Nat)) : List Byte :=
  leBytes num 8 ++ leBytes ts.length 8
  ++ (ts.map (fun x => leBytes x.1 4 ++ leBytes x.2.1 2 ++ leBytes x.2.2 1 ++ [0])).flatten

/-- Forward the tokens gathered, at most 56, to the leader. -/
def flushTokens (k : Nat) (b : Block) : Block :=
  match (loopOf b k).turn with
  | none => b
  | some t =>
    if t.buf.isEmpty then b else
    let b := sendMos 0x2B (tokensBody t.num (t.buf.take 56)) k (leaderOf b k) b
    modLoop k (fun l => { l with turn := some { t with buf := t.buf.drop 56 } }) b

/-- BAT takes a token that a lane returned. -/
def batToken (k inst seq draft tok : Nat) (b : Block) : Block :=
  match (loopOf b k).turn with
  | none => tokenStray b
  | some t =>
    if t.inst ≠ inst then tokenStray b
    else if leads b k then recordToken k seq draft tok b
    else
      let b := modLoop k (fun l => { l with turn := some { t with fwdOwn := t.fwdOwn + 1, buf := t.buf ++ [(tok, seq, draft)] } }) b
      if 56 ≤ t.buf.length + 1 then flushTokens k b else b

/-- LANE_TOKEN (R168): taken only from a lane that runs a pass of a launch issued by a turn template; ignored in a domain
that is not ON (R169). -/
def laneToken (n l seq draft tok : Nat) (b : Block) : Block :=
  if !seqUp b n then b else
  match (seqrOf b n).active, (seqrOf b n).pass with
  | some k, some p =>
    if k.turn ≠ 0 && k.lanes.any (·.1 == l) && !p.ended then batToken k.slot k.turn seq draft tok b else laneStray b
  | _, _ => laneStray b

/-! ### Arrival and commit (R246, R254, R256) -/

/-- Every child's TURN_ARRIVE is in. -/
def allArrivedTurn (b : Block) (k : Nat) (t : Turn) : Bool := (childNodes b k).all (t.arrived.contains ·)

/-- ARRIVE_SEND: a chip other than the leader sends TURN_ARRIVE and starts its barrier timer (R246, R248, R255). -/
def arriveSend (k : Nat) (b : Block) : Block :=
  match (loopOf b k).turn with
  | none => b
  | some t =>
    if leads b k || t.arriveSent || !instComplete b t.inst || !allArrivedTurn b k t then b else
    let b := flushTokens k b
    let b := sendMos 0x29 (leBytes t.num 8 ++ leBytes (t.fwdOwn + t.subToks) 4) k (parentNode b k) b
    let at_ := hubNow b + b.bat.timeout
    modLoop k (fun l => { l with dead := some at_, turn := l.turn.map (fun t => { t with arriveSent := true, instDone := true }) }) b

/-- The tokens of a row pass its check (R254). -/
def rowOk (r : TurnRow) : Bool :=
  let ds := sortKey id (r.got.map (·.1))
  if r.prefill then (if r.sample then ds == [0] else ds.isEmpty)
  else !ds.isEmpty && decide (ds.length ≤ r.toks) && ds == List.range ds.length

/-- End condition after a token `y` at position `q` (R256). -/
def endCond (s : Seqn) (y q : Nat) : Option Status :=
  if s.stops.contains y then some .stopToken
  else if s.gen + 1 = s.maxTok then some .maxTokens
  else if q = 2 ^ 40 - 1 then some .lengthLimit else none

/-- Apply the tokens of a row in ascending draft index; answers how many were applied. -/
def applyTokens (i num : Nat) (pos : Nat → Nat) : List (Nat × Nat) → Nat → Block → Nat × Block
  | [], n, b => (n, b)
  | (d, y) :: ts, n, b =>
    let s := seqnOf b i
    let e := endCond s y (pos d)
    let st := match e with | some e => e.code | none => 0
    let b := ringPut s.ctx (fun r => tokenRecord r y (pos d) st e.isSome true d i num) b
    let b := modSeqn i (fun s => { s with gen := s.gen + 1, pend := y }) b
    match e with
    | some e => (n + 1, modSeqn i (fun s => { s with state := .ended, reason := e.code, owes := false }) b)
    | none => applyTokens i num pos ts (n + 1) b

/-- Commit one row: its tokens, its position, and the positions it advanced. -/
def commitRow (num : Nat) (r : TurnRow) (b : Block) : Nat × Block :=
  let s := seqnOf b r.seq
  let b := modRing s.ctx (fun g => { g with resv := g.resv - ringNeed s r.toks }) b
  let b := modSeqn r.seq (fun s => { s with turnT := 0 }) b
  if s.state != .active then (0, b)
  else if !rowOk r then (0, endSeq r.seq Status.badState.code b)
  else
    let toks := (sortKey id (r.got.map (·.1))).filterMap (fun d => r.got.find? (·.1 == d))
    let pos (d : Nat) : Nat := if r.prefill then s.promptLen else r.pos + d + 1
    let (n, b) := applyTokens r.seq num pos toks 0 b
    let adv := if r.prefill then r.toks else n
    (adv, modSeqn r.seq (fun s => { s with pos := r.pos + adv }) b)

/-- The bytes of a TURN fold row (R230). -/
def foldRow (r : TurnRow) (adv draft : Nat) : List Byte :=
  leBytes (r.seq + at_ draft 16) 4 ++ leBytes adv 4 ++ leBytes (r.pos % 2 ^ 32) 4 ++ leBytes (fld r.pos 32 8) 4

/-- Commit rows in ascending sequence, gathering the fold rows by context. -/
def commitRows (num : Nat) : List TurnRow → Table (List Byte) → Block → Table (List Byte) × Block
  | [], t, b => (t, b)
  | r :: rs, t, b =>
    let c := (seqnOf b r.seq).ctx
    let d := r.draft
    let (adv, b) := commitRow num r b
    commitRows num rs (tmod [] t c (· ++ foldRow r adv d)) b

/-- The leader holds all that the commit of its turn needs (R246, R255). -/
def commitReady (b : Block) (k : Nat) (t : Turn) : Bool :=
  t.published && (t.instDone || instComplete b t.inst) && allArrivedTurn b k t && decide (t.subToks ≤ t.fwdGot)

/-- COMMIT: the leader commits the turn in flight: rows, token records, TURN records, N (R254, R256). -/
def commitTurn (k : Nat) (b : Block) : Block :=
  match (loopOf b k).turn with
  | none => b
  | some t =>
    if !leads b k || !commitReady b k t then b else
    let was := b
    let (folds, b) := commitRows t.num t.rows [] b
    let b := folds.foldl (fun b e => pushFold e.1 { kind := 3, ranks := ranksOf b k, body := e.2, mark := none } b) b
    let b := match (loopOf b k).oid.bind (opOf b) with | some o => progress o.q b | none => b
    let b := modLoop k (fun l => { l with
      n := (l.n + 1) % 2 ^ 64, turn := none, dead := none, event := true,
      left := if l.left = 0xFFFFFFFF then l.left else l.left - 1 }) b
    let b := if t.final then finishLoop k b else b
    pruneInsts (pumpRings (ringVectors was b))

/-! ### Turn messages (R246, R248, R255, R257) -/

/-- The IDX_ADDR of this chip's LAUNCH_TURN is another than the one TURN_COMMIT carried (R245). -/
def idxDiffers (b : Block) (k : Nat) : Bool :=
  match (loopOf b k).oid, (loopOf b k).turn with
  | some _, some t => t.idx.any (fun a => a != (idxOf b k).1)
  | _, _ => false

/-- A chip other than the leader checks the index area its LAUNCH_TURN names and instantiates its template; another area
fails the LAUNCH_TURN with BAD_STATE and aborts the turn (R245). -/
def joinTurn (k : Nat) (b : Block) : Block :=
  match (loopOf b k).turn with
  | none => b
  | some t =>
    if idxDiffers b k then abortTurn k (.failed .badState) (sendAbort k t.num Status.badState.code none b)
    else instantiate k b

/-- A turn of a LAUNCH_TURN of this chip has committed, if one in flight here has a number up to `n`: its queue's watchdog
restarts (R365). -/
def turnProgress (k n : Nat) (b : Block) : Block :=
  match (loopOf b k).turn, (loopOf b k).oid.bind (opOf b) with
  | some t, some o => if t.num ≤ n then progress o.q b else b
  | _, _ => b

/-- A chip that is not the leader takes a TURN_COMMIT: it forwards it, checks IDX_ADDR and instantiates its template. One
that plans no turn ends the loop. A turn in flight here that the message does not count as committed was aborted by the
leader, and is discarded as such (R257; DEDUCED, log entry 14: no other message tells the chip of it). -/
def takeCommit (k : Nat) (m : SerdoMsg) (b : Block) : Block :=
  if leads b k then b else
  let committed := bodyNat m 0 8
  let planned := bodyNat m 8 8
  let final := bitOf (bodyNat m 16 1) 0
  let b := sendDown 0x28 m.body k b
  let b := if (loopOf b k).turn.any (fun t => decide (committed < t.num)) then dropTurn k b else b
  let b := turnProgress k committed b
  let b := modLoop k (fun l => { l with n := committed, turn := none, dead := none }) b
  if planned ≤ committed then
    match (loopOf b k).oid with
    | some o => pruneInsts (completeOp o (modLoop k (fun l => { l with oid := none }) b))
    | none => b
  else
    let t := { turnZero planned final [] with published := true, idx := some (bodyNat m 24 8), skey := loopKey b k }
    pruneInsts (joinTurn k (modLoop k (fun l => { l with turn := some t }) b))

/-- The leader's arrival is complete: the last TURN_ARRIVE and the last forwarded token that those messages count are in
(R248). -/
def turnArrived (b : Block) (k : Nat) (t : Turn) : Bool := allArrivedTurn b k t && decide (t.subToks ≤ t.fwdGot)

/-- The leader's barrier timer stops at its arrival (R248, R258). -/
def stopBarrier (k : Nat) (b : Block) : Block :=
  if leads b k && (loopOf b k).turn.any (fun t => turnArrived b k t) then modLoop k (fun l => { l with dead := none }) b
  else b

/-- A TURN_ARRIVE from a child. -/
def takeArrive (k : Nat) (m : SerdoMsg) (b : Block) : Block :=
  match (loopOf b k).turn with
  | none => b
  | some t =>
    if t.num ≠ bodyNat m 0 8 ∨ !(childNodes b k).contains m.src ∨ t.arrived.contains m.src then b else
    let t := { t with arrived := t.arrived ++ [m.src], subToks := t.subToks + bodyNat m 8 4 }
    stopBarrier k (modLoop k (fun l => { l with turn := some t }) b)

/-- Token `i` of a TURN_TOKENS message. -/
def takeOne (k num : Nat) (m : SerdoMsg) (i : Nat) (b : Block) : Block :=
  let o := 16 + 8 * i
  match (loopOf b k).turn with
  | none => tokenStray b
  | some t =>
    if t.num ≠ num then tokenStray b else
    let b := modLoop k (fun l => { l with turn := some { t with fwdGot := t.fwdGot + 1 } }) b
    recordToken k (fld (bodyNat m (o + 4) 2) 0 14) (fld (bodyNat m (o + 6) 1) 0 3) (bodyNat m o 4) b

/-- TURN_TOKENS at the leader. -/
def takeTokens (k : Nat) (m : SerdoMsg) (b : Block) : Block :=
  if !leads b k then b else
  stopBarrier k ((List.range (min 56 (bodyNat m 8 2))).foldl (fun b i => takeOne k (bodyNat m 0 8) m i b) b)

/-- Every sequence of the mosaic in slot `k` that runs, joins or is parked moves to ENDED with STATE_LOST (R367). -/
def loseSeqs (k : Nat) (b : Block) : Block :=
  let l := seqsIn b k .joining ++ seqsIn b k .active ++ seqsIn b k .parked
  modLoop k (fun l => { l with event := true }) (l.foldl (fun b i => endSeq i Status.stateLost.code b) b)

/-- TURN_ABORT: the turn it names aborts here, and the message goes on through the tree. One with STATE_LOST is a partition
reset of its sender: the leader ends every sequence, and aborts whatever turn is in flight (R367). -/
def takeAbort (k : Nat) (m : SerdoMsg) (b : Block) : Block :=
  let lost := leads b k && bodyNat m 8 1 == Status.stateLost.code
  let b := if lost then loseSeqs k b else b
  match (loopOf b k).turn with
  | none => b
  | some t =>
    if t.num ≠ bodyNat m 0 8 ∧ lost = false then b else
    let b := sendAbort k t.num (bodyNat m 8 1) (some m.src) b
    abortTurn k (if bodyNat m 8 1 = Status.mosaicBroken.code then .lost else .failed .turnAborted) b

/-- TURN_BARRIER_TIMEOUT: the barrier timer of slot `k` expires; it does not count while a migration holds the mosaic. -/
def barrierTimeout (k : Nat) (b : Block) : Block :=
  let l := loopOf b k
  match l.turn with
  | none => b
  | some t =>
    if !due (hubNow b) l.dead || (mosOf b k).held then b else
    abortTurn k .lost (sendAbort k t.num Status.mosaicBroken.code none b)

/-- A chip of the mosaic is lost: as an expiry of the barrier timer, with its TURN_ABORT, where a turn is in flight (R248, R257);
a loop without one stops. -/
def turnLost (k : Nat) (b : Block) : Block :=
  match (loopOf b k).turn with
  | some t => abortTurn k .lost (sendAbort k t.num Status.mosaicBroken.code none b)
  | none => if (loopOf b k).oid.isSome then abortTurn k .lost b else b

/-! ### What every command leaves to the loops -/

/-- One loop after a command: a LAUNCH_TURN that has ended by a failure ends the loop and is told to the other chips
(R257); an instantiation that has completed on the leader starts the barrier timer (R248); a turn whose writes are
acknowledged is published. -/
def settleLoop (k : Nat) (b : Block) : Block :=
  let l := loopOf b k
  let ended : Bool := match l.oid with
    | none => false
    | some o => (match opOf b o with
      | some o => o.stage != OpStage.released
      | none => true)
  if ended then
    let st : Status := match l.oid.bind (opOf b) with
      | some o => (match (subOf b o.q o.sid).bind (·.fail) with
        | some f => f.status
        | none => .turnAborted)
      | none => .ctxTornDown
    let num := match l.turn with | some t => t.num | none => l.n + 1
    let b := if st == .mosaicBroken then b else sendAbort k num st.code none b
    abortTurn k .done b
  else
    match l.turn with
    | none => b
    | some t =>
      let b := publish k b
      if leads b k && t.published && !t.instDone && instComplete b t.inst then
        let dead := if turnArrived b k t then none else some (hubNow b + b.bat.timeout)
        modLoop k (fun l => { l with dead := dead, turn := l.turn.map (fun t => { t with instDone := true }) }) b
      else b

/-- A removed pool's number becomes free once no sequence of it remains (R421). -/
def freePools (b : Block) : Block :=
  let gone := (b.bat.pools.filter (fun e => e.2.removed && !(b.bat.seqs.any (fun s =>
    s.2.pool == e.1 && s.2.state != .free)))).map (·.1)
  gone.foldl (fun b p => modPool p (fun _ => poolZero) b) b

/-- Every loop after a command. -/
def settleTurns (b : Block) : Block :=
  if b.bat.loops.isEmpty && b.bat.pools.isEmpty then b else
  pruneInsts (freePools <| leaveAll <| (b.bat.loops.map (·.1)).foldl (fun b k => settleLoop k b) b)

/-- A completion of one of BAT's writes: a pool access that failed marks the pool FAILED, an index area access that failed
ends the loop (R253). -/
def batAck (slot what : Nat) (st : BitVec 3) (b : Block) : Block :=
  let b := if what = 0 then b else
    modPool (what - 1) (fun p => if 0 < p.initOut then { p with initOut := p.initOut - 1 } else p) b
  let b := if st = 0 then b
    else if what ≠ 0 then failPool (what - 1) b
    else match (loopOf b slot).turn with
      | some t => abortTurn slot (.failed (ddStatus st)) (sendAbort slot t.num (ddStatus st).code none b)
      | none => b
  publish slot (batPump 64 b)

/-- The answer to a token record's write (R261). -/
def tokenAnswer (c : Nat) (status : BitVec 2) (b : Block) : Block :=
  if status = 0 then b else
  let b := modRing c (fun r => { r with undel := true }) b
  report (uccReport 0x19 4 c .complUndeliverable 0) (msix (4 * c + 3) b)

/-! ### LAUNCH_TURN, SEQ_ADMIT, SEQ_RETIRE, KV_RESERVE (R91, R232 to R234, R241 to R245) -/

/-- The effect of a released LAUNCH_TURN. TURNS of a chip other than the leader is ignored, a zero there too (R245). -/
def relTurn (o : Op) (b : Block) : Block :=
  match o.pkt.body with
  | .launchTurn turns _ _ _ _ =>
    if !domOn b 2 then wake 2 6 b else wake 2 6 <|
    if (loopOf b o.slot).oid.isSome || !poolFor b o.slot
        || (leads b o.slot && poolOwner b o.slot != some o.ctx) then failOp o.oid .badState b
    else if turns = 0 ∧ leads b o.slot = true then releaseDone o.oid b
    else
      let b := markReleased o.oid b
      let b := modLoop o.slot (fun l => { l with oid := some o.oid, left := turns, event := true, failed := [] }) b
      if leads b o.slot then b else joinTurn o.slot b
  | _ => b

/-- The entry that SEQ_ADMIT writes. -/
def admitted (o : Op) (prio pool draft : Nat) (stops : List Nat) (pa pl mt order : Nat) : Seqn :=
  { state := .joining, retire := false, prio := prio, draft := draft, pool := pool, reason := 0, ctx := o.ctx,
    mslot := o.slot, depth := 0, pos := 0, gen := 0, maxTok := mt, promptLen := pl, stops := stops, promptAddr := pa,
    pend := 0xFFFFFFFF, pages := 0, resvEnd := 0, mapRoot := 0, order := order, turnT := 0, lastTurn := 0, dataPg := [],
    mapPg := [], retOps := [], owes := false }

/-- The effect of a released SEQ_ADMIT. The release-time tests are made for a zero count too (R92, R241). -/
def relAdmit (o : Op) (b : Block) : Block :=
  match o.pkt.body with
  | .seqAdmit i pool prio draft stops pa pl mt =>
    if !domOn b 2 then wake 2 6 b else wake 2 6 <|
    if !leads b o.slot then failOp o.oid .notPermitted b
    else if (seqnOf b i).state != .free then failOp o.oid .badState b
    else if !(ringOf b o.ctx).en || (poolOf b pool).failed then failOp o.oid .badState b
    else if pl = 0 ∨ mt = 0 then releaseDone o.oid b
    else
      let l := loopOf b o.slot
      let s := admitted o prio pool draft stops pa pl mt l.joinCtr
      let b := (dirWrites s i (poolOf b pool)).foldl (fun b w => batWrite w b) (modSeqn i (fun _ => s) b)
      let b := modLoop o.slot (fun l => { l with joinCtr := (l.joinCtr + 1) % 2 ^ 32 }) b
      loopEvent o.slot (batPump 64 (releaseDone o.oid b))
  | _ => b

/-- The release-time tests of SEQ_RETIRE and KV_RESERVE (R91, R232). A sequence that is live in another mosaic slot of the same
context gives NOT_PERMITTED (DESIGN CHOICE, log entry 47). -/
def seqTest (o : Op) (i : Nat) (b : Block) : Option Status :=
  let s := seqnOf b i
  if !leads b o.slot then some .notPermitted
  else if s.state == .free then some .badState
  else if s.ctx ≠ o.ctx ∨ s.mslot ≠ o.slot then some .notPermitted
  else none

/-- The effect of a released SEQ_RETIRE: it completes when the sequence reaches FREE (R242). -/
def relRetire (o : Op) (b : Block) : Block :=
  match o.pkt.body with
  | .seqRetire i =>
    if !domOn b 2 then wake 2 6 b else wake 2 6 <|
    match seqTest o i b with
    | some st => failOp o.oid st b
    | none =>
      let b := modSeqn i (fun s => { s with retire := true, retOps := s.retOps ++ [o.oid] }) (markReleased o.oid b)
      loopEvent o.slot b
  | _ => b

/-- The effect of a released KV_RESERVE (R243). -/
def relReserve (o : Op) (b : Block) : Block :=
  match o.pkt.body with
  | .kvReserve i t =>
    if !domOn b 2 then wake 2 6 b else wake 2 6 <|
    match seqTest o i b with
    | some st => failOp o.oid st b
    | none =>
      if t = 0 then releaseDone o.oid b else
      let s := seqnOf b i
      let e := min (s.pos + t) (2 ^ 40 - 1)
      match takeFor i e b with
      | none => failOp o.oid .noResource b
      | some b =>
        let b := modSeqn i (fun s => { s with resvEnd := max s.resvEnd e }) b
        loopEvent o.slot (batPump 64 (releaseDone o.oid b))
  | _ => b

end Sys2Proof.Machine
end

