-- ==== Sys2Proof/Machine/Routes.lean ====
section
/-! DEFINITION. Routes, lookups and epochs (R25, R277 to R287). -/

namespace Sys2Proof.Machine

/-! ### Route computation (R278) -/

/-- This chip's links as its ports know them: port, up, neighbour, its port. Only a port whose HELLO exchange is complete counts
as up (R278), and only one whose neighbour has told its node ID can be named. -/
def ownLinks (b : Block) : List MapLink :=
  (List.range (nPorts b)).filterMap (fun p =>
    let r := portOf b p
    if r.hello && r.named then some { port := p, up := r.up, node := r.peerNode, peer := r.peerPort } else none)

/-- Node `n` is in the map with its routes in force, or about to come into force, and has not gone down. -/
def nodeLive (b : Block) (n : Nat) : Bool :=
  n == b.fab.node || (tget mapZero b.fab.map n).live && !b.fab.downs.contains n

/-- A link of node `n` leads to the node it names: where a block has withdrawn, a link that the named node's own record does not
have leads to that block, whose routes have V = 0 (R304). -/
def linkTrue (b : Block) (n : Nat) (x : MapLink) : Bool :=
  b.fab.dups.isEmpty || (tget mapZero b.fab.map x.node).links.any (fun y => y.node == n)

/-- The links of node `n` in the map that are up, to nodes that have not gone down. -/
def linksOf (b : Block) (n : Nat) : List MapLink :=
  (tget mapZero b.fab.map n).links.filter (fun x => x.up && nodeLive b x.node && linkTrue b n x)

/-- Neighbours of node `n` in the map. -/
def neighboursOf (b : Block) (n : Nat) : List Nat := ((linksOf b n).map (·.node)).dedup

/-- Breadth-first distances plus one from a frontier at distance `d`. -/
def bfs (b : Block) : Nat → Nat → List Nat → Table Nat → Table Nat
  | 0, _, _, seen => seen
  | fuel + 1, d, frontier, seen =>
    let new := (((frontier.map (neighboursOf b)).flatten).dedup).filter (fun n => tget 0 seen n == 0)
    if new.isEmpty then seen else
    bfs b fuel (d + 1) new (new.foldl (fun s n => tset 0 s n (d + 1)) seen)

/-- Distances plus one from node `n`, 0 where it reaches nothing. -/
def distances (b : Block) (n : Nat) : Table Nat := bfs b (b.fab.map.length + 2) 1 [n] (tset 0 [] n 1)

/-- A port counts as up: its HELLO exchange is complete, and its neighbour has not withdrawn (R278, R304). -/
def portUsable (b : Block) (p : Nat) : Bool :=
  let r := portOf b p
  r.up && r.hello && !(b.fab.dups.any (fun d => d.1 == r.peerSerial))

/-- The usable ports with the distances of their neighbours: the links of this chip in the map, by ascending port, whose ports
count as up (R278, R286). -/
def portDistances (b : Block) : List (Nat × Table Nat) :=
  let ls := (linksOf b b.fab.node).filter (fun x => portUsable b x.port)
  (List.range (nPorts b)).filterMap (fun p => (ls.find? (·.port == p)).map (fun x => (p, distances b x.node)))

/-- The route entry for node `d` (R278). -/
def routeEntry (pd : List (Nat × Table Nat)) (d : Nat) : Nat :=
  let ps := (pd.map (fun x => (x.1, tget 0 x.2 d))).filter (fun x => x.2 != 0)
  match (ps.map (·.2)).min? with
  | none => 0
  | some m =>
    match ps.filter (fun x => x.2 == m) with
    | [] => 0
    | (o, _) :: same =>
      let alt := match same.head? with
        | some (a, _) => some a
        | none => ((ps.filter (fun x => x.2 == m + 1)).head?).map (·.1)
      match alt with
      | some a => 2 ^ 15 + 2 ^ 14 + at_ a 7 + o
      | none => 2 ^ 15 + o

/-- The route entries of every node of the map; this chip's own entry is never used. -/
def routesOf (b : Block) : Table Nat :=
  let pd := portDistances b
  (b.fab.map.map (·.1)).foldl (fun t n =>
    if n = b.fab.node ∨ nodeLive b n = false then t else tset 0 t n (routeEntry pd n)) []

/-- Link masks of the slots that hold a mosaic (R279). -/
def masksOf (b : Block) : Table Nat := b.fab.slots.foldl (fun t e => tset 0 t e.1 e.2.links) []

/-- Load the tables of tag `tag` from the map, the bindings and the redirects (R284, R286). -/
def loadEpoch (tag : Nat) (st : EpState) (b : Block) : Block :=
  modEpoch (tag % 4) (fun _ => { state := st, tag := tag, routes := routesOf b, masks := masksOf b,
                                 redirects := b.fab.redirects }) b

/-! ### Lookups (R280 to R282) -/

/-- answer(e, node, chan, mosaic). A channel that the configuration does not have gets no path at this chip's own node too:
R277 says so of every offset beyond the channels, where the procedure of R282 would deliver locally (DEDUCED, log entry
48). -/
def lookupAnswer (b : Block) (e : Epoch) (node chan mosaic : Nat) : Verdict :=
  let (node, chan) := match tget none e.redirects chan with
    | some t => if node = b.fab.node then t else (node, chan)
    | none => (node, chan)
  if nChannels b ≤ chan then .route 0x7F 0x7F node chan
  else if node = b.fab.node then .route 0x7E 0x7F node chan else
  let r := tget 0 e.routes node
  if !bitOf r 15 then .route 0x7F 0x7F node chan else
  let mask := match slotOfId b mosaic with | some k => tget 0 e.masks k | none => 0
  let out := if bitOf mask (fld r 0 7) then fld r 0 7 else 0x7F
  let alt := if bitOf r 14 && bitOf mask (fld r 7 7) then fld r 7 7 else 0x7F
  if out = 0x7F then .route alt 0x7F node chan else .route out alt node chan

/-- The epoch of a tag answers lookups (R284). -/
def epochLive (e : Epoch) (tag : Nat) : Bool :=
  e.tag == tag && (e.state == .prepared || e.state == .current || e.state == .draining || e.state == .drained)

/-- lookup(node, chan, tag, mosaic). -/
def lookupVerdict (b : Block) (node chan tag mosaic : Nat) : Verdict :=
  if b.flt.stale then .drop
  else if b.fab.phase ≠ 8 ∨ !domOn b 3 ∨ b.pwr.img.recovery then .notReady
  else
    let e := epochOf b (tag % 4)
    if !epochLive e tag then .reroute else
    let a := lookupAnswer b e node chan mosaic
    if (e.state == .draining || e.state == .drained)
        && a != lookupAnswer b (epochOf b (b.fab.epoch % 4)) node chan mosaic then .reroute else a

/-- The lookup carries a tag of no live epoch, and is counted (R282). -/
def lookupStray (b : Block) (tag : Nat) : Bool :=
  !b.flt.stale && b.fab.phase == 8 && domOn b 3 && !b.pwr.img.recovery && !epochLive (epochOf b (tag % 4)) tag

/-- ROUTE_LOOKUP: the verdict is driven on port `port`; a sleeping domain wakes (R386). -/
def routeLookup (port node chan tag mosaic : Nat) (b : Block) : Block :=
  let v := lookupVerdict b node chan tag mosaic
  let b := if lookupStray b tag then { b with fab := { b.fab with stray := satAdd 32 b.fab.stray 1 } } else b
  let b := if b.flt.stale then b else wake 3 3 b
  emit (.route port v) b

/-! ### Epoch changes (R283 to R286) -/

/-- Nodes of the fabric that have not gone down, this one among them. -/
def liveNodes (b : Block) : List Nat :=
  (b.fab.node :: (b.fab.map.map (·.1)).filter (· != b.fab.node)).filter (nodeLive b)

/-- Change map node `n`. -/
def modMap (n : Nat) (f : MapNode → MapNode) (b : Block) : Block :=
  { b with fab := { b.fab with map := tmod mapZero b.fab.map n f } }

/-- A link of a node is up, to a peer's port. -/
def linkSet (x : MapLink) (r : MapNode) : MapNode :=
  let others := r.links.filter (fun l => l.port != x.port)
  { r with links := others ++ [x] }

/-- A link of a node is down. -/
def linkClear (p : Nat) (r : MapNode) : MapNode :=
  let ls := r.links.map (fun l => if l.port == p then { l with up := false } else l)
  { r with links := ls }

/-- A channel of a mosaic has moved: a redirect of this chip to it names the final channel (R290). -/
def redirectMoved (node chan : Nat) (t : Nat × Nat) (b : Block) : Block :=
  { b with fab := { b.fab with redirects := b.fab.redirects.map (fun e =>
      if e.2 == some (node, chan) then (e.1, some t) else e) } }

/-- Apply one edit to the map. -/
def applyEdit (e : EpochEdit) (b : Block) : Block :=
  match e with
  | .linkUp n p m q => modMap n (linkSet { port := p, up := true, node := m, peer := q }) b
  | .linkDown n p => modMap n (linkClear p) b
  | .nodeUp n s =>
    let gone := b.fab.downs.contains n || !(tget mapZero b.fab.map n).live
    let count := b.fab.nodes + b2n (gone && n != b.fab.node && !b.fab.joining)
    let b := modMap n (fun r => { r with serial := s, first := true, second := true, live := true }) b
    { b with fab := { b.fab with downs := b.fab.downs.filter (· != n), serials := tset 0 b.fab.serials s (n + 1)
                                 nodes := count, fabNodes := count } }
  | .nodeDown n => { b with fab := { b.fab with map := terase b.fab.map n } }
  | .move _ n c dn dc => redirectMoved n c (dn, dc) b
  | .none => b

/-- A chip takes an EPOCH_PREPARE: its tables are computed and written into every bank; one that is not the root
remembers the change. -/
def prepareEpoch (tag : Nat) (edits : List EpochEdit) (b : Block) : Block :=
  let b := edits.foldl (fun b e => applyEdit e b) b
  let b := loadEpoch tag .prepared b
  if b.fab.isRoot then b else
  { b with fab := { b.fab with change := some { tag := tag, edits := edits, awaited := [], switched := false } } }

/-- The switch of tag `tag` is scheduled 32 CLK_SEQ cycles after its issue (R25). -/
def scheduleSwitch (tag : Nat) (b : Block) : Block :=
  { b with fab := { b.fab with swAt := some (b.time.seq + 32, tag),
                               change := b.fab.change.map (fun c => { c with switched := true }) } }

/-- Node `n` joins by the edits. -/
def joinsBy (edits : List EpochEdit) (n : Nat) : Bool :=
  edits.any (fun e => match e with | .nodeUp d _ => d == n | _ => false)

/-- The root has an EPOCH_ACK from node `n`; with the last one the switch goes out. A node that joins by the change never held
the old epoch, and no EPOCH_DRAINED of it is awaited. -/
def ackEpoch (n tag : Nat) (b : Block) : Block :=
  match b.fab.change with
  | none => b
  | some c =>
    if c.tag ≠ tag ∨ c.switched = true ∨ b.fab.isRoot = false then b else
    let left := c.awaited.filter (fun x => x != n && !b.fab.downs.contains x)
    let b := { b with fab := { b.fab with change := some { c with awaited := left } } }
    if !left.isEmpty then b else
    let all := liveNodes b
    let b := (all.filter (· != b.fab.node)).foldl (fun b d => sendNode 0x1A (leBytes tag 1) d b) b
    let old := b.fab.epoch
    let held := all.filter (fun n => !joinsBy c.edits n)
    scheduleSwitch tag { b with fab := { b.fab with drains := b.fab.drains ++ [(old, held)] } }

/-- The whole map as edits: what a block that joins must learn (R306; that EPOCH_PREPARE carries it is DESIGN CHOICE, log entry
17). -/
def mapEdits (b : Block) : List EpochEdit :=
  (b.fab.map.map (fun e => EpochEdit.nodeUp e.1 e.2.serial :: (e.2.links.filter (·.up)).map (fun l =>
    EpochEdit.linkUp e.1 l.port l.node l.peer))).flatten

/-- The edits that node `d` is sent for a change: with the whole map where it joins by this change. -/
def editsFor (b : Block) (edits : List EpochEdit) (d : Nat) : List EpochEdit :=
  if joinsBy edits d then mapEdits b ++ edits else edits

/-- The root starts the change of `edits`, under tag `tag`; a node that joins by it is awaited too. -/
def beginChange (tag : Nat) (edits : List EpochEdit) (b : Block) : Block :=
  let b := edits.foldl (fun b e => applyEdit e b) b
  let all := liveNodes b
  let c : Change := { tag := tag, edits := edits, awaited := all, switched := false }
  let b := { b with fab := { b.fab with change := some c } }
  let body (d : Nat) : List Byte := leBytes tag 1 ++ Config.epochBytes (editsFor b edits d)
  let b := (all.filter (· != b.fab.node)).foldl (fun b d => sendNode 0x18 (body d) d b) b
  ackEpoch b.fab.node tag (prepareEpoch tag edits b)

/-- A change may start: none is between PREPARE and SWITCH, and the next table slot is FREE (R283, R286). -/
def changeOpen (b : Block) : Bool :=
  b.fab.swAt.isNone && (match b.fab.change with | some c => c.switched | none => true)
  && (epochOf b ((b.fab.epoch + 1) % 4)).state == .free

/-- The root takes a change: it starts, or waits. -/
def rootChange (edits : List EpochEdit) (b : Block) : Block :=
  if changeOpen b && b.fab.waiting.isEmpty then beginChange ((b.fab.epoch + 1) % 8) edits b
  else { b with fab := { b.fab with waiting := b.fab.waiting ++ [edits] } }

/-- The root starts the first change that waits, if it may. -/
def nextChange (b : Block) : Block :=
  match b.fab.waiting with
  | [] => b
  | e :: es =>
    if b.fab.isRoot && changeOpen b then
      beginChange ((b.fab.epoch + 1) % 8) e { b with fab := { b.fab with waiting := es } }
    else b

/-- The body of a LINK_EVENT of port `p`. -/
def linkBody (b : Block) (p : Nat) : List Byte :=
  leBytes p 1 ++ leBytes (b2n (portOf b p).up) 1 ++ leBytes (portOf b p).peerNode 2

/-- The edit that a change of port `p` of this chip makes. -/
def ownEdit (b : Block) (p : Nat) : EpochEdit :=
  let r := portOf b p
  if r.up && r.hello && r.named then .linkUp b.fab.node p r.peerNode r.peerPort else .linkDown b.fab.node p

/-- This chip needs an epoch change, on account of port `p`, with further edits `es`: the root makes it, any other chip asks
the root by LINK_EVENT, further edits following its bytes (R286; for a change of bindings or redirects DESIGN CHOICE, log
entry 15). -/
def requestEdits (p : Nat) (es : List EpochEdit) (b : Block) : Block :=
  if b.fab.isRoot then rootChange (ownEdit b p :: es) b
  else
    let more := if es.isEmpty then [] else Config.epochBytes es
    sendNode 0x08 (linkBody b p ++ more) b.fab.rootNode b

/-- This chip needs an epoch change on account of port `p` alone. -/
def requestChange (p : Nat) (b : Block) : Block := requestEdits p [] b

/-- The root takes a LINK_EVENT from node `n`; `es` are the further edits it carries. -/
def takeLinkEvent (n port : Nat) (up : Bool) (peer : Nat) (es : List EpochEdit) (b : Block) : Block :=
  if !b.fab.isRoot then b else
  let q := match ((tget mapZero b.fab.map peer).links.find? (fun l => l.node == n && l.peer == port)) with
    | some l => l.port
    | none => 0
  rootChange ((if up then .linkUp n port peer q else .linkDown n port) :: es) b

/-- A channel of a mosaic has moved: the channel it leaves is no CHAN tessera of its chip any more, and the one it moves to
becomes one of its own (R289). -/
def bindMoved (b : Block) (e : EpochEdit) : Block :=
  match e with
  | .move id sn sc dn dc =>
    match slotOfId b id with
    | some k =>
      let b := if sn = b.fab.node then modMos k (fun r => { r with chans := clrBit r.chans sc }) b else b
      if dn = b.fab.node then modMos k (fun r => { r with chans := setBit r.chans dc }) b else b
    | none => b
  | _ => b

/-- The moves of a change that has switched take force on this chip. -/
def movesDone (b : Block) : Block :=
  match b.fab.change with
  | some c => c.edits.foldl bindMoved b
  | none => b

/-- EPOCH_APPLY: at the apply edge every bank makes the new epoch current and the old one DRAINING, and `rl_ep_cur` follows
(R25, R280). -/
def epochApply (b : Block) : Block :=
  match b.fab.swAt with
  | none => b
  | some (edge, tag) =>
    if b.time.seq < edge then b else
    let b := modEpoch (b.fab.epoch % 4) (fun e => if e.state == .current then { e with state := .draining } else e) b
    let b := modEpoch (tag % 4) (fun e => { e with state := .current }) b
    let phase := if b.fab.joining then 8 else b.fab.phase
    let b := { b with fab := { b.fab with epoch := tag, swAt := none, phase := phase, joining := false,
                                          waveDead := none, via := [] } }
    nextChange (emit (.epochCur tag) (movesDone b))

/-- A bank or a memory poll of the chip carries the tag (R285). -/
def tagInUse (b : Block) (tag : Nat) : Bool :=
  b.seq.seqrs.any (fun e =>
    (banksOf e.2).any (·.epoch == tag)
    || (match e.2.shadow with | some k => k.epoch == tag | none => false)
    || e.2.dd.any (fun d => match d.2 with
        | some { owner := .poll _, epoch := t, .. } => t == tag
        | _ => false))

/-- Ports of slot `k` in the masks of the epochs that are not FREE, and its ports now. -/
def portsHeld (b : Block) (k : Nat) : Nat :=
  (b.fab.epochs.filter (fun e => e.2.state != .free)).foldl (fun m e => Nat.lor m (tget 0 e.2.masks k)) (mosOf b k).links

/-- Superseded link key generations of a slot are kept until the next epoch is freed (R295), then removed from the slot's
ports; a port that no epoch in use gives the slot any more loses every generation (R345). `old` are the masks of the epoch
just freed. A slot being released gives its keys up after the scrub (R275). -/
def freeKeys (old : Table Nat) (b : Block) (k : Nat) : Block :=
  if (mosOf b k).rel.isSome then b else
  let held := portsHeld b k
  let b := linkDrop k (maskMinus (tget 0 old k) held) (linkOld k held b)
  modMos k (fun m => { m with prevKeys := [] }) b

/-- A chip takes EPOCH_FREE for a drained tag. -/
def freeEpoch (tag : Nat) (b : Block) : Block :=
  let e := epochOf b (tag % 4)
  if e.tag == tag && (e.state == .draining || e.state == .drained) then
    let b := modEpoch (tag % 4) (fun _ => epochZero) b
    (b.fab.slots.map (·.1)).foldl (freeKeys e.masks) b
  else b

/-- The root has an EPOCH_DRAINED from node `n`; with the last one EPOCH_FREE goes out. -/
def drainedFrom (n tag : Nat) (b : Block) : Block :=
  if !b.fab.isRoot then b else
  let ds := b.fab.drains.map (fun d => if d.1 == tag then (d.1, d.2.filter (· != n)) else d)
  let over_ := ds.any (fun d => d.1 == tag && d.2.isEmpty)
  let b := { b with fab := { b.fab with drains := ds.filter (fun d => !d.2.isEmpty) } }
  if !over_ then b else
  let b := ((liveNodes b).filter (· != b.fab.node)).foldl (fun b d => sendNode 0x1C (leBytes tag 1) d b) b
  nextChange (freeEpoch tag b)

/-- EPOCH_DRAIN_DETECT for one table slot: bit `t` of `rl_ep_busy` is low on every port. -/
def drainSlot (busy : List (BitVec 4)) (t : Nat) (b : Block) : Block :=
  let e := epochOf b t
  if e.state != .draining || busy.any (fun x => x.getLsbD t) || tagInUse b e.tag then b else
  let b := modEpoch t (fun e => { e with state := .drained }) b
  if b.fab.isRoot then drainedFrom b.fab.node e.tag b else sendNode 0x1B (leBytes e.tag 1) b.fab.rootNode b

/-- EPOCH_DRAIN_DETECT (R285); `busy` are the values of `rl_ep_busy` on the link ports, from port 0 on. -/
def drainDetect (busy : List (BitVec 4)) (b : Block) : Block := (List.range 4).foldl (fun b t => drainSlot busy t b) b

/-- A node that went down leaves every set of answers awaited (R286). -/
def dropAwaited (n : Nat) (b : Block) : Block :=
  let b := match b.fab.change with
    | some c => ackEpoch n c.tag b
    | none => b
  (b.fab.drains.map (·.1)).foldl (fun b t => drainedFrom n t b) b

end Sys2Proof.Machine
end

