-- ==== Sys2Proof/Machine/Discover.lean ====
section
/-! DEFINITION. Identity reads and start-up discovery (R296 to R307). -/

namespace Sys2Proof.Machine

/-! ### HELLO -/

/-- This chip's serial; all ones where the FRU is not valid, or not read yet (R298). -/
def ownSerial (b : Block) : Nat := if b.fab.fru.valid then b.fab.fru.serial else 2 ^ 64 - 1

/-- This chip's election key: serial, then the tiebreak (R298). -/
def ownKey (b : Block) : Nat := at_ (ownSerial b) 64 + b.fab.tie

/-- Body of a HELLO on port `p` (R294). -/
def helloBody (b : Block) (p : Nat) (fresh : Bool) : List Byte :=
  let f := b.fab
  let named := f.phase == 8 || decide (4 < f.phase) && decide (f.phase < 8)
  leBytes (ownSerial b) 8 ++ leBytes f.tie 8 ++ leBytes (f.fru.pin + at_ (b2n f.fru.pinned) 15) 2 ++ leBytes 2 1
  ++ leBytes p 1 ++ leBytes (if named then f.node else 0xFFFF) 2
  ++ leBytes (b2n (f.phase == 8) + 2 * b2n fresh) 1 ++ leBytes f.rootNode 2

/-- Send HELLO on a port. -/
def sendHello (fresh : Bool) (p : Nat) (b : Block) : Block := sendPort 0x01 (helloBody b p fresh) p b

/-- Send HELLO on every up port. -/
def helloAll (fresh : Bool) (b : Block) : Block := (upPorts b).foldl (fun b p => sendHello fresh p b) b

/-! ### Phases -/

/-- The wave bound restarts (R305). -/
def waveStart (b : Block) : Block :=
  { b with fab := { b.fab with waveDead := some (hubNow b + 2 ^ b.fab.waveUse) } }

/-- The root's node ID, by its serial in the map; in pinned mode no message gives it (R285, R286). -/
def learnRoot (b : Block) : Block :=
  if b.fab.isRoot then b else
  match b.fab.map.find? (fun e => e.2.serial == b.fab.rootSerial) with
  | some e => { b with fab := { b.fab with rootNode := e.1 } }
  | none => b

/-- Discovery is READY on this block: epoch 0 is current, READY goes to the children (R283, R300). -/
def becomeReady (b : Block) : Block :=
  let b := modEpoch (b.fab.epoch % 4) (fun e => { e with state := .current }) b
  let b := { b with fab := { b.fab with phase := 8, waveDead := none, helloDead := none, trainDead := none } }
  sendPorts 0x07 [] (b.fab.elect.children.map (·.port)) (emit (.epochCur (b.fab.epoch % 8)) b)

/-- The election child on a port has withdrawn, since its pin is a duplicate (R304). -/
def childGone (b : Block) (c : Child) : Bool := b.fab.dups.any (fun d => d.1 == (portOf b c.port).peerSerial)

/-- ROUTES_READY goes up, once, when this block and every child that has not withdrawn have their tables; it tells how many
nodes of the subtree have; at the root READY follows (R300, R304). -/
def routesEcho (b : Block) : Block :=
  let e := b.fab.elect
  if b.fab.phase ≠ 7 ∨ e.told = true ∨ e.children.any (fun c => !c.ready && !childGone b c) = true then b else
  let b := { b with fab := { b.fab with elect := { e with told := true } } }
  match e.parent with
  | none => becomeReady b
  | some p => waveStart (sendPort 0x06 (leBytes b.fab.tables 4) p b)

/-- Phase 7: routes are computed and loaded as epoch 0; phase 8 begins. -/
def loadRoutes (b : Block) : Block :=
  let b := learnRoot b
  let b := loadEpoch 0 .prepared { b with fab := { b.fab with phase := 7, epoch := 0 } }
  routesEcho { b with fab := { b.fab with tables := b.fab.tables + 1 } }

/-- The map holds records of N distinct nodes, this block's own among them (R304). -/
def mapComplete (b : Block) : Bool :=
  decide (b.fab.fabNodes ≤ (b.fab.map.filter (fun e => e.2.first && e.2.second)).length)

/-- Phase 6 has ended: on to the routes. -/
def mapCheck (b : Block) : Block := if b.fab.phase == 5 && mapComplete b then loadRoutes b else b

/-- The bytes of a map link. -/
def linkBytes (l : MapLink) : List Byte := leBytes (l.peer + at_ l.node 16 + at_ (b2n l.up) 31) 4

/-- Body of this block's MAP message for the ports from `first` on (R294). -/
def mapBody (b : Block) (first : Nat) : List Byte :=
  let n := min 36 (nPorts b - first)
  let rec_ (i : Nat) : List Byte :=
    match (ownLinks b).find? (fun l => l.port == first + i) with
    | some l => linkBytes l
    | none => leBytes 0 4
  leBytes b.fab.node 2 ++ leBytes (ownSerial b) 8 ++ leBytes first 1 ++ leBytes n 1 ++ ((List.range n).map rec_).flatten

/-- This block floods its own map records (R304). -/
def floodOwn (b : Block) : Block :=
  let m : MapNode := { serial := ownSerial b, first := true, second := true, live := true, links := ownLinks b }
  let b := { b with fab := { b.fab with flooded := true, map := tset mapZero b.fab.map b.fab.node m,
                                        serials := tset 0 b.fab.serials (ownSerial b) (b.fab.node + 1) } }
  let b := sendPorts 0x05 (mapBody b 0) (helloPorts b) b
  sendPorts 0x05 (mapBody b 36) (helloPorts b) b

/-- Every neighbour whose HELLO exchange is complete has told its node ID, which a MAP record names. -/
def peersNamed (b : Block) : Bool := (helloPorts b).all (fun p => (portOf b p).named)

/-- The block floods its MAP once it knows its neighbours' node IDs. -/
def floodCheck (b : Block) : Block :=
  if b.fab.phase == 5 && !b.fab.flooded && (b.fab.joining || peersNamed b) then mapCheck (floodOwn b) else b

/-- The block holds its node ID: the map phase begins. Its HELLO now carries the ID, and tells the neighbours what their MAP
must name (the manual gives no other message for it; DESIGN CHOICE, log entry 17). -/
def beginMap (b : Block) : Block :=
  floodCheck (waveStart (helloAll false { b with fab := { b.fab with phase := 5, flooded := false } }))

/-- Body of an ASSIGN. -/
def assignBody (base n height mode code key : Nat) : List Byte :=
  leBytes base 2 ++ leBytes n 2 ++ leBytes height 1 ++ leBytes mode 1 ++ leBytes code 1 ++ [0] ++ leBytes key 16

/-- Pass ASSIGN to the children, bases running from `base` in port order (R303). -/
def assignChildren (n height mode code key : Nat) : List Child → Nat → Block → Block
  | [], _, b => b
  | c :: cs, base, b =>
    assignChildren n height mode code key cs (base + c.size)
      (sendPort 0x04 (assignBody base n height mode code key) c.port b)

/-- Children in ascending port order. -/
def childrenInOrder (b : Block) : List Child :=
  (List.range (nPorts b)).filterMap (fun p => b.fab.elect.children.find? (·.port == p))

/-- Discovery has FAILED with an error (R303, R304). -/
def discFail (err : Nat) (b : Block) : Block :=
  { b with fab := { b.fab with phase := 9, error := err, waveDead := none, helloDead := none, trainDead := none } }

/-- The block takes an ASSIGN, or makes it at the root. -/
def takeAssign (base n height mode code key : Nat) (b : Block) : Block :=
  let b := assignChildren n height mode code key (childrenInOrder b) (base + 1) b
  if mode = 3 then discFail code b else
  let node := if mode = 1 then b.fab.fru.pin else base
  let f := b.fab
  let root := if f.isRoot then node else if mode = 1 then f.rootNode else 0
  beginMap { b with fab := { f with
    node := node, fabNodes := n, nodes := n, height := height, pinMode := mode, rootSerial := key / 2 ^ 64,
    rootNode := root } }

/-- The nodes that have gone down and whose routes no change has removed yet. -/
def lostNodes (b : Block) : List Nat := b.fab.downs.filter (fun n => b.fab.map.any (fun e => e.1 == n))

/-- The in-service election has ended at the new root: it restarts a change that had not switched (R306), and makes the changes
that remove the routes of the root that was lost and of any other lost node that change did not remove (R307). -/
def newRoot (b : Block) : Block :=
  let b := { b with fab := { b.fab with isRoot := true, rootNode := b.fab.node, rootSerial := ownSerial b,
                                        electing := false, waveDead := none } }
  let b := assignChildren b.fab.fabNodes b.fab.elect.height b.fab.pinMode 0 (ownKey b) (childrenInOrder b) 0 b
  let b := match b.fab.change with
    | some c => if c.switched then b else beginChange c.tag c.edits b
    | none => b
  (lostNodes b).foldl (fun b n => rootChange [.nodeDown n] b) b

/-- The election is over on this block: the root numbers the fabric (R303), any other block echoes to its parent. -/
def electEnd (b : Block) : Block :=
  let e := b.fab.elect
  if !e.pend.isEmpty || e.done then b else
  let b := { b with fab := { b.fab with elect := { e with done := true } } }
  match e.parent with
  | some p =>
    let body := leBytes e.best 16 ++ leBytes 1 4 ++ leBytes e.nodes 4 ++ leBytes e.pinned 4 ++ leBytes (e.height + 1) 1
    let b := waveStart (sendPort 0x03 body p b)
    if b.fab.electing then { b with fab := { b.fab with isRoot := false } }
    else { b with fab := { b.fab with phase := 4, isRoot := false } }
  | none =>
    if b.fab.electing then newRoot b else
    let b := { b with fab := { b.fab with isRoot := true, phase := 4 } }
    if 16384 < e.nodes then takeAssign 0 (e.nodes % 65536) e.height 3 2 e.best b
    else
      let mode := if e.pinned = 0 then 0 else if e.pinned = e.nodes then 1 else 2
      takeAssign 0 e.nodes e.height mode 0 e.best b

/-- Begin the election with this block's own key (R302). -/
def startElection (b : Block) : Block :=
  let ps := helloPorts b
  let e : Elect := { best := ownKey b, parent := none, pend := ps, nodes := 1, pinned := b2n b.fab.fru.pinned,
                     height := 0, children := [], done := false, told := false }
  let phase := if b.fab.electing then b.fab.phase else 3
  let b := { b with fab := { b.fab with elect := e, phase := phase, trainDead := none, helloDead := none, tables := 0 } }
  electEnd (waveStart (sendPorts 0x02 (leBytes (ownKey b) 16) ps b))

/-- A fabric of one (R301): root, the pin or 0, then the routes at once. -/
def fabricOfOne (b : Block) : Block :=
  let f := b.fab
  let e : Elect := { best := ownKey b, parent := none, pend := [], nodes := 1, pinned := b2n f.fru.pinned, height := 0,
                     children := [], done := true, told := false }
  let node := if f.fru.pinned then f.fru.pin else 0
  let m : MapNode := { serial := ownSerial b, first := true, second := true, live := true, links := [] }
  loadRoutes { b with fab := { f with
    isRoot := true, node := node, rootNode := node, rootSerial := ownSerial b, elect := e, fabNodes := 1, nodes := 1, height := 0, pinMode := b2n f.fru.pinned,
    map := tset mapZero [] node m, serials := tset 0 [] (ownSerial b) (node + 1), tables := 0, trainDead := none,
    helloDead := none } }

/-- Ports whose module is present: it answered with an identifier other than 0x00, be it a CMIS module or not (R299). -/
def modulePorts (b : Block) : List Nat := (List.range (nPorts b)).filter (fun p => (portOf b p).ident != 0)

/-- HELLO has completed on every port whose module is present (R301). -/
def helloDone (b : Block) : Bool :=
  let ps := modulePorts b
  !ps.isEmpty && ps.all (fun p => (portOf b p).up && (portOf b p).hello)

/-- The election begins once HELLO is complete everywhere. -/
def helloCheck (b : Block) : Block :=
  if (b.fab.phase == 1 || b.fab.phase == 2) && helloDone b then startElection b else b

/-- Every present port is up: the HELLO phase begins (R300). -/
def trainCheck (b : Block) : Block :=
  let ps := modulePorts b
  if b.fab.phase == 1 && !ps.isEmpty && ps.all (fun p => (portOf b p).up) then
    { b with fab := { b.fab with phase := 2, helloDead := some (hubNow b + 2 ^ 20) } }
  else b

/-- The block joins in service by port `port`, whose neighbour is READY and has told the root's node ID: it sends JOIN_REQUEST to
the root (R306). -/
def joinBy (port root : Nat) (b : Block) : Block :=
  let b := { b with fab := { b.fab with joining := true, rootNode := root, phase := 4, trainDead := none,
                                        helloDead := none, via := tset 0 b.fab.via root (port + 1) } }
  let body := (helloBody b port false).take 18
  waveStart (bumpSeq (emit (.serdo port { neighbour b port 0x0A body with dst := root }) b))

/-- The lowest port whose neighbour has said that it is READY, with the root that it named. -/
def readyPeer (b : Block) : Option (Nat × Nat) :=
  (helloPorts b).findSome? (fun p => (portOf b p).root.map (fun r => (p, r)))

/-- Phase 2 begins when the identity reads have ended; a block whose neighbour has said READY meanwhile joins in service (R300,
R306). -/
def beginTrain (b : Block) : Block :=
  if b.fab.phase ≠ 0 ∨ b.fab.fruDead.isSome ∨ !b.fab.cmisLeft.isEmpty ∨ b.pwr.step < 7 then b else
  let b := { b with fab := { b.fab with phase := 1, trainDead := some (hubNow b + b.fab.trainUse * 65536) } }
  let b := helloAll false b
  match readyPeer b with
  | some (p, root) => joinBy p root b
  | none => helloCheck (trainCheck b)

/-- A restart from the HELLO phase with FRESH (R305, R387): every port's HELLO exchange begins again. -/
def restartFresh (count : Bool) (b : Block) : Block :=
  let f := b.fab
  let quiet (_ : Nat) (r : Port) : Port := { r with hello := false, named := false, root := none }
  let b := { b with fab := { f with
    ports := tmap portZero f.ports quiet, fresh := true, flooded := false, joins := [], via := [], relays := [], dups := [],
    trainUse := f.train, waveUse := f.waveLog2,
    phase := 2, elect := electReset, map := [], tables := 0, isRoot := false,
    joining := false, waveDead := none, trainDead := none, epochs := [], epoch := 0, change := none, waiting := [],
    drains := [], swAt := none, restarts := if count then satAdd 8 f.restarts 1 else f.restarts,
    helloDead := some (hubNow b + 2 ^ 20) } }
  helloAll true b

/-- DISCOVERY_TRAINING_EXPIRY (R301). -/
def trainingExpiry (b : Block) : Block :=
  if !(b.fab.phase == 1 || b.fab.phase == 2) || !due (hubNow b) b.fab.trainDead then b else
  if (upPorts b).isEmpty then fabricOfOne b else startElection b

/-- HELLO_PHASE_EXPIRY (R300): the last HELLOs are awaited no longer. -/
def helloExpiry (b : Block) : Block :=
  if b.fab.phase ≠ 2 ∨ !due (hubNow b) b.fab.helloDead then b else
  if (upPorts b).isEmpty && (helloPorts b).isEmpty then fabricOfOne b else startElection b

/-- DISCOVERY_WAVE_EXPIRY (R305). An in-service election keeps the tables and begins again. -/
def waveExpiry (b : Block) : Block :=
  if !due (hubNow b) b.fab.waveDead || b.fab.phase == 9 then b
  else if b.fab.electing then startElection b
  else if 2 ≤ b.fab.phase ∧ b.fab.phase ≤ 7 then restartFresh true b else b

/-! ### Identity reads (R296 to R299) -/

/-- The FRU is absent or invalid (R298). -/
def fruInvalid : Fru :=
  { valid := false, pinned := false, pin := 0, cooling := 0, power := 0, slot := 0, serial := 2 ^ 64 - 1 }

/-- Bytes sum to zero modulo 256. -/
def sumZero (l : List Byte) : Bool := (l.foldl (fun a x => a + x.toNat) 0) % 256 == 0

/-- The Haeveren OEM record among the multirecords, at most `fuel` of them; none where a checksum fails or it is not
there (R297). -/
def fruRecord : Nat → List Byte → Option (List Byte)
  | 0, _ => none
  | fuel + 1, l =>
    let n := (l.getD 2 0).toNat
    let d := slice l 5 n
    if l.length < 5 + n ∨ !sumZero (l.take 5) ∨ !sumZero (d ++ [l.getD 3 0]) then none
    else if (l.getD 0 0).toNat = 0xC0 && leNat (d.take 3) == 0x0A5ED1 && (d.getD 3 0).toNat == 0x48 then some d
    else if bitOf (l.getD 1 0).toNat 7 then none
    else fruRecord fuel (l.drop (5 + n))

/-- The FRU that the EEPROM's bytes give (R297, R298). -/
def fruOf (l : List Byte) : Fru :=
  if l.length < 8 ∨ !sumZero (l.take 8) then fruInvalid else
  match fruRecord 16 (l.drop (8 * (l.getD 5 0).toNat)) with
  | none => fruInvalid
  | some d =>
    let pin := leNat (slice d 5 2)
    let cool := (d.getD 19 0).toNat
    if d.length ≠ 22 ∨ (d.getD 4 0).toNat ≠ 1 ∨ leNat (slice d 17 2) = 0 ∨ leNat (slice d 20 2) ≠ 0
        ∨ bitOf pin 14 = true then fruInvalid
    else { valid := true, pinned := bitOf pin 15, pin := fld pin 0 14, cooling := if cool ≤ 3 then cool else 0,
           power := leNat (slice d 17 2), slot := leNat (slice d 7 2), serial := leNat (slice d 9 8) }

/-- The EEPROM reads after the common header: each record's header and its data, up to the record that is taken (R297). -/
def fruReads : Nat → Nat → List Byte → List Output
  | 0, _, _ => []
  | fuel + 1, off, l =>
    let n := (l.getD 2 0).toNat
    let d := slice l 5 n
    let mine := [Output.idRead 0 0x50 off 5, Output.idRead 0 0x50 (off + 5) n]
    if l.length < 5 + n || !sumZero (l.take 5) || !sumZero (d ++ [l.getD 3 0])
        || ((l.getD 0 0).toNat == 0xC0 && leNat (d.take 3) == 0x0A5ED1 && (d.getD 3 0).toNat == 0x48)
        || bitOf (l.getD 1 0).toNat 7 then mine
    else mine ++ fruReads fuel (off + 5 + n) (l.drop (5 + n))

/-- The module that a bus reads next, ports ascending among those still to read (R299). -/
def nextModule (b : Block) (bus : Nat) : Option Nat :=
  ((List.range 18).map (fun k => 18 * bus + k)).find? (fun p => b.fab.cmisLeft.contains p || b.fab.rescan.contains p)

/-- A bus goes on to its next module: it is selected and its lower memory read, within 2^17 CLK_MGT cycles (R296, R299). -/
def startModule (bus : Nat) (b : Block) : Block :=
  match nextModule b bus with
  | none => emit (.idSelect bus 0x1F) b
  | some p =>
    emitAll [.idSelect bus (p % 18), .idRead bus 0x50 0 128]
      { b with fab := { b.fab with cmisDead := tset none b.fab.cmisDead p (some (mgtNow b + 2 ^ 17)) } }

/-- A bus is reading a module. -/
def busReads (b : Block) (bus : Nat) : Bool := b.fab.cmisDead.any (fun e => e.2.isSome && e.1 / 18 == bus)

/-- The buses that read no module begin a scan, in parallel. -/
def startModules (b : Block) : Block :=
  (List.range 4).foldl (fun b bus => if busReads b bus then b else startModule bus b) b

/-- FRU_READ: the EEPROM's bytes, or none where the read failed or its bound expired. -/
def fruRead (data : Option (List Byte)) (b : Block) : Block :=
  match b.fab.fruDead with
  | none => b
  | some d =>
    if data.isNone && !expired (mgtNow b) d then b else
    let fru := match data with | some l => fruOf l | none => fruInvalid
    let reads := match data with
      | some l => if l.length < 8 || !sumZero (l.take 8) then [] else
          let off := 8 * (l.getD 5 0).toNat
          fruReads 16 off (l.drop off)
      | none => []
    beginTrain (startModules (emitAll reads { b with fab := { b.fab with fru := fru, fruDead := none } }))

/-- What a module's CMIS bytes give: lower memory bytes 0 to 127, then byte 201 of page 00h (R299). -/
def cmisPort (l : List Byte) (r : Port) : Port :=
  let byte (i : Nat) : Nat := (l.getD i 0).toNat
  if byte 0 = 0 then { r with present := false, ident := 0, mstate := 0, media := 0, maxpwr := 0 }
  else if byte 1 / 16 < 4 then { r with present := false, ident := byte 0, mstate := 0, media := 0, maxpwr := 0 }
  else { r with present := true, ident := byte 0, mstate := fld (byte 3) 1 3, media := byte 85, maxpwr := byte 128 }

/-- The transactions that follow the read of a module's lower memory: none where it is absent or no CMIS module; else page 00h
is selected, unless byte 2 reports flat memory, and byte 201 read (R299). -/
def pageReads (bus : Nat) (l : List Byte) : List Output :=
  let byte (i : Nat) : Nat := (l.getD i 0).toNat
  if byte 0 = 0 ∨ byte 1 / 16 < 4 then []
  else (if bitOf (byte 2) 7 then [] else [.idWrite bus 0x50 127 0]) ++ [.idRead bus 0x50 201 1]

/-- CMIS_READ of port `p`, the module its bus is reading: the module's bytes, or none where it did not answer within its bound.
The bus goes on to its next module. A rescan ends when the last module has been read (R310). -/
def cmisRead (p : Nat) (data : Option (List Byte)) (b : Block) : Block :=
  match tget none b.fab.cmisDead p with
  | none => b
  | some dead =>
  if data.isNone && !expired (mgtNow b) dead then b else
  let f (r : Port) : Port := match data with
    | some l => cmisPort l r
    | none => { r with present := false, ident := 0, mstate := 0, media := 0, maxpwr := 0 }
  let b := modPort p f b
  let drop (l : List Nat) : List Nat := l.filter (· != p)
  let b := { b with fab := { b.fab with cmisLeft := drop b.fab.cmisLeft, rescan := drop b.fab.rescan,
                                        cmisDead := tset none b.fab.cmisDead p none } }
  let reads := match data with | some l => pageReads (p / 18) l | none => []
  beginTrain (startModule (p / 18) (emitAll reads b))

/-- Start-up step 7: discovery begins, and reads its settings (R310); the identity reads begin, the FRU first (R297, R300,
R395). -/
def beginIdent (b : Block) : Block :=
  let ps := List.range (nPorts b)
  emitAll [.idSelect 0 0x1F, .idRead 0 0x50 0 8]
    { b with fab := { b.fab with phase := 0, fruDead := some (mgtNow b + 2 ^ 18), cmisLeft := ps,
                                 trainUse := b.fab.train, waveUse := b.fab.waveLog2 } }

/-! ### Messages of discovery -/

/-- A FRESH HELLO restarts a block that is not READY (R305). A block in its HELLO phase by a restart of its own has restarted
already and does not restart again, and one in IDENT has not started yet (DEDUCED, log entry 17: two neighbours would else
restart each other for ever). -/
def freshHere (fresh : Bool) (b : Block) : Bool :=
  fresh && decide (1 ≤ b.fab.phase) && decide (b.fab.phase ≤ 7) && !(b.fab.phase == 2 && b.fab.fresh)

/-- What a HELLO says of the neighbour on the port. -/
def notePeer (port : Nat) (m : SerdoMsg) (b : Block) : Block :=
  let node := bodyNat m 20 2
  modPort port (fun r => { r with
    hello := true, ver := min 2 (bodyNat m 18 1), peerNode := if node = 0xFFFF then r.peerNode else node,
    named := node != 0xFFFF, peerPort := bodyNat m 19 1, peerSerial := bodyNat m 0 8, peerTie := bodyNat m 8 8,
    peerPin := bodyNat m 16 2,
    root := if bitOf (bodyNat m 22 1) 0 && !bitOf (bodyNat m 22 1) 1 then some (bodyNat m 23 2) else none }) b

/-- HELLO (R293, R301, R305 to R307): the port's exchange is complete and its version settled; a FRESH one restarts a
block that is not READY, and at a READY block stands for a READY neighbour that has left and joins again; READY in it makes a
block that has read its identity and has no node ID yet join in service. `down` is what NODE_DOWN does. -/
def takeHello (down : Nat → Nat → Block → Block) (port : Nat) (m : SerdoMsg) (b : Block) : Block :=
  if b.fab.withdrawn then b else
  let flags := bodyNat m 22 1
  let was := portOf b port
  let fresh := bitOf flags 1
  if freshHere fresh b then helloCheck (notePeer port m (restartFresh true b)) else
  let b := notePeer port m b
  if b.fab.phase = 8 then
    let b := if fresh && was.hello && was.named && nodeLive b was.peerNode then down was.peerNode 1 b else b
    let b := if !was.hello || fresh then sendHello false port b else b
    if bitOf flags 0 && !was.hello then requestChange port b else b
  else if bitOf flags 0 && !fresh && decide (1 ≤ b.fab.phase) && decide (b.fab.phase ≤ 3) then joinBy port (bodyNat m 23 2) b
  else floodCheck (helloCheck b)

/-- ELECT (R302). A block that is not electing yet joins at once (R301). -/
def takeElect (port : Nat) (m : SerdoMsg) (b : Block) : Block :=
  let k := bodyNat m 0 16
  if b.fab.withdrawn || b.fab.phase == 9 then b else
  let b := if decide (b.fab.phase ≤ 2) then startElection b
    else if b.fab.phase == 8 && !b.fab.electing then startElection { b with fab := { b.fab with electing := true } }
    else b
  let e := b.fab.elect
  if k < e.best then
    let ps := (helloPorts b).filter (· != port)
    let e : Elect := { best := k, parent := some port, pend := ps, nodes := 1, pinned := b2n b.fab.fru.pinned,
                       height := 0, children := [], done := false, told := false }
    let phase := if b.fab.electing then b.fab.phase else 3
    let b := { b with fab := { b.fab with elect := e, phase := phase, isRoot := false } }
    electEnd (waveStart (sendPorts 0x02 (leBytes k 16) ps b))
  else if k = e.best ∧ e.pend.contains port = true then
    let e := { e with pend := e.pend.filter (· != port) }
    electEnd (waveStart { b with fab := { b.fab with elect := e } })
  else b

/-- ECHO (R302). -/
def takeEcho (port : Nat) (m : SerdoMsg) (b : Block) : Block :=
  let e := b.fab.elect
  if bodyNat m 0 16 ≠ e.best ∨ !e.pend.contains port then b else
  let child := bitOf (bodyNat m 16 1) 0
  let pend := e.pend.filter (· != port)
  let e := if child then
      { e with pend := pend, nodes := e.nodes + bodyNat m 20 4, pinned := e.pinned + bodyNat m 24 4,
               height := max e.height (bodyNat m 28 1),
               children := e.children ++ [{ port := port, size := bodyNat m 20 4, ready := false }] }
    else { e with pend := pend }
  electEnd (waveStart { b with fab := { b.fab with elect := e } })

/-- An ASSIGN that comes to a READY block answers the oldest JOIN_REQUEST that it passed on by that port, and goes back by the
port which that came by; the way to the node named is kept until its routes are there (R306; DESIGN CHOICE, log entry 17). -/
def relayAssign (port : Nat) (m : SerdoMsg) (b : Block) : Block :=
  match b.fab.relays.find? (·.1 == port) with
  | none => b
  | some r =>
    let via := if bodyNat m 5 1 = 3 then b.fab.via else tset 0 b.fab.via (bodyNat m 0 2) (r.2 + 1)
    sendPort 0x04 m.body r.2 { b with fab := { b.fab with relays := b.fab.relays.erase r, via := via } }

/-- ASSIGN (R303, R306). In an in-service election it names the new root alone; a joining block takes the ID given and tells it
to its neighbours by HELLO; a READY block passes it on to the block that joins. -/
def takeAssignMsg (port : Nat) (m : SerdoMsg) (b : Block) : Block :=
  let key := bodyNat m 8 16
  let mode := bodyNat m 5 1
  if b.fab.electing then
    let root := match b.fab.map.find? (fun e => e.2.serial == key / 2 ^ 64) with
      | some e => e.1
      | none => b.fab.rootNode
    let b := { b with fab := { b.fab with electing := false, rootNode := root, rootSerial := key / 2 ^ 64,
                                          waveDead := none } }
    assignChildren b.fab.fabNodes b.fab.elect.height b.fab.pinMode 0 key (childrenInOrder b) 0 b
  else if b.fab.phase = 8 then relayAssign port m b
  else if b.fab.phase ≠ 4 then b
  else if b.fab.joining then
    if mode = 3 then discFail (bodyNat m 6 1) b else
    let node := bodyNat m 0 2
    waveStart (floodOwn (helloAll false { b with fab := { b.fab with
      node := node, fabNodes := bodyNat m 2 2, nodes := bodyNat m 2 2,
      height := bodyNat m 4 1, pinMode := mode, rootSerial := key / 2 ^ 64, phase := 5 } }))
  else if b.fab.elect.parent == some port then
    takeAssign (bodyNat m 0 2) (bodyNat m 2 2) (bodyNat m 4 1) mode (bodyNat m 6 1) key b
  else b

/-- The links of a MAP message. -/
def mapLinks (m : SerdoMsg) : List MapLink :=
  (List.range (min 36 (bodyNat m 11 1))).filterMap (fun i =>
    let w := bodyNat m (12 + 4 * i) 4
    if w = 0 then none
    else some { port := bodyNat m 10 1 + i, up := bitOf w 31, node := fld w 16 14, peer := fld w 0 7 })

/-- A MAP half of a block whose pin is a duplicate: its first half seen takes the block out of the count; it is passed on, so
that the block itself hears of it (R304). -/
def dropDup (port : Nat) (serial : Nat) (second : Bool) (m : SerdoMsg) (b : Block) : Block :=
  if b.fab.dups.contains (serial, second) then b else
  let n := if b.fab.dups.any (·.1 == serial) then 0 else 1
  serdoFlood port m { b with fab := { b.fab with
    dups := b.fab.dups ++ [(serial, second)], fabNodes := b.fab.fabNodes - n, nodes := b.fab.nodes - n } }

/-- The record of node `node` held so far is that of a block whose pin is a duplicate: it is deleted (R304). -/
def deleteDup (node : Nat) (r : MapNode) (b : Block) : Block :=
  let halves := (if r.first then [(r.serial, false)] else []) ++ (if r.second then [(r.serial, true)] else [])
  { b with fab := { b.fab with map := terase b.fab.map node, dups := b.fab.dups ++ halves, fabNodes := b.fab.fabNodes - 1,
                               nodes := b.fab.nodes - 1 } }

/-- In pinned mode a record of node `node` with another serial is held (R304). -/
def otherSerial (b : Block) (node serial : Nat) : Option MapNode :=
  let r := tget mapZero b.fab.map node
  if b.fab.pinMode == 1 && (r.first || r.second) && r.serial != serial then some r else none

/-- The block withdraws: another block has its pin and a lower key (R304). -/
def withdraw (b : Block) : Block :=
  let b := discFail 1 b
  { b with fab := { b.fab with withdrawn := true } }

/-- The links of a record stand in its neighbours' records too. -/
def backLinks (node : Nat) (ls : List MapLink) (b : Block) : Block :=
  (ls.filter (fun l => l.up && l.node != b.fab.node)).foldl (fun b l =>
    modMap l.node (linkSet { port := l.peer, up := true, node := node, peer := l.port }) b) b

/-- The edits that add a block to the fabric: the node, and its links seen from both ends (R306). -/
def joinEdits (node : Nat) (r : MapNode) : List EpochEdit :=
  EpochEdit.nodeUp node r.serial :: ((r.links.filter (·.up)).map (fun l =>
    [EpochEdit.linkUp node l.port l.node l.peer, EpochEdit.linkUp l.node l.peer node l.port])).flatten

/-- The root holds the whole MAP of a block it has given an ID: the epoch change that adds its routes begins (R306). -/
def joinCheck (node : Nat) (b : Block) : Block :=
  let r := tget mapZero b.fab.map node
  if b.fab.isRoot && r.first && r.second && b.fab.joins.contains (node, r.serial) then
    rootChange (joinEdits node r) { b with fab := { b.fab with joins := b.fab.joins.filter (·.1 != node) } }
  else b

/-- MAP (R304): a record not seen before is kept and flooded on every other up port. -/
def takeMap (port : Nat) (m : SerdoMsg) (b : Block) : Block :=
  if b.fab.withdrawn || !(decide (4 ≤ b.fab.phase) && decide (b.fab.phase ≤ 8)) then b else
  let node := bodyNat m 0 2
  let serial := bodyNat m 2 8
  let second := bodyNat m 10 1 = 36
  let own := decide (b.fab.phase ≠ 4) && node == b.fab.node
  if own && b.fab.pinMode == 1 && decide (b.fab.phase ≠ 8) && decide (serial < ownSerial b) then withdraw b
  else if own && serial == ownSerial b then b
  else if own && !(b.fab.pinMode == 1 && b.fab.phase != 8) then b
  else if own || (otherSerial b node serial).any (fun r => decide (r.serial < serial) && b.fab.phase != 8) then
    let d := dropDup port serial second m b
    if b.fab.phase = 7 then routesEcho d else mapCheck d
  else
    let b := match otherSerial b node serial with
      | some r => if b.fab.phase = 8 then b else deleteDup node r b
      | none => b
    let r := tget mapZero b.fab.map node
    if (if second then r.second else r.first) && r.serial == serial && b.fab.phase ≠ 8 then mapCheck b else
    let keep := r.links.filter (fun l => if second then decide (l.port < 36) else decide (36 ≤ l.port))
    let r' : MapNode := { serial := serial, first := r.first || !second, second := r.second || second,
                          live := r.live || b.fab.phase != 8, links := keep ++ mapLinks m }
    if r' = r then b else
    let b := { b with fab := { b.fab with map := tset mapZero b.fab.map node r',
                                          serials := tset 0 b.fab.serials serial (node + 1) } }
    let b := serdoFlood port m b
    if b.fab.phase = 5 then mapCheck (waveStart b)
    else if b.fab.phase = 8 then joinCheck node (backLinks node (mapLinks m) b) else b

/-- ROUTES_READY from a child. -/
def takeRoutesReady (port : Nat) (m : SerdoMsg) (b : Block) : Block :=
  if !(b.fab.elect.children.any (·.port == port)) || !(decide (5 ≤ b.fab.phase) && decide (b.fab.phase ≤ 7)) then b else
  let heard (c : Child) : Child := if c.port == port then { c with ready := true } else c
  let e := { b.fab.elect with children := b.fab.elect.children.map heard }
  routesEcho (waveStart { b with fab := { b.fab with tables := b.fab.tables + bodyNat m 0 4, elect := e } })

/-- READY from the parent. -/
def takeReady (port : Nat) (b : Block) : Block :=
  if b.fab.phase == 7 && b.fab.elect.parent == some port then becomeReady b else b

/-- The lowest node ID that nothing holds. -/
def freeNode (b : Block) : Nat :=
  (firstBelow 16384 (fun n => !((liveNodes b).contains n || b.fab.joins.any (·.1 == n)))).getD 0

/-- JOIN_REQUEST at the root (R306): the ID is the pin, else the one last held by the serial, else the lowest free; the
ASSIGN goes out on the port the request came by, and the epoch change that adds the routes awaits the block's MAP, which tells
its links (DESIGN CHOICE, log entry 17). -/
def takeJoinRequest (port : Nat) (m : SerdoMsg) (b : Block) : Block :=
  if !b.fab.isRoot || b.fab.phase ≠ 8 then b else
  let serial := bodyNat m 0 8
  let pin := bodyNat m 16 2
  let pinned := bitOf pin 15
  let held := tget 0 b.fab.serials serial
  let id := if pinned then fld pin 0 14 else if held ≠ 0 && !((liveNodes b).contains (held - 1)) then held - 1 else freeNode b
  let n := b.fab.nodes + 1
  let answer (mode code : Nat) (b : Block) : Block :=
    sendPort 0x04 (assignBody id n b.fab.height mode code (ownKey b)) port b
  if pinned && (liveNodes b).contains id then answer 3 1 b
  else
    let js := b.fab.joins.filter (fun x => x.1 != id && x.2 != serial)
    answer (b2n pinned) 0 { b with fab := { b.fab with
      joins := js ++ [(id, serial)], via := tset 0 b.fab.via id (port + 1) } }

/-- A change of `fm_port_up` (R300, R307): a port that comes up gets a HELLO; after READY the root hears of it, and a
neighbour whose every port is down is reported down. -/
def portChange (down : Nat → Nat → Block → Block) (p : Nat) (up : Bool) (b : Block) : Block :=
  let was := portOf b p
  if was.up == up then b else
  let b := modPort p (fun r => { r with
    up := up, hello := up && r.hello, named := up && r.named, root := if up then r.root else none }) b
  let b := { b with fab := { b.fab with relays := b.fab.relays.filter (fun r => up || r.1 != p && r.2 != p) } }
  if b.fab.withdrawn then b
  else if up then
    if b.fab.phase = 0 ∨ b.fab.phase = 9 then b else
    let b := sendHello false p b
    if b.fab.phase = 2 then { b with fab := { b.fab with helloDead := some (hubNow b + 2 ^ 20) } } else trainCheck b
  else if b.fab.phase = 8 then
    let b := if was.hello then requestChange p b else b
    let others := (List.range (nPorts b)).any (fun q => (portOf b q).up && (portOf b q).hello
      && (portOf b q).peerNode == was.peerNode)
    if was.hello && was.named && !others then down was.peerNode 0 b else b
  else floodCheck (helloCheck b)

end Sys2Proof.Machine
end

