-- ==== Sys2Proof/Machine/Random.lean ====
section
/-! DEFINITION. SEC's random values: the CTR_DRBG and what is drawn from it (R328). -/

namespace Sys2Proof.Machine

/-- Requests after which the generator reseeds. -/
def drbgLife : Nat := 2 ^ 16

/-- Seed the generator from the entropy source, whose 48 bytes are a free value (log entry 2); `key` and `v` are what it held. -/
def drbgSeed (key : List Byte) (v : Nat) (b : Block) : Block :=
  let u := drbgUpdate key v (leBytes (freeVal 384 b).toNat 48)
  useFree { b with sec := { b.sec with drbg := { key := u.1, v := u.2, count := 0 } } }

/-- The generator is ready for a request: seeded at its first one, seeded again after 2^16. -/
def drbgReady (b : Block) : Block :=
  let d := b.sec.drbg
  if d.count = 0 then drbgSeed (List.replicate 32 0) 0 b
  else if drbgLife ≤ d.count then drbgSeed d.key d.v b
  else b

/-- One request for `n` bytes. -/
def drawBytes (n : Nat) (b : Block) : List Byte × Block :=
  let b := drbgReady b
  let d := b.sec.drbg
  let k := ceilDiv n 16
  let u := drbgUpdate d.key ((d.v + k) % 2 ^ 128) (List.replicate 48 0)
  ((drbgBlocks d.key d.v k).take n, { b with sec := { b.sec with drbg := { key := u.1, v := u.2, count := d.count + 1 } } })

/-- A scalar of the group from 56 random bytes (R328; the reduction is PRESUMED, FIPS 186, log entry 5). -/
def drawScalar (b : Block) : Nat × Block :=
  let r := drawBytes 56 b
  (beNat r.1 % (p384N - 1) + 1, r.2)

/-- A signature with the identity key, its random value drawn from the generator. -/
def signIdk (digest : List Byte) (b : Block) : List Byte × Block :=
  let r := drawScalar b
  (ecdsaSign b.sec.scalar r.1 digest, r.2)

end Sys2Proof.Machine
end

