-- ==== Sys2Proof/Machine/Mosaic.lean ====
section
/-! DEFINITION. Mosaics: creation, binding, joining and the link key agreement (R265 to R273, R295). -/

namespace Sys2Proof.Machine

/-! ### Member lists (R420) -/

/-- A member as a list names it. -/
def memberZero (node : Nat) (hash : List Byte) : Member :=
  { node := node, hash := hash, idk := [], eph := [], confirmed := false, lost := false, migHeld := false, lastSeq := none }

/-- The 64-byte entries of a member list. -/
def memberEntries (data : List Byte) : List (List Byte) :=
  (List.range (data.length / 64)).map (fun i => slice data (64 * i) 64)

/-- The members of a list, by ascending node (R267). -/
def membersOf (data : List Byte) : List Member :=
  let ms := (memberEntries data).map (fun x => memberZero (fld (word x 0) 0 14) (slice x 16 48))
  (sortKey id (ms.map (·.node))).filterMap (fun n => ms.find? (·.node == n))

/-- The nodes of a list, as they stand in it. -/
def listNodes (data : List Byte) : List Nat := (memberEntries data).map (fun x => fld (word x 0) 0 14)

/-- Every reserved byte of a list is zero. -/
def listZeros (data : List Byte) : Bool :=
  (memberEntries data).all (fun x => fld (word x 0) 14 18 == 0 && allZero (slice x 4 12))

/-- A neighbour known to speak only version 1 of Serdo (R271). -/
def onlyV1 (b : Block) (n : Nat) : Bool :=
  (List.range (nPorts b)).any (fun p => (portOf b p).hello && (portOf b p).peerNode == n && (portOf b p).ver == 1)

/-! ### MOSAIC_CREATE (R271) -/

/-- MOSAIC_CREATE: the checks that need no member list; then the list is read. -/
def mosaicCreate (i : Nat) (e : List Byte) (b : Block) : Block :=
  let id := ef e 4 16 16
  let n := ef e 5 0 15
  if b.fab.phase ≠ 8 then admFinal i .badState b
  else if (mosOf b (ef e 4 0 6)).state != .free then admBad i .badState 16 b
  else if id = 0 ∨ (slotOfId b id).isSome = true then admBad i .badParam 18 b
  else if n = 0 ∨ 16384 < n then admBad i .badParam 20 b
  else match bufBad (dword e 6) (64 * n) 64 with
    | some st => admBad i st 24 b
    | none => admRead i b

/-- The checks of a member list that R271 makes. -/
def listCheck (b : Block) (data : List Byte) : Option Status :=
  let ns := listNodes data
  if ns.dedup.length ≠ ns.length ∨ !ns.contains b.fab.node then some .badParam
  else if ns.any (onlyV1 b) then some .notPermitted
  else none

/-- The member list of a MOSAIC_CREATE has been read. A context of CTX_MAP at or above the count is rejected (R3). -/
def createData (i : Nat) (e data : List Byte) (b : Block) : Block :=
  let k := ef e 4 0 6
  match listCheck b data with
  | some st => admBad i st 24 b
  | none =>
    if nContexts b ≤ ef e 4 8 8 then admBad i .badParam 17 b
    else if 2 ^ nContexts b ≤ leNat (slice e 48 32) then admBad i .badParam 48 b
    else if dword e 8 % 131072 ≠ 0 then admBad i .badAlign 32 b
    else if !listZeros data then admBad i .badParam 24 b
    else admFinal i .ok (modMos k (fun m => { mosZero with
      state := .created, id := ef e 4 16 16, members := membersOf data
      ctxs := swWins4 b (.mosCtx k) m.ctxs (leNat (slice e 48 32)),
      collCtx := ef e 4 8 8, scratchBase := dword e 8, scratchSlots := ef e 10 0 20 }) b)

/-! ### Tesserae (R266, R272) -/

/-- Core, channel and link sets that an entry names. -/
def entrySets (e : List Byte) : Nat × Nat × Nat := (leNat (slice e 44 64), leNat (slice e 108 8), leNat (slice e 116 12))

/-- The tesserae of some slot. -/
def boundIn (b : Block) (f : MosRec → Nat) (i : Nat) : Bool :=
  b.fab.slots.any (fun s => s.2.state != .free && bitOf (f s.2) i)

/-- Channel `c` of this chip is the target of a migration: of one with its source here from its start, of one with its source on
another chip from the EPOCH_PREPARE that tells of it, since no message tells of it before (R289, R294; log entry 38). -/
def chanTarget (b : Block) (c : Nat) : Bool :=
  b.fab.mig.any (fun m => m.dstNode == b.fab.node && m.dstChan == c)
  || b.fab.change.any (fun x => x.edits.any (fun e => match e with
    | .move _ _ _ dn dc => !x.switched && dn == b.fab.node && dc == c
    | _ => false))

/-- A channel is free: in no slot, not still to be scrubbed after a release (R275; DEDUCED, log entry 38), and neither the source
nor the target of a migration (R289). -/
def chanFree (b : Block) (c : Nat) : Bool :=
  !boundIn b (·.chans) c && !(b.fab.slots.any (fun s => s.2.rel.any (fun r => bitOf r.chans c)))
  && !(b.fab.mig.any (fun m => m.src == c)) && !chanTarget b c

/-- A link port is bound: to some slot, or in the masks of the current epoch, which it leaves only by an epoch change (R275,
R279). -/
def linkBound (b : Block) (p : Nat) : Bool :=
  boundIn b (·.links) p || (epochOf b (b.fab.epoch % 4)).masks.any (fun e => bitOf e.2 p)

/-- A bit of a set at or above a count. -/
def beyond (x n : Nat) : Bool := decide (2 ^ n ≤ x)

/-- The first of R272's checks that the sets to be added fail: status and byte offset in the entry. -/
def addCheck (b : Block) (cores chans links : Nat) : Option (Status × Nat) :=
  if beyond cores (nCores b) then some (.badParam, 44)
  else if beyond chans (nChannels b) then some (.badParam, 108)
  else if beyond links (nPorts b) then some (.badParam, 116)
  else if (bitsOf cores 512).any (fun k => boundIn b (·.cores) k || (coreOf b k).failed) then some (.noResource, 44)
  else if (bitsOf chans 64).any (fun c => !chanFree b c) then some (.noResource, 108)
  else if (bitsOf links 72).any (linkBound b) then some (.noResource, 116)
  else none

/-- The scratch region lies wholly on the channels given. -/
def scratchOn (b : Block) (m : MosRec) (chans : Nat) : Bool :=
  let off := m.scratchBase % 2 ^ 50
  let n := m.scratchSlots * 131072
  n == 0 || (m.scratchBase / 2 ^ 50 == b.fab.node && decide (off + n ≤ 2 ^ 41)
    && (List.range 64).all (fun c => bitOf chans c || decide (off + n ≤ c * 2 ^ 35) || decide ((c + 1) * 2 ^ 35 ≤ off)))

/-! ### Key agreement messages (R295) -/

/-- What KEY_AGREE signs: header words 0 to 2, as the sender writes them, and bytes 0 to 237. -/
def agreeDigest (m : SerdoMsg) : List Byte :=
  sha384 ((serdoHeader { m with hops := 64 }).take 12 ++ m.body.take 238)

/-- Send KEY_AGREE to node `d`, signed with the identity key. -/
def sendAgree (k gen : Nat) (wrapped : List Byte) (d : Nat) (b : Block) : Block :=
  let r := mosOf b k
  let pre := ecPublic (r.eph.getD 1) ++ leBytes gen 4 ++ wrapped ++ b.sec.pub ++ List.replicate (97 - b.sec.pub.length) 0
  let m : SerdoMsg := { ver := 2, auth := !r.key.isEmpty, typ := 0x12, src := b.fab.node, dst := d, mosaic := r.id,
                        hops := 64, epoch := b.fab.epoch, seq := 0, body := pre ++ List.replicate 96 0, tag := [] }
  let s := signIdk (agreeDigest m) b
  sendMos 0x12 (pre ++ s.1) k d s.2

/-- This chip draws its ephemeral scalar for the agreement. -/
def drawEph (k : Nat) (b : Block) : Block :=
  match (mosOf b k).eph with
  | some _ => b
  | none =>
    let x := drawScalar b
    modMos k (fun r => { r with eph := some x.1 }) x.2

/-- A member opens the agreement with the leader; it sends right after its MOSAIC_JOIN or on entering KEYING
(DESIGN CHOICE, log entry 16). -/
def memberAgree (k : Nat) (b : Block) : Block :=
  let b := drawEph k b
  sendAgree k ((mosOf b k).gen + 1) (List.replicate 40 0) (leaderOf b k) b

/-- The wrapping key of an agreement: HKDF over the shared secret. -/
def wrapKey (id gen : Nat) (shared : List Byte) : List Byte :=
  hkdf384 [] shared ([0x51, 0x4D, 0x4C, 0x4B] ++ leBytes id 2 ++ leBytes gen 4) 32

/-! ### Unbinding -/

/-- Cores of slot `k` leave it between pieces: a piece preloaded on one, or a chunk preloaded on its sequencer, is withdrawn
(R149, R153). A core whose sequencer runs a pass leaves at the report of its end, any other at once. -/
def unbindCores (k mask : Nat) (b : Block) : Block :=
  let cs := (bitsOf mask 512).filter (bitOf (mosOf b k).cores ·)
  let b := ((cs.map (· / 8)).dedup).foldl (fun b n => withdrawChunk n b) b
  leaveCores (fun c => (banksOf (seqrOf b (c / 8))).isEmpty)
    (cs.foldl (fun b c => withdrawCore c (modCore c (fun x => { x with unbinding := true }) b)) b)

/-- The ports bound to slot `k` become `links`: new ones get the link key, and an epoch change loads the masks (R279,
R345). -/
def setLinks (k links : Nat) (b : Block) : Block :=
  let old := (mosOf b k).links
  if old = links then b else
  let b := modMos k (fun m => { m with links := links }) b
  let b := if (mosOf b k).key.isEmpty then b else linkInstall k (maskMinus links old) b
  requestChange (((bitsOf (Nat.xor old links) 72).head?).getD 0) b

/-- Every tessera of slot `k` is released. -/
def releaseTesserae (k : Nat) (b : Block) : Block :=
  setLinks k 0 (modMos k (fun m => { m with chans := 0 }) (unbindCores k (mosOf b k).cores b))

/-! ### The outcome of an agreement (R273) -/

/-- The rebind of slot `k` ends: its command is answered (R274). -/
def rebindEnd (k : Nat) (st : Status) (b : Block) : Block :=
  match (mosOf b k).rebind with
  | none => b
  | some r =>
    let b := modMos k (fun m => { m with rebind := none, state := if m.state == .rebinding then .ready else m.state }) b
    admFinal r.adm st b

/-- The agreement failed: the slot returns to CREATED and releases its bindings, its key is zeroised. -/
def agreeFailed (k : Nat) (st : Nat) (b : Block) : Block :=
  let b := schStop k b
  let b := linkDrop k (mosOf b k).links b
  let b := modMos k (fun m => { m with
    state := .created, last := st, key := [], prevKeys := [], newKey := [], newGen := 0, eph := none,
    members := m.members.map (fun x => { x with idk := [], eph := [], confirmed := false }) }) b
  rebindEnd k .authFail (releaseTesserae k b)

/-- The slot enters READY under the new generation: the link key is installed and the board starts (R273, R295, R313,
R345). -/
def mosReady (k gen : Nat) (b : Block) : Block :=
  let b := modMos k (fun m => { m with
    state := .ready, last := 0, prevKeys := if m.key.isEmpty then m.prevKeys else m.prevKeys ++ [(m.gen, m.key)], key := m.newKey, gen := gen,
    newKey := [], newGen := 0, eph := none, held := false, migFrom := none,
    members := m.members.map (fun x => { x with eph := [], confirmed := false }),
    rebind := m.rebind.map (fun r => { r with step := 2 }) }) b
  schReady k (linkInstall k (mosOf b k).links b)

/-- The leader ends the agreement as failed. -/
def failAgree (k : Nat) (b : Block) : Block :=
  let body := leBytes Status.authFail.code 4 ++ leBytes (mosOf b k).newGen 4
  agreeFailed k Status.authFail.code (sendMembers 0x14 body k b)

/-- Every member has confirmed: the leader sends MOSAIC_READY and enters READY. -/
def finishAgree (k : Nat) (b : Block) : Block :=
  let r := mosOf b k
  if r.state != .keying || r.newKey.isEmpty || !(r.members.all (·.confirmed)) then b else
  mosReady k r.newGen (sendMembers 0x14 (leBytes 0 4 ++ leBytes r.newGen 4) k b)

/-- The leader answers a member's KEY_AGREE with the link key wrapped for it. -/
def answerAgree (k : Nat) (x : Member) (b : Block) : Block :=
  let r := mosOf b k
  match (r.eph.bind (fun d => ecdh d x.eph)) with
  | none => failAgree k b
  | some s => sendAgree k r.newGen (aesWrap (wrapKey r.id r.newGen s) r.newKey) x.node b

/-- The leader begins the agreement once it holds a MOSAIC_JOIN from every member: the identity keys are checked against
the list, a fresh link key is drawn (R328), and the members that have sent KEY_AGREE are answered. -/
def startKeying (k : Nat) (b : Block) : Block :=
  let r := mosOf b k
  if !leads b k || !(r.state == .joining || r.state == .keying) || !r.newKey.isEmpty
      || r.members.any (fun x => x.idk.isEmpty) then b
  else if r.members.any (fun x => sha384 x.idk != x.hash) then failAgree k (modMos k (fun m => { m with state := .keying }) b)
  else
    let x := drawBytes 32 b
    let b := modMos k (fun m => { m with
      state := .keying, newKey := x.1, newGen := m.gen + 1,
      members := m.members.map (fun x => { x with confirmed := x.node == leaderOf b k }) }) x.2
    let b := drawEph k b
    let b := (mosOf b k).members.foldl (fun b x =>
      if x.eph.isEmpty || (mosOf b k).state != .keying then b else answerAgree k x b) b
    finishAgree k b

/-- A chip has joined slot `k` at its leader, with its identity key; its KEY_AGREE is still to come. -/
def joined (k node : Nat) (idk : List Byte) (b : Block) : Block :=
  startKeying k (modMos k (fun m => { m with
    members := m.members.map (fun x => if x.node == node then { x with idk := idk, eph := [] } else x) }) b)

/-- The slot joins: FAB tells the leader (R272). -/
def sendJoin (k : Nat) (b : Block) : Block :=
  let m := mosOf b k
  let pub := b.sec.pub ++ List.replicate (97 - b.sec.pub.length) 0
  if leads b k then joined k b.fab.node pub b else
  let n (x w : Nat) : Nat := (bitsOf x w).length
  let body := pub ++ leBytes (n m.cores 512) 2 ++ leBytes (n m.chans 64) 1 ++ leBytes (n m.links 72) 1
  memberAgree k (sendMos 0x10 body k (leaderOf b k) b)

/-- The masks of the current epoch hold the slot's links. -/
def linksInForce (b : Block) (k : Nat) : Bool := tget 0 (epochOf b (b.fab.epoch % 4)).masks k == (mosOf b k).links

/-- The binding of slot `k` holds once its link masks are in force: the slot enters JOINING, FAB tells the leader, and the command
replies OK (R272, R279). -/
def bindRun (k : Nat) (b : Block) : Block :=
  match (mosOf b k).bind with
  | none => b
  | some i =>
    if !linksInForce b k then b else
    admFinal i .ok (sendJoin k (modMos k (fun m => { m with state := .joining, bind := none }) b))

/-- MOSAIC_BIND (R272). One that comes while another of the slot waits for its link masks gets BAD_STATE (DESIGN CHOICE, log entry
38). -/
def mosaicBind (i : Nat) (e : List Byte) (b : Block) : Block :=
  let k := ef e 4 0 6
  let (cores, chans, links) := entrySets e
  if (mosOf b k).state != .created || (mosOf b k).bind.isSome then admBad i .badState 16 b else
  match addCheck b cores chans links with
  | some (st, d) => admBad i st d b
  | none =>
    if !scratchOn b (mosOf b k) chans then admBad i .badExtent 108 b else
    bindRun k (setLinks k links (modMos k (fun m => { m with bind := some i, cores := cores, chans := chans }) b))

/-! ### The messages -/

/-- MOSAIC_JOIN at the leader (R273). -/
def takeJoin (k : Nat) (m : SerdoMsg) (b : Block) : Block :=
  if leads b k then joined k m.src (slice m.body 0 97) b else b

/-- KEY_AGREE from a member, at the leader: a signature that fails makes the agreement fail once it runs. -/
def takeAgreeLeader (k : Nat) (m : SerdoMsg) (b : Block) : Block :=
  let r := mosOf b k
  match r.members.find? (·.node == m.src) with
  | none => b
  | some x =>
    let idk := slice m.body 141 97
    let good := idk == x.idk && ecdsaVerify idk (agreeDigest m) (slice m.body 238 96)
    let eph : List Byte := if good then slice m.body 0 97 else [0]
    let b := modMos k (fun r => { r with members := r.members.map (fun y => if y.node == m.src then { y with eph := eph } else y) }) b
    if r.state == .keying && !r.newKey.isEmpty then answerAgree k { x with eph := eph } b else b

/-- The link key of the leader's KEY_AGREE; none where its identity key, signature or wrapping fails. -/
def agreedKey (b : Block) (k : Nat) (m : SerdoMsg) : Option (List Byte) :=
  let r := mosOf b k
  let idk := slice m.body 141 97
  let gen := bodyNat m 97 4
  match r.members.head?, r.eph with
  | some l, some d =>
    if sha384 idk != l.hash || !ecdsaVerify idk (agreeDigest m) (slice m.body 238 96) then none else
    (ecdh d (slice m.body 0 97)).bind (fun s => aesUnwrap (wrapKey r.id gen s) (slice m.body 101 40))
  | _, _ => none

/-- KEY_AGREE from the leader, at a member: it enters KEYING and confirms; one that fails answers with another generation
(DESIGN CHOICE, log entry 16). -/
def takeAgreeMember (k : Nat) (m : SerdoMsg) (b : Block) : Block :=
  let gen := bodyNat m 97 4
  let key := agreedKey b k m
  let b := modMos k (fun r => { r with state := .keying, newKey := key.getD [], newGen := gen }) b
  sendMos 0x13 (leBytes (if key.isSome then gen else gen + 1) 4) k (leaderOf b k) b

/-- KEY_AGREE (R295). The leader keeps one that comes before it has entered KEYING itself, since the member sends it once. -/
def takeAgree (k : Nat) (m : SerdoMsg) (b : Block) : Block :=
  let s := (mosOf b k).state
  if leads b k then (if s == .free || s == .releasing then b else takeAgreeLeader k m b)
  else if m.src == leaderOf b k && (s == .joining || s == .keying) then takeAgreeMember k m b else b

/-- The join and agreement messages kept of chips that the list now names are taken, by the leader; any other is discarded under
AUTH (R274, R293, R295). -/
def takeEarly (k : Nat) (b : Block) : Block :=
  let ms := (mosOf b k).early
  let b := modMos k (fun r => { r with early := [] }) b
  ms.foldl (fun b m =>
    if !((mosOf b k).members.any (·.node == m.src)) then dropAuth b
    else if m.typ = 0x10 then takeJoin k m (noteSeq k m.src m.seq b)
    else takeAgree k m (noteSeq k m.src m.seq b)) b

/-- KEY_CONFIRM at the leader. -/
def takeConfirm (k : Nat) (m : SerdoMsg) (b : Block) : Block :=
  let r := mosOf b k
  if !leads b k || r.state != .keying || r.newKey.isEmpty then b
  else if bodyNat m 0 4 ≠ r.newGen then failAgree k b
  else finishAgree k (modMos k (fun r => { r with
    members := r.members.map (fun x => if x.node == m.src then { x with confirmed := true } else x) }) b)

/-- MOSAIC_READY at a member (R273). -/
def takeMosReady (k : Nat) (m : SerdoMsg) (b : Block) : Block :=
  let s := (mosOf b k).state
  if leads b k || m.src != leaderOf b k || !(s == .joining || s == .keying) then b
  else if bodyNat m 0 1 = 0 then mosReady k (bodyNat m 4 4) b
  else agreeFailed k (bodyNat m 0 1) b

end Sys2Proof.Machine
end

