-- ==== Sys2Proof/Machine/Collect.lean ====
section
/-! DEFINITION. Collectives across chips (R101, R119, R221, R308) and flags on other chips (R135, R136). The manual names no
descriptor that brings a rank's elements into scratch or takes a result out of it: the model moves them on a core lane by a LOAD,
the conversion of R221 as a CVT, and a STORE (DESIGN CHOICE, log entry 20). -/

namespace Sys2Proof.Machine

/-! ### Parameters -/

/-- The parameters of a COLLECTIVE: root, format, reduction, kind, count, source and destination (R101). -/
structure CollArgs where
  root  : Nat
  fmt   : Nat
  rop   : Nat
  kind  : Nat
  count : Nat
  src   : Nat
  dst   : Nat
deriving DecidableEq, Repr

/-- The parameters of an operation that is a COLLECTIVE. -/
def collArgs (o : Op) : Option CollArgs :=
  match o.pkt.body with
  | .collective root fmt rop kind count src dst =>
    some { root := root, fmt := fmt, rop := rop, kind := kind, count := count, src := src, dst := dst }
  | _ => none

/-- The collective copies bytes: ALL_GATHER or BROADCAST. -/
def CollArgs.copies (a : CollArgs) : Bool := a.kind == 2 || a.kind == 3

/-- Chunks of one copy or reduction: 16,384 elements each. -/
def CollArgs.chunksOf (a : CollArgs) (n : Nat) : Nat := ceilDiv (if a.kind = 1 then a.count * n else a.count) 16384

/-- Chunks in all; ALL_GATHER copies from each rank in turn. -/
def CollArgs.total (a : CollArgs) (n : Nat) : Nat := if a.kind = 2 then n * a.chunksOf n else a.chunksOf n

/-- The rank whose elements chunk `c` of a copy carries. -/
def CollArgs.source (a : CollArgs) (n c : Nat) : Nat := if a.kind = 2 then c / max 1 (a.chunksOf n) else a.root

/-- Position of rank `r` in the tree of chunk `c`: for a copy the source's rank stands in the place of rank 0, the ranks
after it following in order (DESIGN CHOICE, log entry 20). -/
def CollArgs.place (a : CollArgs) (n c r : Nat) : Nat := if a.copies then (r + n - a.source n c % n) % n else r

/-- The rank at a position. -/
def CollArgs.rankAt (a : CollArgs) (n c p : Nat) : Nat := if a.copies then (p + a.source n c) % n else p

/-- The format's values are summed as 64-bit integers (R221). -/
def CollArgs.isInt (a : CollArgs) : Bool := a.fmt == 0x0F || a.fmt == 0x11

/-- Bytes of an element in memory (R208, R221). -/
def CollArgs.elem (a : CollArgs) : Nat :=
  if a.fmt = 0x01 ∨ a.fmt = 0x11 then 4 else if a.fmt = 0x02 ∨ a.fmt = 0x03 then 2 else 1

/-- First element and element count of chunk `c` within the rank's input, or within one rank's part of an ALL_GATHER. -/
def CollArgs.part (a : CollArgs) (n c : Nat) : Nat × Nat :=
  let i := if a.kind = 2 then c % max 1 (a.chunksOf n) else c
  let all := if a.kind = 1 then a.count * n else a.count
  (16384 * i, min 16384 (all - 16384 * i))

/-- Rank `r` contributes elements to chunk `c`. -/
def CollArgs.gives (a : CollArgs) (n c r : Nat) : Bool := !a.copies || r == a.source n c

/-- What rank `r` receives of chunk `c`: the first element taken out of the slot, its place in DST and how many follow; no
element where the rank receives nothing (R101). -/
def CollArgs.takes (a : CollArgs) (n c r : Nat) : Nat × Nat × Nat :=
  let (lo, len) := a.part n c
  if a.kind = 1 then
    let x := max lo (r * a.count); let y := min (lo + len) ((r + 1) * a.count)
    (x - lo, x - r * a.count, y - x)
  else if a.kind = 2 then (0, a.source n c * a.count + lo, len)
  else if a.kind = 4 ∧ r ≠ a.root then (0, 0, 0)
  else (0, lo, len)

/-- Bytes between two elements of a slot: FP32 or INT64 values in a reduction, the bytes themselves in a copy. -/
def CollArgs.slotElem (a : CollArgs) : Nat := if a.copies then a.elem else if a.isInt then 8 else 4

/-- The tree nodes whose leftmost leaf is `p` and that are wider than `m` leaves, widest first. -/
def downNodes (n p : Nat) : Nat → Nat → List Node
  | 0, _ => []
  | fuel + 1, m =>
    match parentOf p m 64 0 n 0 with
    | some x => if x.lo = p then downNodes n p fuel x.n ++ [x] else []
    | none => []

/-- Leaves of the widest subtree whose leftmost leaf is `p`. -/
def widest (n p : Nat) : Nat := match downNodes n p 64 1 with | x :: _ => x.n | [] => 1

/-- The collective of an operation. -/
def collOf (b : Block) (oid : Nat) : Option Coll := b.fab.colls.find? (·.oid == oid)

/-- Change the collective of an operation. -/
def modColl (oid : Nat) (f : Coll → Coll) (b : Block) : Block :=
  { b with fab := { b.fab with colls := modFirst (·.oid == oid) f b.fab.colls } }

/-- The body of a COLL_STEP. -/
def collBody (n kind : Nat) (a : CollArgs) (chunk node : Nat) : List Byte :=
  leBytes n 4 ++ leBytes kind 1 ++ leBytes a.rop 1 ++ leBytes a.fmt 1 ++ [0] ++ leBytes a.count 5 ++ [0] ++ leBytes a.root 2
  ++ leBytes chunk 4 ++ leBytes node 2

/-! ### Ends -/

/-- Remove a collective with its addition, its scratch slots and the messages for it. -/
def dropColl (c : Coll) (b : Block) : Block :=
  let b := freeScratch c.slot c.slots b
  let b := { b with fab := { b.fab with colls := b.fab.colls.filter (·.oid != c.oid) } }
  let b := { b with fab := { b.fab with
    collMsgs := b.fab.collMsgs.filter (fun m => !(m.slot == c.slot && m.n == c.n)) } }
  { b with dsp := { b.dsp with jobs := b.dsp.jobs.filter (·.oid != c.oid) } }

/-- The collective fails; what it holds goes once no pass of it is left (R161). -/
def failColl (c : Coll) (st : Status) (b : Block) : Block := failOp c.oid st b

/-- The parameters of a collective do not match: every member hears of it by kind 0x0F. -/
def mismatch (c : Coll) (a : CollArgs) (b : Block) : Block :=
  failColl c .badState (sendMembers 0x38 (collBody c.n 0x0F a c.chunk 0) c.slot b)

/-- Every incomplete COLLECTIVE on slot `k` sends kind 0x0F (R367 step 2). -/
def abortColls (k : Nat) (b : Block) : Block :=
  (b.fab.colls.filter (·.slot == k)).foldl (fun b c =>
    match (opOf b c.oid).bind collArgs with
    | some a => sendMembers 0x38 (collBody c.n 0x0F a c.chunk 0) k b
    | none => b) b

/-- Collectives of slot `k` fail because a member is lost. -/
def breakColls (k : Nat) (b : Block) : Block :=
  (b.fab.colls.filter (·.slot == k)).foldl (fun b c => failColl c .mosaicBroken b) b

/-! ### Steps -/

/-- A COLL_STEP of the collective's chunk for a tree node has come. -/
def collGot (b : Block) (c : Coll) (node : Nat) : Bool :=
  b.fab.collMsgs.any (fun m => m.slot == c.slot && m.n == c.n && m.chunk == c.chunk && m.node == node)

/-- The message is used. -/
def collUse (c : Coll) (node : Nat) (b : Block) : Block :=
  { b with fab := { b.fab with collMsgs := b.fab.collMsgs.filter (fun m =>
      !(m.slot == c.slot && m.n == c.n && m.chunk == c.chunk && m.node == node)) } }

/-- Write this chip's value to another member's slot by FAB descriptors of at most 64 KiB. The other chip's slot address
is a free value: no message tells it (log entry 20). -/
def collSend (c : Coll) (a : CollArgs) (b : Block) : Option Block :=
  let n := if a.isInt then 2 else 1
  let src := scratchAddr b c.slot (c.slots.headD 0)
  let ctx := match opOf b c.oid with | some o => o.ctx | none => 0
  let step (x : Option Block) (i : Nat) : Option Block := x.bind (fun b =>
    let dst := (freeVal 64 b).toNat
    let d := plainDesc b ctx c.slot 3 0 none (words64 (src + 65536 * i) ++ words64 dst ++ [65536])
    ddIssue (ddPortOf b c.slot) (.coll c.oid) { d with fab := true } (useFree b))
  ((List.range n).foldl step (some b)).map (modColl c.oid (fun c => { c with busy := 1, out := n }))

/-- Place a local step of a collective on its two slots as a COMBINE piece: the addition of a sum, or the maximum or minimum, by
ROP (R221, R308), or a move (log entry 20). -/
def collPiece (c : Coll) (busy : Nat) (m : Option CollMove) (b : Block) : Block :=
  let s0 := c.slots.getD 0 0
  let t : Tile := { t := 0, all := [], free := [], slotOf := tset 0 (tset 0 [] 0 s0) 1 (c.slots.getD 1 0),
                    vals := [(0, 1), (1, 1)], low := 0, above := [], busy := [], epi := true }
  let j : Job := { oid := c.oid, chunks := false, total := 2, bricks := 2, brickLen := 0, next := 2, back := [], tiles := [t],
                   done := 0, faulted := [], aborted := false }
  modColl c.oid (fun c => { c with busy := busy, move := m }) { b with dsp := { b.dsp with jobs := b.dsp.jobs ++ [j] } }

/-- A move between memory and this chip's slot; `busy` says which way. A range that meets a sealed area may not be touched, as by
a COPY (R341; log entry 20). -/
def collMove (c : Coll) (busy mem memLen : Nat) (m : CollMove) (b : Block) : Block :=
  let ctx := match opOf b c.oid with | some o => o.ctx | none => 0
  if sealedTouch b ctx mem memLen then failColl c .notPermitted b else collPiece c busy (some m) b

/-- The format in which a reduction holds its values in a slot (R221). -/
def CollArgs.slotFmt (a : CollArgs) : Nat := if a.isInt then 0x12 else 1

/-- This chip's elements of the chunk go into its slot, converted to FP32 or INT64 for a reduction; a rank that contributes none
has nothing to move. -/
def collLoad (c : Coll) (a : CollArgs) (n r : Nat) (b : Block) : Block :=
  let x := a.part n c.chunk
  if !a.gives n c.chunk r || x.2 = 0 then modColl c.oid (fun c => { c with loaded := true }) b else
  let m := a.src + a.elem * x.1
  collMove c 3 m (a.elem * x.2)
    { src := m, srcBytes := a.elem * x.2, srcFab := false
      dst := scratchAddr b c.slot (c.slots.headD 0), dstBytes := a.slotElem * x.2, dstFab := true
      cvt := if a.copies then none else some (a.fmt, a.slotFmt) } b

/-- The result's elements that this rank receives go to DST, converted to FMT; they are written when the pass ends (R119). -/
def collStore (c : Coll) (a : CollArgs) (n r : Nat) (b : Block) : Block :=
  let x := a.takes n c.chunk r
  if x.2.2 = 0 then modColl c.oid (fun c => { c with stored := true }) b else
  let m := a.dst + a.elem * x.2.1
  collMove c 4 m (a.elem * x.2.2)
    { src := scratchAddr b c.slot (c.slots.headD 0) + a.slotElem * x.1, srcBytes := a.slotElem * x.2.2, srcFab := true
      dst := m, dstBytes := a.elem * x.2.2, dstFab := false
      cvt := if a.copies then none else some (a.slotFmt, a.fmt) } b

/-- A transfer has ended: COLL_STEP tells the member. -/
def collSent (c : Coll) (a : CollArgs) (b : Block) : Block :=
  match c.todo with
  | [] => b
  | (node, member) :: rest =>
    let d := (memberNodes b c.slot).getD member 0
    modColl c.oid (fun c => { c with busy := 0, todo := rest }) (sendMos 0x38 (collBody c.n a.kind a c.chunk node) c.slot d b)

/-- The local step of a collective is complete. -/
def collAdded (b : Block) (c : Coll) : Bool :=
  match jobOf b c.oid with
  | some j => j.tiles.any (fun t => tget 0 t.vals 0 == 2)
  | none => false

/-- What the end of a local step leaves: the value standing here covers `w` leaves after an addition, or a move is done. -/
def Coll.stepDone (w : Nat) (c : Coll) : Coll :=
  if c.busy = 3 then { c with busy := 0, move := none, loaded := true }
  else if c.busy = 4 then { c with busy := 0, move := none, stored := true }
  else { c with busy := 0, cover := w }

/-- The transfers that spread a chunk's result from position `p`. -/
def spreadFrom (a : CollArgs) (n c p : Nat) : List (Nat × Nat) :=
  (downNodes n p 64 1).map (fun x => (x.num, a.rankAt n c (x.lo + x.h)))

/-- The result of a chunk stands at position `p`: what is sent on. REDUCE sends it from rank 0 to ROOT alone. -/
def resultSends (a : CollArgs) (n c p : Nat) : List (Nat × Nat) :=
  if a.kind = 4 then (if p = 0 ∧ a.root ≠ 0 then [(n - 2, a.root)] else []) else spreadFrom a n c p

/-- The tree node whose COLL_STEP brings the result to position `p`. -/
def resultNode (a : CollArgs) (n p : Nat) : Nat :=
  if a.kind = 4 then n - 2 else match parentOf p (widest n p) 64 0 n 0 with | some x => x.num | none => 0

/-- The chunk is over on this chip: the next one begins, or the collective completes. -/
def chunkOver (c : Coll) (a : CollArgs) (n : Nat) (b : Block) : Block :=
  if c.chunk + 1 < a.total n then
    modColl c.oid (fun c => { c with chunk := c.chunk + 1, cover := 1, phase := 0, todo := [], loaded := false,
                                     stored := false }) b
  else completeOp c.oid (dropColl c b)

/-- Phase 0: the chunk's values are gathered up the tree; a copy begins at its source. -/
def collGather (c : Coll) (a : CollArgs) (n p : Nat) (b : Block) : Option Block :=
  let goto (ph : Nat) (todo : List (Nat × Nat)) (b : Block) : Option Block :=
    some (modColl c.oid (fun c => { c with phase := ph, todo := todo }) b)
  if a.copies then (if p = 0 then goto 2 (spreadFrom a n c.chunk 0) b else goto 1 [] b) else
  match parentOf p c.cover 64 0 n 0 with
  | none => goto 2 (resultSends a n c.chunk p) b
  | some x =>
    if x.lo = p then (if collGot b c x.num then some (collPiece c 2 none (collUse c x.num b)) else none)
    else goto 1 [(x.num, x.lo)] b

/-- Phase 1: the chip's part is sent, then the result awaited where the chip receives it. -/
def collAwait (c : Coll) (a : CollArgs) (n p r : Nat) (b : Block) : Option Block :=
  if !c.todo.isEmpty then collSend c a b
  else if a.kind = 4 ∧ r ≠ a.root then some (chunkOver c a n b)
  else
    let node := resultNode a n p
    if collGot b c node then
      some (collUse c node (modColl c.oid (fun c => { c with phase := 2, todo := resultSends a n c.chunk p }) b))
    else none

/-- One step of a collective; none where it must wait. -/
def collStepOne (c : Coll) (b : Block) : Option Block :=
  match (opOf b c.oid).bind collArgs with
  | none => none
  | some a =>
    let n := (mosOf b c.slot).members.length
    let r := myIndex b c.slot
    let p := a.place n c.chunk r
    if 2 ≤ c.busy then
      if !collAdded b c then none else
      let b := { b with dsp := { b.dsp with jobs := b.dsp.jobs.filter (·.oid != c.oid) } }
      let w := match parentOf p c.cover 64 0 n 0 with | some x => x.n | none => c.cover
      some (modColl c.oid (Coll.stepDone w) b)
    else if c.busy ≠ 0 then none
    else if c.slots.length < 2 then
      let sl := (freeSlots b c.slot).take 2
      if sl.length < 2 then none else
      let sc := tmod [] b.dsp.scratch c.slot (· ++ sl)
      some (modColl c.oid (fun c => { c with slots := sl }) { b with dsp := { b.dsp with scratch := sc } })
    else if !c.loaded then some (collLoad c a n r b)
    else if c.phase = 0 then collGather c a n p b
    else if c.phase = 1 then collAwait c a n p r b
    else if !c.todo.isEmpty then collSend c a b
    else if !c.stored then some (collStore c a n r b)
    else some (chunkOver c a n b)

/-- The operation of a collective is released and has not ended. -/
def collLive (b : Block) (oid : Nat) : Bool := (opOf b oid).any (·.stage == .released)

/-- Take the steps that are open, at most `fuel`. -/
def collRun (oid : Nat) : Nat → Block → Block
  | 0, b => b
  | fuel + 1, b =>
    match (if collLive b oid then collOf b oid else none) with
    | none => b
    | some c => match collStepOne c b with
      | some b => collRun oid fuel b
      | none => b

/-- Collectives after a command: one whose operation is no longer released is dropped once no pass of it is left (R161), the
others go on. -/
def settleColls (b : Block) : Block :=
  b.fab.colls.foldl (fun b c =>
    if collLive b c.oid then collRun c.oid 64 b
    else if (passesOf b c.oid).isEmpty then dropColl c b else b) b

/-- A descriptor of a collective completed; an error fails the collective. -/
def collDd (oid : Nat) (st : BitVec 3) (b : Block) : Block :=
  match collOf b oid, (opOf b oid).bind collArgs with
  | some c, some a =>
    if !collLive b oid then b
    else if st ≠ 0 then failColl c (ddStatus st) b
    else if 1 < c.out then modColl oid (fun c => { c with out := c.out - 1 }) b
    else collSent c a (modColl oid (fun c => { c with out := 0 }) b)
  | _, _ => b

/-! ### COLLECTIVE and COLL_STEP -/

/-- The message carries the parameters of the collective; ROOT counts for REDUCE and BROADCAST alone (R102). -/
def collSame (m : CollMsg) (a : CollArgs) : Bool :=
  m.kind == a.kind && m.rop == a.rop && m.fmt == a.fmt && m.count == a.count
  && ((a.kind != 3 && a.kind != 4) || m.root == a.root)

/-- A message for a collective of this chip: kind 0x0F and other parameters fail it. -/
def collCheck (c : Coll) (a : CollArgs) (b : Block) : Block :=
  let ms := b.fab.collMsgs.filter (fun m => m.slot == c.slot && m.n == c.n)
  if ms.any (·.kind == 0x0F) then failColl c .badState b
  else if ms.any (fun m => !collSame m a) then mismatch c a b
  else b

/-- A released COLLECTIVE of no elements: the messages of its pair on another chip are compared, and it completes at once
where they match. Its parameters stay known, so that a message that comes later is answered as R308 says (R91, R92). -/
def collNone (c : Coll) (a : CollArgs) (b : Block) : Block :=
  let b := collCheck c a { b with fab := { b.fab with colls := b.fab.colls ++ [c] } }
  if !collLive b c.oid then b else
  let m : CollMsg := { slot := c.slot, n := c.n, kind := a.kind, rop := a.rop, fmt := a.fmt, count := 0, root := a.root,
                       chunk := 0, node := 0 }
  let b := completeOp c.oid (dropColl c b)
  { b with fab := { b.fab with collZero := b.fab.collZero ++ [m] } }

/-- The n-th COLLECTIVE of the mosaic slot has been released on this chip, by the 32-bit count of COLL_STEP. -/
def collPast (b : Block) (k n : Nat) : Bool :=
  let d := ((mosOf b k).coll % 2 ^ 32 + 2 ^ 32 - n) % 2 ^ 32
  decide (0 < d) && decide (d < 2 ^ 31)

/-- A COLL_STEP for a COLLECTIVE of this chip that is over. One that had no elements, and whose parameters differ from the
message's, is reported to every member (R308); any other message is dropped. -/
def collLate (k : Nat) (x : CollMsg) (b : Block) : Block :=
  match b.fab.collZero.find? (fun m => m.slot == k && m.n == x.n) with
  | some m =>
    let a : CollArgs := { root := m.root, fmt := m.fmt, rop := m.rop, kind := m.kind, count := 0, src := 0, dst := 0 }
    if x.kind == 0x0F || collSame x a then b else sendMembers 0x38 (collBody x.n 0x0F a 0 0) k b
  | none => b

/-- The effect of a released COLLECTIVE (R91, R102, R269, R308). -/
def relCollective (o : Op) (b : Block) : Block :=
  match collArgs o with
  | none => b
  | some a =>
    let m := mosOf b o.slot
    if m.collCtx ≠ o.ctx then failOp o.oid .notPermitted b
    else if (a.kind = 3 ∨ a.kind = 4) ∧ m.members.length ≤ a.root then failOp o.oid .badState b
    else
      let n := m.coll % 2 ^ 32
      let b := modMos o.slot (fun m => { m with coll := m.coll + 1 }) (markReleased o.oid b)
      let c : Coll := { slot := o.slot, n := n, oid := o.oid, chunk := 0, slots := [], cover := 1, phase := 0, todo := [],
                        busy := 0, move := none, out := 0, loaded := false, stored := false }
      if a.count = 0 then collNone c a b else
      collRun o.oid 64 (collCheck c a { b with fab := { b.fab with colls := b.fab.colls ++ [c] } })

/-- COLL_STEP on slot `k`. -/
def takeColl (k : Nat) (m : SerdoMsg) (b : Block) : Block :=
  let x : CollMsg := { slot := k, n := bodyNat m 0 4, kind := bodyNat m 4 1, rop := bodyNat m 5 1, fmt := bodyNat m 6 1,
                       count := bodyNat m 8 5, root := bodyNat m 14 2, chunk := bodyNat m 16 4, node := bodyNat m 20 2 }
  match b.fab.colls.find? (fun c => c.slot == k && c.n == x.n) with
  | some c =>
    if !collLive b c.oid then b else
    let b := { b with fab := { b.fab with collMsgs := b.fab.collMsgs ++ [x] } }
    match (opOf b c.oid).bind collArgs with
    | some a => collRun c.oid 64 (collCheck c a b)
    | none => b
  | none =>
    if collPast b k x.n then collLate k x b else { b with fab := { b.fab with collMsgs := b.fab.collMsgs ++ [x] } }

/-! ### Flags on other chips (R135, R136) -/

/-- The effect of a released SIGNAL_FLAG. A remote one goes out as FLAG_SET and completes at the answer. -/
def relSignal (o : Op) (b : Block) : Block :=
  match o.pkt.body with
  | .signalFlag true _ _ op _ v addr => releaseMemSignal o op addr v b
  | .signalFlag false remote flag op node v _ =>
    if remote && node != b.fab.node then
      let rel := b.dep.nextRelMsg
      let b := markReleased o.oid b
      let b := { b with dep := { b.dep with
        nextRelMsg := (rel + 1) % 2 ^ 32
        remote := b.dep.remote ++ [{ node := node, mos := o.slot, rel := rel, oid := o.oid }] } }
      sendMos 0x30 (leBytes flag 2 ++ leBytes op 1 ++ List.replicate 5 0 ++ leBytes v.toNat 8 ++ leBytes rel 4) o.slot node b
    else releaseSignal o flag op v b
  | _ => b

/-- A remote signal fails. -/
def failRemote (oid : Nat) (st : Status) (b : Block) : Block :=
  modOp oid (fun o => { o with stage := .dead }) (failOp oid st b)

/-- FLAG_REPLY from node `src` on slot `k`. -/
def takeFlagReply (k : Nat) (m : SerdoMsg) (b : Block) : Block :=
  match b.dep.remote.find? (fun r => r.mos == k && r.node == m.src && r.rel == bodyNat m 0 4) with
  | none => b
  | some r =>
    let b := { b with dep := { b.dep with remote := b.dep.remote.filter (· != r) } }
    if bodyNat m 4 1 = 0 then completeOp r.oid b else failRemote r.oid .notPermitted b

/-- Signals that a lost member of slot `k` has not answered fail. -/
def breakRemote (k node : Nat) (b : Block) : Block :=
  let rs := b.dep.remote.filter (fun r => r.mos == k && r.node == node)
  let b := { b with dep := { b.dep with remote := b.dep.remote.filter (fun r => !rs.contains r) } }
  rs.foldl (fun b r => failRemote r.oid .mosaicBroken b) b

/-- FLAG_SET at its target (R135, R129). -/
def takeFlagSet (k : Nat) (m : SerdoMsg) (b : Block) : Block :=
  let flag := bodyNat m 0 2
  let cfg := tget pageZero b.dep.pages (flag / 256)
  let ok := cfg.remote && cfg.slot == k
  let b := if ok then signalFlag (bodyNat m 2 1) flag (BitVec.ofNat 64 (bodyNat m 8 8)) b
    else { b with dep := { b.dep with remoteDrop := satAdd 32 b.dep.remoteDrop 1 } }
  sendMos 0x31 (leBytes (bodyNat m 16 4) 4 ++ leBytes (b2n (!ok)) 1) k m.src b

end Sys2Proof.Machine
end

