-- ==== Sys2Proof/Machine/Migrate.lean ====
section
/-! DEFINITION. Moving a memory channel, rebinding and releasing a mosaic, scrubs (R274, R275, R288 to R290). -/

namespace Sys2Proof.Machine

/-! ### FAB descriptors and scrubs -/

/-- A descriptor of FAB's own on fabric addresses: no context (R202). -/
def fabDesc (b : Block) (k kind : Nat) (body : List Nat) : Desc :=
  { plainDesc b 0 k kind 0 none body with fab := true, ctx := 0, ast := 0 }

/-- The fabric address of channel `c` of node `n` (R277). -/
def chanAddr (n c : Nat) : Nat := n * 2 ^ 50 + c * 2 ^ 35

/-- Ranges a scrub of slot `k` overwrites: the scratch region and its channels on this chip (R275, R367). -/
def scrubRanges (b : Block) (k : Nat) : List (Nat × Nat) :=
  let m := mosOf b k
  (if m.scratchSlots = 0 then [] else [(m.scratchBase, m.scratchSlots * 131072)])
  ++ (bitsOf m.chans 64).map (fun c => (chanAddr b.fab.node c, 2 ^ 35))

/-- Issue FILL descriptors with zero over a list of ranges, each of at most 64 KiB, as long as tags are free and at most
`fuel`: the ranges left, how many were issued, and the block. -/
def scrubIssue (k : Nat) : Nat → List (Nat × Nat) → Nat → Block → List (Nat × Nat) × Nat × Block
  | 0, rs, n, b => (rs, n, b)
  | _ + 1, [], n, b => ([], n, b)
  | fuel + 1, (a, len) :: rs, n, b =>
    let l := min len (65536 - a % 65536)
    match ddIssue (ddPortOf b k) (.scrub k) (fabDesc b k 4 (words64 a ++ [l, 0, 0])) b with
    | none => ((a, len) :: rs, n, if seqUp b (ddPortOf b k) then b else wakeSeq (ddPortOf b k) b)
    | some b => scrubIssue k fuel (if len ≤ l then rs else (a + l, len - l) :: rs) (n + 1) b

/-! ### Migration -/

/-- Set bits among the granules. -/
def dirtyCount (d : Nat) : Nat := (bitsOf d 32768).length

/-- Change the migration. -/
def modMig (f : Mig → Mig) (b : Block) : Block := { b with fab := { b.fab with mig := b.fab.mig.map f } }

/-- The slot is held or released for a migration on this chip (R289). -/
def setHeld (k : Nat) (v : Bool) (src : Option Nat) (b : Block) : Block :=
  let b := modMos k (fun m => { m with held := v, migFrom := src }) b
  if v then b else loopEvent k b

/-- No pass of slot `k` runs or is preloaded on this chip. -/
def noPasses (b : Block) (k : Nat) : Bool :=
  !(b.seq.seqrs.any (fun e =>
    (banksOf e.2).any (·.slot == k)
    || (match e.2.shadow with | some x => x.slot == k | none => false)))

/-- A chip held for a migration whose passes have ended says so to the source (R289). -/
def sendHeld (k : Nat) (b : Block) : Block :=
  let m := mosOf b k
  match m.migFrom with
  | some n => if m.held && noPasses b k then
      sendMos 0x21 [] k n (modMos k (fun m => { m with migFrom := none }) b) else b
  | none => b

/-- Begin a migration: tracking is requested and every granule is dirty. -/
def migBegin (k src node chan : Nat) (b : Block) : Block :=
  let m : Mig := { slot := k, src := src, dstNode := node, dstChan := chan, phase := 1, pass := 0, dirty := 2 ^ 32768 - 1,
                   pos := 0, gran := 0, left := 0, out := 0, olds := [] }
  emit (.ksTrack src true) { b with fab := { b.fab with mig := some m } }

/-- The redirect of a migration that is abandoned before its switch is taken back, and a further change tells it (R290). -/
def migUndo (m : Mig) (b : Block) : Block :=
  let back := b.fab.redirects.map (fun e => if e.2 == some (m.dstNode, m.dstChan) then (e.1, some (b.fab.node, m.src)) else e)
  let b := { b with fab := { b.fab with redirects := terase back m.src, redirOwner := tset 0 b.fab.redirOwner m.src 0 } }
  requestEdits 0 [.move (mosOf b m.slot).id m.dstNode m.dstChan b.fab.node m.src] b

/-- No member has answered a MIG_QUIESCE. -/
def clearHeld (k : Nat) (b : Block) : Block :=
  modMos k (fun r => { r with members := r.members.map (fun x => { x with migHeld := false }) }) b

/-- The migration is abandoned (R290): tracking stops, the target is scrubbed, held members resume, the rebind replies. -/
def migFail (st : Status) (b : Block) : Block :=
  match b.fab.mig with
  | none => b
  | some m =>
    if 4 < m.phase then b else
    let b := emit (.ksTrack m.src false) b
    let b := if 2 ≤ m.phase then clearHeld m.slot (setHeld m.slot false none (sendMembers 0x22 [] m.slot b)) else b
    let b := if m.phase = 4 then migUndo m b else b
    rebindEnd m.slot st (modMig (fun m => { m with phase := 7, left := 2 ^ 19, pos := 0 }) b)

/-- Copy one 64 KiB piece of the granule being moved. -/
def migPiece (m : Mig) (b : Block) : Option Block :=
  let off := m.gran * 2 ^ 20 + (16 - m.left) * 65536
  let body := words64 (chanAddr b.fab.node m.src + off) ++ words64 (chanAddr m.dstNode m.dstChan + off) ++ [65536]
  (ddIssue (ddPortOf b m.slot) (.migCopy m.slot) (fabDesc b m.slot 3 body) b).map
    (modMig (fun m => { m with left := m.left - 1, out := m.out + 1 }))

/-- Scrub one 64 KiB piece of the channel left behind, or of an abandoned target. -/
def migScrub (m : Mig) (b : Block) : Option Block :=
  let base := if m.phase = 6 then chanAddr b.fab.node m.src else chanAddr m.dstNode m.dstChan
  let body := words64 (base + m.pos * 65536) ++ [65536, 0, 0]
  (ddIssue (ddPortOf b m.slot) (.migCopy m.slot) (fabDesc b m.slot 4 body) b).map
    (modMig (fun m => { m with left := m.left - 1, pos := m.pos + 1, out := m.out + 1 }))

/-- The next dirty granule from `pos` on. -/
def nextDirty (d pos : Nat) : Option Nat := if d / 2 ^ pos = 0 then none else
  (List.range (32768 - pos)).findSome? (fun i => if bitOf d (pos + i) then some (pos + i) else none)

/-- Every member has stopped placing. -/
def allHeld (b : Block) (k : Nat) : Bool :=
  noPasses b k && (mosOf b k).members.all (fun x => x.node == b.fab.node || x.migHeld)

/-- The last pass has ended: the redirect of the channel takes force through an epoch change, and an earlier redirect to
the channel names the final one (R289, R290). -/
def migSwitch (m : Mig) (b : Block) : Block :=
  let t : Nat × Nat := (m.dstNode, m.dstChan)
  let old := b.fab.redirects.map (fun e => if e.2 == some (b.fab.node, m.src) then (e.1, some t) else e)
  let b := { b with fab := { b.fab with redirects := tset none old m.src (some t),
                                        redirOwner := tset 0 b.fab.redirOwner m.src (m.slot + 1) } }
  requestEdits 0 [.move (mosOf b m.slot).id b.fab.node m.src m.dstNode m.dstChan] (modMig (fun m => { m with phase := 4 }) b)

/-- The switch has come: the source leaves, the target becomes a CHAN tessera, members resume. -/
def migSwitched (m : Mig) (b : Block) : Block :=
  let b := modMos m.slot (fun r => { r with
    chans := if m.dstNode = b.fab.node then setBit (clrBit r.chans m.src) m.dstChan else clrBit r.chans m.src }) b
  let b := emit (.ksTrack m.src false) b
  let b := setHeld m.slot false none (sendMembers 0x22 [] m.slot b)
  let b := modMos m.slot (fun r => { r with rebind := r.rebind.map (fun x => { x with step := 6 }) }) (clearHeld m.slot b)
  let olds := (b.fab.epochs.filter (fun e => e.2.state == .draining || e.2.state == .drained)).map (·.2.tag)
  modMig (fun m => { m with phase := 5, olds := olds }) b

/-- An epoch that was live before the switch has not been freed yet. -/
def oldEpochs (b : Block) (m : Mig) : Bool :=
  b.fab.epochs.any (fun e => e.2.state != .free && m.olds.contains e.2.tag)

/-- One step of the migration; none where it waits. -/
def migStep (b : Block) : Option Block :=
  match b.fab.mig with
  | none => none
  | some m =>
    if m.phase = 1 ∨ m.phase = 3 then
      if m.phase = 1 ∧ (b.fab.passes ≤ m.pass ∨ dirtyCount m.dirty ≤ b.fab.quiesce) ∧ m.left = 0 ∧ m.pos = 0 then
        let b := setHeld m.slot true none (sendMembers 0x20 [] m.slot b)
        some (modMig (fun m => { m with phase := 2 }) b)
      else if m.left ≠ 0 then migPiece m b
      else match nextDirty m.dirty m.pos with
        | some g => some (modMig (fun m => { m with dirty := clrBit m.dirty g, gran := g, left := 16, pos := g + 1 }) b)
        | none =>
          if m.out ≠ 0 then none
          else if m.phase = 3 then some (migSwitch m b)
          else some (modMig (fun m => { m with pass := m.pass + 1, pos := 0 }) b)
    else if m.phase = 2 then
      if allHeld b m.slot then some (modMig (fun m => { m with phase := 3, pos := 0 }) b) else none
    else if m.phase = 4 then
      if tget none (epochOf b (b.fab.epoch % 4)).redirects m.src == some (m.dstNode, m.dstChan) then some (migSwitched m b)
      else none
    else if m.phase = 5 then
      if oldEpochs b m then none else some (modMig (fun m => { m with phase := 6, left := 2 ^ 19, pos := 0 }) b)
    else if m.left ≠ 0 then migScrub m b
    else if m.out = 0 then some { b with fab := { b.fab with mig := none } }
    else none

/-- The migration goes on, at most `fuel` steps. -/
def migRun : Nat → Block → Block
  | 0, b => b
  | fuel + 1, b => match migStep b with
    | some b => migRun fuel b
    | none => b

/-- A copy or scrub descriptor of the migration completed; a copy that fails abandons it. -/
def migDd (st : BitVec 3) (b : Block) : Block :=
  let b := modMig (fun m => { m with out := m.out - 1 }) b
  match b.fab.mig with
  | some m => if st ≠ 0 ∧ m.phase ≤ 3 then migFail (ddStatus st) b else b
  | none => b

/-- WRITE_TRACK_REPORT (R288 to R290): the granule is dirty. -/
def writeTrack (chan granule : Nat) (b : Block) : Block :=
  match b.fab.mig with
  | some m => if m.src = chan ∧ m.phase ≤ 4 ∧ granule < 32768 then modMig (fun m => { m with dirty := setBit m.dirty granule }) b
              else b
  | none => b

/-- MIG_QUIESCE. -/
def takeQuiesce (k : Nat) (m : SerdoMsg) (b : Block) : Block := sendHeld k (setHeld k true (some m.src) b)

/-- MIG_HELD at the source. -/
def takeHeld (k : Nat) (m : SerdoMsg) (b : Block) : Block :=
  modMos k (fun r => { r with members := r.members.map (fun x => if x.node == m.src then { x with migHeld := true } else x) }) b

/-- MIG_RESUME. -/
def takeResume (k : Nat) (b : Block) : Block := setHeld k false none b

/-! ### MOSAIC_REBIND (R274) -/

/-- The channel move that an entry names: source channel, node, target channel. -/
def entryMove (e : List Byte) : Option (Nat × Nat × Nat) :=
  if ef e 4 9 1 = 1 then some (ef e 8 0 6, ef e 8 8 14, ef e 8 24 6) else none

/-- The checks of the sets and of the channel move of a rebind of slot `k`. -/
def rebindCheck (b : Block) (k : Nat) (e : List Byte) : Option (Status × Nat) :=
  let m := mosOf b k
  let (cores, chans, links) := entrySets e
  let mv := entryMove e
  let src := mv.map (·.1)
  match addCheck b (maskMinus512 cores m.cores) (maskMinus chans m.chans) (maskMinus links m.links) with
  | some x => some x
  | none =>
    if (bitsOf (maskMinus m.chans chans) 64).any (fun c => some c != src) then some (.badParam, 108) else
    match mv with
    | none => none
    | some (s, n, d) =>
      if bitOf chans s ∨ !bitOf m.chans s then some (.badParam, 32)
      else if nChannels b ≤ d then some (.badParam, 35)
      else if n = b.fab.node ∧ !chanFree b d then some (.noResource, 35)
      else if b.fab.mig.isSome then some (.noResource, 32)
      else none
where
  /-- Cores of mask `x` not in mask `y`, with the bits at or above 512 kept. -/
  maskMinus512 (x y : Nat) : Nat := (bitsOf x 512).foldl (fun m p => if bitOf y p then m else setBit m p) 0

/-- The rebind begins. -/
def rebindBegin (i k : Nat) (e : List Byte) (ms : Option (List Member)) (b : Block) : Block :=
  match rebindCheck b k e with
  | some (st, d) => admBad i st d b
  | none =>
    let (cores, chans, links) := entrySets e
    let r : Rebind := { adm := i, step := if ms.isSome then 0 else 2, cores := cores, chans := chans, links := links,
                        members := ms, move := entryMove e, waits := false }
    modMos k (fun m => { m with rebind := some r, state := if m.state == .ready then .rebinding else m.state }) b

/-- MOSAIC_REBIND. -/
def mosaicRebind (i : Nat) (e : List Byte) (b : Block) : Block :=
  let k := ef e 4 0 6
  let m := mosOf b k
  let n := ef e 5 0 15
  if !(m.state == .ready || m.state == .broken) || m.rebind.isSome then admBad i .badState 16 b
  else if ef e 4 8 1 = 0 then rebindBegin i k e none b
  else if n = 0 ∨ 16384 < n then admBad i .badParam 20 b
  else match bufBad (dword e 6) (64 * n) 64 with
    | some st => admBad i st 24 b
    | none => admRead i b

/-- The member list of a rebind has been read; one that would change the leader is refused while the mosaic holds a
sequence that is not FREE (R233, R274). -/
def rebindData (i : Nat) (e data : List Byte) (b : Block) : Block :=
  let k := ef e 4 0 6
  if seqsHeld b k && ((membersOf data).map (·.node)).head? != (memberNodes b k).head? then admBad i .badState 24 b else
  match listCheck b data with
  | some st => admBad i st 24 b
  | none =>
    if !listZeros data then admBad i .badParam 24 b
    else rebindBegin i k e (some (membersOf data)) b

/-- The members that stay keep what is known of them, a KEY_AGREE that has come already among it. -/
def mergeMembers (old new : List Member) : List Member :=
  new.map (fun x => match old.find? (fun y => y.node == x.node && y.hash == x.hash) with
    | some y => { y with confirmed := false, migHeld := false }
    | none => x)

/-- The new member list takes force: the slot passes through KEYING (R274), and signals to a member that leaves fail (R135). A
list that keeps a lost member leaves the slot BROKEN. -/
def rebindMembers (k : Nat) (ms : List Member) (b : Block) : Block :=
  let m := mosOf b k
  let ms := mergeMembers m.members ms
  let gone := (m.members.map (·.node)).filter (fun n => !(ms.any (·.node == n)))
  let b := gone.foldl (fun b n => breakRemote k n b) b
  if ms.any (·.lost) then
    modMos k (fun m => { m with members := ms, rebind := m.rebind.map (fun r => { r with step := 2 }) }) b
  else
    let b := schStop k (modMos k (fun m => { m with
      state := .keying, members := ms, newKey := [], newGen := 0, eph := none,
      rebind := m.rebind.map (fun r => { r with step := 1 }) }) b)
    if leads b k then startKeying k (takeEarly k b) else memberAgree k b


/-- A tessera that the rebind of slot `k` is to add has gone to another slot, or its core has failed, since the command was
checked. -/
def rebindTaken (b : Block) (k : Nat) (r : Rebind) : Bool :=
  let m := mosOf b k
  let new (x had w : Nat) (f : Nat → Bool) : Bool := (bitsOf x w).any (fun i => !bitOf had i && f i)
  match r.step with
  | 2 => new r.cores m.cores 512 (fun c => boundIn b (·.cores) c || (coreOf b c).failed)
  | 3 => new r.chans m.chans 64 (fun c => !chanFree b c)
  | 4 => new r.links m.links 72 (linkBound b)
  | 5 => (match r.move with
    | some (_, n, d) => b.fab.mig.isSome || n == b.fab.node && !chanFree b d
    | none => false)
  | _ => false

/-- One step of the rebind of slot `k`; none where it waits. Changes apply in the order members, cores, channels added,
links, migration (R421); one whose tessera is no longer free, or that would be a second migration of the chip, ends it with
NO_RESOURCE (R272, R274, R288). -/
def rebindStep (k : Nat) (b : Block) : Option Block :=
  let m := mosOf b k
  match m.rebind with
  | none => none
  | some r =>
    let next (n : Nat) (b : Block) : Option Block :=
      some (modMos k (fun m => { m with rebind := m.rebind.map (fun r => { r with step := n, waits := false }) }) b)
    let wait (b : Block) : Option Block :=
      some (modMos k (fun m => { m with rebind := m.rebind.map (fun r => { r with waits := true }) }) b)
    if !r.waits && rebindTaken b k r then some (rebindEnd k .noResource b) else
    match r.step with
    | 0 => some (rebindMembers k (r.members.getD []) b)
    | 1 => none
    | 2 =>
      if !r.waits then
        let gone := (bitsOf m.cores 512).filter (fun c => !bitOf r.cores c)
        let b := modMos k (fun m => { m with cores := (bitsOf r.cores 512).foldl setBit m.cores }) b
        wait (unbindCores k (gone.foldl setBit 0) b)
      else if m.cores = r.cores then next 3 b else none
    | 3 => next 4 (modMos k (fun m => { m with chans := (bitsOf r.chans 64).foldl setBit m.chans }) b)
    | 4 =>
      if m.links ≠ r.links then wait (setLinks k r.links b)
      else if !r.waits || linksInForce b k then next 5 b else none
    | 5 =>
      match r.move with
      | none => next 6 b
      | some (s, n, d) => if r.waits then none else wait (migBegin k s n d b)
    | _ => some (rebindEnd k .ok b)

/-- The rebind goes on. -/
def rebindRun (k : Nat) : Nat → Block → Block
  | 0, b => b
  | fuel + 1, b => match rebindStep k b with
    | some b => rebindRun k fuel b
    | none => b

/-! ### MOSAIC_RELEASE (R275) -/

/-- A release of slot `k` is refused (R275). -/
def releaseHeld (b : Block) (k : Nat) : Bool :=
  b.dep.ops.any (fun o => o.slot == k && (o.stage == .released || o.stage == .aborting && !opOver b o))
  || poolFor b k || seqsHeld b k

/-- What a release ends of slot `k`: a MOSAIC_BIND that waits gets BAD_STATE, a rebind MOSAIC_BROKEN, its migration being
abandoned as where a member leaves (R275, R290; the statuses are DESIGN CHOICE, log entry 38). -/
def releaseEnds (k : Nat) (b : Block) : Block :=
  let b := match (mosOf b k).bind with
    | some i => admFinal i .badState (modMos k (fun m => { m with bind := none }) b)
    | none => b
  let b := match b.fab.mig with
    | some g => if g.slot = k then migFail .mosaicBroken b else b
    | none => b
  rebindEnd k .mosaicBroken b

/-- MOSAIC_RELEASE, steps 1 and 2: the slot enters RELEASING, the members hear of it, the tesserae are unbound. The link key
leaves every port that the slot has in an epoch not freed yet. -/
def mosaicRelease (i : Nat) (e : List Byte) (b : Block) : Block :=
  let k := ef e 4 0 6
  let s := (mosOf b k).state
  if s == .free || s == .releasing || releaseHeld b k then admBad i .badState 16 b else
  let b := releaseEnds k b
  let m := mosOf b k
  let r : RelJob := { adm := i, step := 1, ranges := scrubRanges b k, out := 0, chans := m.chans, links := portsHeld b k }
  let b := schStop k (sendMembers 0x11 [0] k b)
  let b := modMos k (fun m => { m with state := .releasing, rel := some r, chans := 0 }) b
  let keep := b.fab.redirects.filter (fun x => tget 0 b.fab.redirOwner x.1 != k + 1)
  let b := { b with fab := { b.fab with redirects := keep } }
  setLinks k 0 (unbindCores k (mosOf b k).cores b)

/-- No epoch holds a link mask of the slot. -/
def masksGone (b : Block) (k : Nat) : Bool := b.fab.epochs.all (fun e => e.2.state == .free || tget 0 e.2.masks k == 0)

/-- The release ends: the slot returns to FREE with nothing of its mosaic left, and the command replies. -/
def releaseOver (k i : Nat) (b : Block) : Block :=
  let b := schFree k (modMos k (fun m => { mosZero with ctxs := swWins4 b (.mosCtx k) m.ctxs 0 }) b)
  let keep (m : CollMsg) : Bool := m.slot != k
  let loop (l : Loop) : Loop := { loopZero with turnTokens := l.turnTokens, chunk := l.chunk, aborts := l.aborts }
  let b := { modLoop k loop b with
                    fab := { b.fab with collMsgs := b.fab.collMsgs.filter keep, collZero := b.fab.collZero.filter keep } }
  admFinal i .ok b

/-- The removal of a link key of slot `k` is not acknowledged yet. -/
def keysLeaving (b : Block) (k : Nat) : Bool := b.sec.jobs.any (fun j => j.use == .unlink k)

/-- The release of slot `k` goes on: scrub after unbinding, the link key zeroised after the scrub, FREE when every engine has
acknowledged that (R275, R345). -/
def releaseRun (k : Nat) (b : Block) : Block :=
  let m := mosOf b k
  match m.rel with
  | none => b
  | some r =>
    if r.step = 1 then
      if m.cores = 0 ∧ masksGone b k = true then modMos k (fun m => { m with rel := some { r with step := 2 } }) b else b
    else if r.step = 3 then (if keysLeaving b k then b else releaseOver k r.adm b)
    else if r.ranges.isEmpty then
      if r.out = 0 then
        let b := linkDrop k r.links b
        modMos k (fun m => { m with key := [], prevKeys := [], rel := some { r with step := 3, chans := 0 } }) b
      else b
    else
      let (rs, n, b) := scrubIssue k 256 r.ranges 0 b
      modMos k (fun m => { m with rel := some { r with ranges := rs, out := r.out + n } }) b

/-- A scrub descriptor of slot `k`'s release completed. -/
def releaseDd (k : Nat) (b : Block) : Block :=
  modMos k (fun m => { m with rel := m.rel.map (fun r => { r with out := r.out - 1 }) }) b

/-! ### What every command leaves to the mosaics -/

/-- Mosaics after a command. -/
def settleMosaics (b : Block) : Block :=
  let b := (b.fab.slots.map (·.1)).foldl (fun b k => releaseRun k (releaseRun k (rebindRun k 8 (bindRun k (sendHeld k b))))) b
  migRun 64 b

end Sys2Proof.Machine
end

