-- ==== Sys2Proof/Machine/Down.lean ====
section
/-! DEFINITION. Loss of members and nodes, and the reception of every Serdo message (R276, R291 to R294, R307). -/

namespace Sys2Proof.Machine

/-! ### Loss of a member (R276) -/

/-- A member of slot `k` is lost (R276); during KEYING that fails the agreement on every chip that learns of it (R295), and
signals it has not answered fail in either case (R135). -/
def loseMember (k node : Nat) (b : Block) : Block :=
  let m := mosOf b k
  if !(m.members.any (fun x => x.node == node && !x.lost)) then b
  else if m.state == .keying then
    let b := breakColls k (breakRemote k node b)
    if leads b k then failAgree k b else agreeFailed k Status.authFail.code b
  else if m.state == .ready || m.state == .rebinding || m.state == .broken then
    let b := modMos k (fun m => { m with
      state := .broken, members := m.members.map (fun x => if x.node == node then { x with lost := true } else x) }) b
    let b := report (uccReport 0x1E 5 k .mosaicBroken 0) b
    let b := breakColls k (breakRemote k node (turnLost k b))
    match b.fab.mig with
    | some g => if g.slot = k then migFail .mosaicBroken b else b
    | none => b
  else b

/-- MOSAIC_LEAVE from a member. -/
def takeLeave (k : Nat) (m : SerdoMsg) (b : Block) : Block := loseMember k m.src b

/-! ### NODE_DOWN (R307) -/

/-- The first NODE_DOWN of a node is acted on and flooded, any repeat discarded until the node is READY again; `from_` is the
message and the port it came by, none where this block itself finds the node down. The root removes the node's routes by an epoch change; where the root itself went down, an in-service
election follows (R306). -/
def nodeDownAct (from_ : Option (Nat × SerdoMsg)) (node cause : Nat) (b : Block) : Block :=
  if b.fab.downs.contains node || node == b.fab.node then b else
  let n := b.fab.nodes - b2n (nodeLive b node)
  let b := { b with fab := { b.fab with downs := b.fab.downs ++ [node], nodes := n, fabNodes := n } }
  let ports := (helloPorts b).filter (fun p => (portOf b p).peerNode != node)
  let b := match from_ with
    | some (p, m) => (ports.filter (· != p)).foldl (fun b q => serdoPass m q b) b
    | none => sendPorts 0x09 (leBytes node 2 ++ leBytes cause 1) ports b
  let b := (b.fab.slots.map (·.1)).foldl (fun b k => loseMember k node b) b
  let b := ((b.bat.pools.filter (fun e => Config.poolOnNode e.1 node)).map (·.1)).foldl (fun b p => failPool p b) b
  let b := match b.fab.mig with
    | some g => if g.dstNode = node then migFail .mosaicBroken b else b
    | none => b
  let b := dropAwaited node b
  if b.fab.isRoot then rootChange [.nodeDown node] b
  else if node = b.fab.rootNode ∧ b.fab.phase = 8 then startElection { b with fab := { b.fab with electing := true } }
  else b

/-- A node this block itself finds down. -/
def nodeDownOwn (node cause : Nat) (b : Block) : Block := nodeDownAct none node cause b

/-- NODE_DOWN as received. -/
def takeNodeDown (port : Nat) (m : SerdoMsg) (b : Block) : Block :=
  if b.fab.phase = 8 then nodeDownAct (some (port, m)) (bodyNat m 0 2) (bodyNat m 2 1) b else b

/-! ### Reception -/

/-- The message is for this block: its own node, the neighbour on the port, or flooded. -/
def forMe (b : Block) (m : SerdoMsg) : Bool :=
  m.dst == b.fab.node || m.dst == 0x3FFF || m.typ == 0x05 || m.typ == 0x09

/-- What every received message goes through: a damaged one is discarded (R291), a domain that is not ON keeps it, one that
arrives with HOPS = 0 is discarded and counted, and so is a version-1 message of a mosaic or of a type of flags between chips, or
one of an unlisted type, whoever it is for (R293, R294); a message for another node goes on, any other reaches `f` (R294, R386,
R387). FAB takes each message from its receive buffer as it comes, which therefore never fills (log entry 33). -/
def serdoGate (port : Nat) (m : SerdoMsg) (f : Block → Block) (b : Block) : Block :=
  if m.err || decide (b.pwr.step < 7) then b
  else if !domOn b 3 then serdoSleep port m b
  else wake 3 4 (if m.hops = 0 then dropNoroute b
  else if m.ver == 1 && (m.mosaic != 0 || mosaicType m.typ) then dropAuth b
  else if !listedType m.typ then dropNoroute b
  else if !forMe b m then serdoForward port m b
  else f b)

/-- A mosaic message that passes R293 reaches `f` with its slot. -/
def mosGate (m : SerdoMsg) (f : Nat → Block → Block) (b : Block) : Block :=
  match mosaicAccept m b with
  | (some k, b) => f k b
  | (none, b) => b

/-- The further edits that a LINK_EVENT carries after its bytes (log entry 15). -/
def linkEdits (m : SerdoMsg) : List EpochEdit := if m.body.length ≤ 4 then [] else Config.epochEdits (m.body.drop 4)

/-- What a message of each type does once it has reached this block (R294); a turn message wakes PD_BAT (R386). -/
def serdoAct (port : Nat) (m : SerdoMsg) (b : Block) : Block :=
  match m.typ with
  | 0x01 => takeHello nodeDownOwn port m b
  | 0x02 => takeElect port m b
  | 0x03 => takeEcho port m b
  | 0x04 => takeAssignMsg port m b
  | 0x05 => takeMap port m b
  | 0x06 => takeRoutesReady port m b
  | 0x07 => takeReady port b
  | 0x08 => takeLinkEvent m.src (bodyNat m 0 1) (bitOf (bodyNat m 1 1) 0) (bodyNat m 2 2) (linkEdits m) b
  | 0x09 => takeNodeDown port m b
  | 0x0A => takeJoinRequest port m b
  | 0x10 => mosGate m (fun k b => takeJoin k m b) b
  | 0x11 => mosGate m (fun k b => takeLeave k m b) b
  | 0x12 => mosGate m (fun k b => takeAgree k m b) b
  | 0x13 => mosGate m (fun k b => takeConfirm k m b) b
  | 0x14 => mosGate m (fun k b => takeMosReady k m b) b
  | 0x18 => sendNode 0x19 (leBytes (bodyNat m 0 1) 1) b.fab.rootNode
      (prepareEpoch (bodyNat m 0 1) (Config.epochEdits (m.body.drop 1)) b)
  | 0x19 => ackEpoch m.src (bodyNat m 0 1) b
  | 0x1A => scheduleSwitch (bodyNat m 0 1) b
  | 0x1B => drainedFrom m.src (bodyNat m 0 1) b
  | 0x1C => freeEpoch (bodyNat m 0 1) b
  | 0x20 => mosGate m (fun k b => takeQuiesce k m b) b
  | 0x21 => mosGate m (fun k b => takeHeld k m b) b
  | 0x22 => mosGate m (fun k b => takeResume k b) b
  | 0x28 => mosGate m (fun k b => wake 2 6 (takeCommit k m b)) b
  | 0x29 => mosGate m (fun k b => wake 2 6 (takeArrive k m b)) b
  | 0x2A => mosGate m (fun k b => wake 2 6 (takeAbort k m b)) b
  | 0x2B => mosGate m (fun k b => wake 2 6 (takeTokens k m b)) b
  | 0x30 => mosGate m (fun k b => takeFlagSet k m b) b
  | 0x31 => mosGate m (fun k b => takeFlagReply k m b) b
  | 0x38 => mosGate m (fun k b => takeColl k m b) b
  | _ => dropNoroute b

/-- A received message (R294). -/
def serdoIn (port : Nat) (m : SerdoMsg) (b : Block) : Block := serdoGate port m (serdoAct port m) b

/-- The row of a message type: it takes a message of that type. -/
def serdoRow (typ port : Nat) (m : SerdoMsg) (b : Block) : Block := if m.typ = typ then serdoIn port m b else b

/-- SERDO_FORWARD: a message for another node. -/
def forwardRow (port : Nat) (m : SerdoMsg) (b : Block) : Block :=
  if forMe b m then b else serdoGate port m (fun b => b) b

/-- A version-1 message of a type that the previous generation used for flags between chips (R294). -/
def oldFlag (m : SerdoMsg) : Bool := m.ver == 1 && (m.typ == 0x30 || m.typ == 0x31)

/-- SERDO_UNLISTED_TYPE: a message of no listed type is discarded and counted under NOROUTE, a version-1 message of type 0x30
or 0x31 under AUTH. -/
def unlistedRow (port : Nat) (m : SerdoMsg) (b : Block) : Block :=
  if listedType m.typ && !oldFlag m then b else serdoIn port m b

/-- The messages kept while PD_FAB slept are taken in order (R387). -/
def replayRx (b : Block) : Block :=
  let l := b.fab.heldRx
  l.foldl (fun b x => serdoIn x.1 x.2 b) { b with fab := { b.fab with heldRx := [], heldBeats := 0 } }

end Sys2Proof.Machine
end

