-- ==== Sys2Proof/Machine/Spdm.lean ====
section
/-! DEFINITION. The certificate chain, the measurements and the SPDM responder (R329 to R335). The formats of certificates
(X.509 in DER, ECDSA P-384 with SHA-384), of SPDM 1.3 messages (DSP0274) and of secured messages (DSP0277) are PRESUMED from
those standards, which the manual names: log entry 22. -/

namespace Sys2Proof.Machine

/-! ### Certificates (R329) -/

/-- A DER element: tag, its whole bytes, its content. -/
structure Der where
  tag  : Nat
  full : List Byte
  body : List Byte
deriving DecidableEq, Repr

/-- The DER element that a byte string begins with, and what follows it; lengths of at most three bytes. -/
def derTake (l : List Byte) : Option (Der × List Byte) :=
  match l with
  | t :: n :: r =>
    let k := if n.toNat < 128 then 0 else n.toNat - 128
    let len := if n.toNat < 128 then n.toNat else beNat (r.take k)
    let all := 2 + k + len
    if 3 < k ∨ l.length < all then none
    else some ({ tag := t.toNat, full := l.take all, body := (r.drop k).take len }, l.drop all)
  | _ => none

/-- The DER elements of a byte string, as far as they go. -/
def derList : Nat → List Byte → List Der
  | 0, _ => []
  | fuel + 1, l => match derTake l with
    | some (d, r) => d :: derList fuel r
    | none => []

/-- The parts of a constructed element. -/
def Der.parts (d : Der) : List Der := derList d.body.length d.body

/-- An element where a list has none. -/
def derNone : Der := { tag := 0, full := [], body := [] }

/-- The public key of a certificate: in what it signs, the seventh part, or the sixth where no version stands first, holds the
algorithm and the key's bit string. -/
def certKey (c : Der) : List Byte :=
  let ps := (c.parts.getD 0 derNone).parts
  let ps := if (ps.getD 0 derNone).tag = 0xA0 then ps.drop 1 else ps
  ((ps.getD 5 derNone).parts.getD 1 derNone).body.drop 1

/-- An unsigned DER integer as 48 bytes. -/
def derScalar (d : Der) : List Byte := beBytes (beNat d.body % 2 ^ 384) 48

/-- The signature of a certificate, `r` then `s`. -/
def certSig (c : Der) : List Byte :=
  match derTake ((c.parts.getD 2 derNone).body.drop 1) with
  | some (d, _) => derScalar (d.parts.getD 0 derNone) ++ derScalar (d.parts.getD 1 derNone)
  | none => []

/-- Certificate `c` is signed by the key of certificate `up`. -/
def certSigned (up c : Der) : Bool := ecdsaVerify (certKey up) (sha384 (c.parts.getD 0 derNone).full) (certSig c)

/-- The certificates of a chain, root first; a header of 4 bytes and the root's hash stand before them. -/
def chainCerts (chain : List Byte) : List Der := derList chain.length (chain.drop 52)

/-- Each certificate of a list is signed by the one before it. -/
def chainLinked : List Der → Bool
  | a :: b :: l => certSigned a b && chainLinked (b :: l)
  | _ => true

/-- The chain is accepted for an identity key: its leaf holds that key, and each certificate is signed by the next one up. -/
def chainAccepted (chain pub : List Byte) : Bool :=
  let cs := chainCerts chain
  match cs.getLast? with
  | some c => certKey c == pub && chainLinked cs
  | none => false

/-! ### Measurements (R333) -/

/-- Bytes of the boards of every slot, for index 3: the board image in force, or its header alone with COUNT zero. -/
def boardBytes (b : Block) : List Byte :=
  ((List.range 64).map (fun k =>
    let bd := boardOf b k
    leBytes bd.length 4 ++ List.replicate 12 0 ++ (bd.map (fun w => leBytes w 4)).flatten)).flatten

/-- The digest of a measurement index; empty where it is absent. Index 1 is the ROM's digest, which no rule gives: a free
value (log entry 2). -/
def measurement (b : Block) (i : Nat) : List Byte :=
  match i with
  | 1 => leBytes (Config.freeValue 384 0).toNat 48
  | 2 => if b.pwr.img.active.isSome then b.pwr.meas else []
  | 3 => sha384 (boardBytes b)
  | 4 => sha384 b.sec.confBlk
  | 5 => match b.pwr.img.staged with | some s => s.meas | none => []
  | _ => []

/-- The context whose transcript an ATTEST reports, where its request enables it and the context is not FREE (R333). -/
def xscript (b : Block) (e : List Byte) : Option Nat :=
  if bitOf (word e 4) 16 && (ctxOf b (ef e 4 0 8)).state != .free then some (ef e 4 0 8) else none

/-- The transcript value of a context: its chain and its FOLD_COUNT (R335). -/
def transcript (b : Block) (c : Nat) : List Byte :=
  let h := tget chainZero b.sec.chains c
  h.d ++ leBytes h.n 8

/-- DMTF value types of indices 1 to 5. That of the raw bit stream, bit 7 apart, is a free value (log entry 22). -/
def measType (i : Nat) : Nat :=
  match i with
  | 1 => 0
  | 2 | 5 => 1
  | 3 => 3
  | 4 => 2
  | _ => 0x80 + (Config.freeValue 7 1).toNat

/-- A measurement block in DMTF format. -/
def measBlock (i : Nat) (v : List Byte) : List Byte :=
  leBytes i 1 ++ [1] ++ leBytes (v.length + 3) 2 ++ leBytes (measType i) 1 ++ leBytes v.length 2 ++ v

/-- The value of index `i`, the transcript of context `x` included; empty where it is absent. -/
def measValue (b : Block) (x : Option Nat) (i : Nat) : List Byte :=
  if i = 0x20 then (match x with | some c => transcript b c | none => []) else measurement b i

/-- The indices present. -/
def measPresent (b : Block) (x : Option Nat) : List Nat := [1, 2, 3, 4, 5, 0x20].filter (fun i => !(measValue b x i).isEmpty)

/-- The measurement record of the indices given. -/
def measRecord (b : Block) (x : Option Nat) (l : List Nat) : List Byte := (l.map (fun i => measBlock i (measValue b x i))).flatten

/-- The measurement summary hash of a kind: none, of the TCB (indices 1, 2, 4), or of all (1 to 5). -/
def measSummary (b : Block) (kind : Nat) : List Byte :=
  let l := (measPresent b none).filter (fun i => kind != 1 || i == 1 || i == 2 || i == 4)
  if kind = 0 then [] else sha384 (measRecord b none l)

/-- A kind of summary hash that exists. -/
def sumKind (k : Nat) : Bool := k == 0 || k == 1 || k == 0xFF

/-! ### Messages -/

/-- A response, and the block after it; an ERROR carries its code. -/
abbrev SpdmOut := Except (Nat × Nat) (List Byte) × Block

/-- An ERROR of a code. -/
def spdmFail (code : Nat) (b : Block) : SpdmOut := (.error (code, 0), b)

/-- The header of a response. -/
def spdmHead (code p1 p2 : Nat) : List Byte := [0x13, BitVec.ofNat 8 code, BitVec.ofNat 8 p1, BitVec.ofNat 8 p2]

/-- An ERROR message. -/
def spdmErrorMsg (e : Nat × Nat) : List Byte := spdmHead 0x7F e.1 e.2

/-- Byte `i` of a message. -/
def mb (m : List Byte) (i : Nat) : Nat := (m.getD i 0).toNat

/-- Bytes in the order of text. -/
def ascii (l : List Nat) : List Byte := l.map (BitVec.ofNat 8)

/-- "dmtf-spdm-v1.3.*". -/
def spdmTag : List Byte :=
  ascii [0x64, 0x6D, 0x74, 0x66, 0x2D, 0x73, 0x70, 0x64, 0x6D, 0x2D, 0x76, 0x31, 0x2E, 0x33, 0x2E, 0x2A]

/-- "responder-". -/
def spdmRole : List Byte := ascii [0x72, 0x65, 0x73, 0x70, 0x6F, 0x6E, 0x64, 0x65, 0x72, 0x2D]

/-- " signing". -/
def spdmSigning : List Byte := ascii [0x20, 0x73, 0x69, 0x67, 0x6E, 0x69, 0x6E, 0x67]

/-- "challenge_auth". -/
def ctxChallenge : List Byte := ascii [0x63, 0x68, 0x61, 0x6C, 0x6C, 0x65, 0x6E, 0x67, 0x65, 0x5F, 0x61, 0x75, 0x74, 0x68]

/-- "measurements". -/
def ctxMeas : List Byte := ascii [0x6D, 0x65, 0x61, 0x73, 0x75, 0x72, 0x65, 0x6D, 0x65, 0x6E, 0x74, 0x73]

/-- "key_exchange_rsp". -/
def ctxExchange : List Byte :=
  ascii [0x6B, 0x65, 0x79, 0x5F, 0x65, 0x78, 0x63, 0x68, 0x61, 0x6E, 0x67, 0x65, 0x5F, 0x72, 0x73, 0x70]

/-- What is signed of a transcript: the prefix of DSP0274, 100 bytes, and the transcript's hash. -/
def spdmSigned (ctx m : List Byte) : List Byte :=
  let c := spdmRole ++ ctx ++ spdmSigning
  spdmTag ++ spdmTag ++ spdmTag ++ spdmTag ++ List.replicate (36 - c.length) 0 ++ c ++ sha384 m

/-- The signature of a transcript with the identity key (R335). -/
def spdmSign (ctx m : List Byte) (b : Block) : List Byte × Block := signIdk (sha384 (spdmSigned ctx m)) b

/-- The SPDM state ends: sessions and negotiation (R332). -/
def spdmEnd (b : Block) : Block := { b with sec := { b.sec with sessions := [], nego := 0, spdm := spdmZero } }

/-- Change what has been negotiated. -/
def modSpdm (f : Spdm → Spdm) (b : Block) : Block := { b with sec := { b.sec with spdm := f b.sec.spdm } }

/-! ### Negotiation (R330) -/

/-- GET_VERSION: everything before it is forgotten; version 1.3 is answered. -/
def spdmVersion (m : List Byte) (b : Block) : SpdmOut :=
  if mb m 0 ≠ 0x10 then spdmFail 0x01 b else
  let rsp := [0x10, 0x04, 0, 0, 0, 1, 0x00, 0x13]
  let b := spdmEnd b
  (.ok rsp, modSpdm (fun s => { s with nego := m ++ rsp }) { b with sec := { b.sec with nego := 1 } })

/-- Capability flags: CERT, CHAL, MEAS with signature, MEAS_FRESH, ENCRYPT, MAC, KEY_EX, KEY_UPD. -/
def spdmFlags : Nat := 0x42F6

/-- GET_CAPABILITIES. -/
def spdmCaps (m : List Byte) (b : Block) : SpdmOut :=
  if b.sec.nego ≠ 1 then spdmFail 0x04 b
  else if mb m 0 ≠ 0x13 ∨ m.length < 20 ∨ leNat (slice m 12 4) < 42 then spdmFail 0x01 b
  else
    let rsp := spdmHead 0x61 0 0 ++ [0, 12, 0, 0] ++ leBytes spdmFlags 4 ++ leBytes 4096 4 ++ leBytes 4096 4
    (.ok rsp, modSpdm (fun s => { s with nego := s.nego ++ m ++ rsp, size := leNat (slice m 12 4) })
      { b with sec := { b.sec with nego := 2 } })

/-- The algorithm structures of a NEGOTIATE_ALGORITHMS: type and the values offered; none where one is malformed. -/
def algStructs : Nat → List Byte → Option (List (Nat × Nat))
  | 0, _ => some []
  | n + 1, l =>
    let x := 4 * (mb l 1 % 16)
    if l.length < 4 + x ∨ mb l 1 / 16 ≠ 2 then none
    else (algStructs n (l.drop (4 + x))).map ((mb l 0, leNat (slice l 2 2)) :: ·)

/-- What the responder takes of a type: DHE secp384r1, AEAD AES-256-GCM, the SPDM key schedule; no other type. -/
def algTaken (t : Nat) : Nat :=
  match t with
  | 2 => 0x10
  | 3 => 0x02
  | 5 => 0x01
  | _ => 0

/-- NEGOTIATE_ALGORITHMS: a request that does not offer the one value of an item is refused. -/
def spdmAlgs (m : List Byte) (b : Block) : SpdmOut :=
  if b.sec.nego ≠ 2 then spdmFail 0x04 b
  else if mb m 0 ≠ 0x13 ∨ m.length < 32 then spdmFail 0x01 b
  else match algStructs (mb m 2) (m.drop (32 + 4 * (mb m 28 + mb m 29))) with
    | none => spdmFail 0x01 b
    | some l =>
      if !bitOf (leNat (slice m 8 4)) 7 || !bitOf (leNat (slice m 12 4)) 1
          || l.any (fun x => Nat.land x.2 (algTaken x.1) != algTaken x.1) then spdmFail 0x01 b
      else
        let opq := bitOf (mb m 7) 1
        let st := (l.map (fun x => leBytes x.1 1 ++ [0x20] ++ leBytes (algTaken x.1) 2)).flatten
        let rsp := spdmHead 0x63 l.length 0 ++ leBytes (36 + st.length) 2 ++ leBytes (mb m 6 % 2) 1
          ++ leBytes (2 * b2n opq) 1 ++ leBytes (4 * (mb m 6 % 2)) 4 ++ leBytes 0x80 4 ++ leBytes 0x02 4
          ++ List.replicate 16 0 ++ st
        let kex := [2, 3, 5].all (fun t => l.any (·.1 == t))
        (.ok rsp, modSpdm (fun s => { s with nego := s.nego ++ m ++ rsp, kex := kex, opq := opq })
          { b with sec := { b.sec with nego := 3 } })

/-! ### Digests and certificates (R329) -/

/-- GET_DIGESTS: the root's SHA-384 for slot 0. -/
def spdmDigests (b : Block) : List Byte :=
  if b.sec.cert0 then spdmHead 0x01 1 1 ++ sha384 ((chainCerts b.pwr.certChain).getD 0 derNone).full
  else spdmHead 0x01 1 0

/-- GET_CERTIFICATE: a portion of the chain of slot 0. -/
def spdmCert (m : List Byte) (b : Block) : Except (Nat × Nat) (List Byte) :=
  let c := b.pwr.certChain
  let off := leNat (slice m 4 2)
  if !b.sec.cert0 ∨ m.length < 8 ∨ mb m 2 % 16 ≠ 0 then .error (0x01, 0)
  else if bitOf (mb m 3) 0 then .ok (spdmHead 0x02 0 0 ++ leBytes 0 2 ++ leBytes c.length 2)
  else if c.length ≤ off then .error (0x01, 0)
  else
    let n := min (min (leNat (slice m 6 2)) (min b.sec.spdm.size 4096 - 8)) (c.length - off)
    .ok (spdmHead 0x02 0 0 ++ leBytes n 2 ++ leBytes (c.length - off - n) 2 ++ slice c off n)

/-- Note the messages about digests and certificates outside a session. -/
def noteCerts (m rsp : List Byte) (b : Block) : Block := modSpdm (fun s => { s with certs := s.certs ++ m ++ rsp }) b

/-! ### CHALLENGE -/

/-- CHALLENGE: authentication of the identity key, with the summary asked. -/
def spdmChallenge (m : List Byte) (b : Block) : SpdmOut :=
  if m.length < 44 ∨ mb m 2 ≠ 0 ∨ !sumKind (mb m 3) then spdmFail 0x01 b else
  let r := drawBytes 32 b
  let pre := spdmHead 0x03 0 (b2n b.sec.cert0) ++ sha384 b.pwr.certChain ++ r.1 ++ measSummary b (mb m 3) ++ [0, 0] ++ slice m 36 8
  let s := spdmSign ctxChallenge (b.sec.spdm.nego ++ b.sec.spdm.certs ++ m ++ pre) r.2
  (.ok (pre ++ s.1), modSpdm (fun x => { x with certs := [] }) s.2)

/-! ### GET_MEASUREMENTS (R333, R335) -/

/-- The indices that a GET_MEASUREMENTS asks for; none for an index that is absent. -/
def measAsked (b : Block) (x : Option Nat) (op : Nat) : Option (List Nat) :=
  if op = 0 then some [] else if op = 0xFF then some (measPresent b x)
  else if (measPresent b x).contains op then some [op] else none

/-- GET_MEASUREMENTS, with the transcript of the measurement messages before it: the response and the transcript after it. A
signed one carries the identity key's signature. -/
def spdmMeas (x : Option Nat) (m l : List Byte) (b : Block) : Except (Nat × Nat) (List Byte × List Byte) × Block :=
  let sig := bitOf (mb m 2) 0
  let at_n := if sig then 37 else 4
  if m.length < at_n + 8 ∨ (sig = true ∧ mb m 36 % 16 ≠ 0) then (.error (0x01, 0), b) else
  match measAsked b x (mb m 3) with
  | none => (.error (0x01, 0), b)
  | some is =>
    let rec_ := measRecord b x is
    let r := drawBytes 32 b
    let pre := spdmHead 0x60 (if mb m 3 = 0 then (measPresent b x).length else 0) 0 ++ leBytes is.length 1
      ++ leBytes rec_.length 3 ++ rec_ ++ r.1 ++ [0, 0] ++ slice m at_n 8
    let all := l ++ m ++ pre
    if sig then
      let s := spdmSign ctxMeas (b.sec.spdm.nego ++ all) r.2
      (.ok (pre ++ s.1, []), s.2)
    else (.ok (pre, all), r.2)

/-! ### Sessions (R330, R331, R338) -/

/-- HKDF-Expand of one block with a label of the SPDM key schedule. -/
def spdmExpand (secret label ctx : List Byte) (len : Nat) : List Byte :=
  (hmac384 secret (leBytes len 2 ++ ascii [0x73, 0x70, 0x64, 0x6D, 0x31, 0x2E, 0x33, 0x20] ++ label ++ ctx ++ [1])).take len

/-- "req " or "rsp ", then "hs data" or "app data". -/
def dirLabel (rsp app : Bool) : List Byte :=
  ascii ([0x72] ++ (if rsp then [0x73, 0x70] else [0x65, 0x71]) ++ [0x20] ++ (if app then [0x61, 0x70, 0x70] else [0x68, 0x73])
    ++ [0x20, 0x64, 0x61, 0x74, 0x61])

/-- "finished". -/
def lblFinished : List Byte := ascii [0x66, 0x69, 0x6E, 0x69, 0x73, 0x68, 0x65, 0x64]

/-- The verify data of a direction: HMAC under its finished key of a transcript's hash. -/
def verifyData (secret th : List Byte) : List Byte := hmac384 (spdmExpand secret lblFinished [] 48) (sha384 th)

/-- Opaque data of the response: the secured message version that DSP0277 selects, 1.1; none where no format was agreed. -/
def spdmOpaque (opq : Bool) : List Byte := if opq then [12, 0, 1, 0, 0, 0, 0, 0, 4, 0, 1, 0, 0x00, 0x11] else [0, 0]

/-- KEY_EXCHANGE: a session begins, unless four stand. Its number is the requester's half, then the responder's own count. -/
def spdmExchange (m : List Byte) (b : Block) : SpdmOut :=
  let opqLen := leNat (slice m 136 2)
  if !b.sec.spdm.kex then spdmFail 0x04 b
  else if m.length < 138 + opqLen ∨ mb m 3 ≠ 0 ∨ !sumKind (mb m 2) then spdmFail 0x01 b
  else if 4 ≤ b.sec.sessions.length then spdmFail 0x0A b
  else
    let n := b.sec.nextSess % 65536
    let d := drawScalar b
    match ecdh d.1 (4 :: slice m 40 96) with
    | none => spdmFail 0x01 b
    | some z =>
      let r := drawBytes 32 d.2
      let pre := spdmHead 0x64 0 0 ++ leBytes n 2 ++ [0, 0] ++ r.1 ++ (ecPublic d.1).drop 1 ++ measSummary b (mb m 2)
        ++ spdmOpaque b.sec.spdm.opq
      let th := b.sec.spdm.nego ++ sha384 b.pwr.certChain ++ m ++ pre
      let s := spdmSign ctxExchange th r.2
      let th := th ++ s.1
      let hs := hmac384 (List.replicate 48 0) z
      let req := spdmExpand hs (dirLabel false false) (sha384 th) 48
      let rsp := spdmExpand hs (dirLabel true false) (sha384 th) 48
      let v := verifyData rsp th
      let x : Session := { id := leNat (slice m 4 2) + at_ n 16, done := false, allSum := mb m 2 == 0xFF, ems := [], hs := hs,
                           req := req, rsp := rsp, reqSeq := 0, rspSeq := 0, th := th ++ v, meas := [] }
      let b := s.2
      (.ok (pre ++ s.1 ++ v),
        { b with sec := { b.sec with sessions := b.sec.sessions ++ [x], nextSess := b.sec.nextSess + 1 } })

/-- Change session `id`. -/
def modSession (id : Nat) (f : Session → Session) (b : Block) : Block :=
  { b with sec := { b.sec with sessions := modFirst (·.id == id) f b.sec.sessions } }

/-- Session `id` ends. -/
def dropSession (id : Nat) (b : Block) : Block :=
  { b with sec := { b.sec with sessions := b.sec.sessions.filter (·.id != id) } }

/-- FINISH has verified: the secrets of the application phase, and the export master secret. -/
def finishSession (m rsp : List Byte) (s : Session) : Session :=
  let h := sha384 (s.th ++ m ++ rsp)
  let salt := spdmExpand s.hs (ascii [0x64, 0x65, 0x72, 0x69, 0x76, 0x65, 0x64]) [] 48
  let master := hmac384 salt (List.replicate 48 0)
  { s with done := true, ems := spdmExpand master (ascii [0x65, 0x78, 0x70, 0x20, 0x6D, 0x61, 0x73, 0x74, 0x65, 0x72]) h 48
           req := spdmExpand master (dirLabel false true) h 48, rsp := spdmExpand master (dirLabel true true) h 48
           reqSeq := 0, rspSeq := 0, hs := [], th := [] }

/-- The secret that a key update puts in place of one. -/
def updated (secret : List Byte) : List Byte :=
  spdmExpand secret (ascii [0x74, 0x72, 0x61, 0x66, 0x66, 0x69, 0x63, 0x20, 0x75, 0x70, 0x64]) [] 48

/-- Key and nonce of message `n` of a direction. -/
def recordKey (secret : List Byte) (n : Nat) : List Byte × List Byte :=
  (spdmExpand secret (ascii [0x6B, 0x65, 0x79]) [] 32,
   xorB (spdmExpand secret (ascii [0x69, 0x76]) [] 12) (leBytes n 8 ++ List.replicate 4 0))

/-- Open a secured message: its application data; none where it does not authenticate. -/
def openRecord (s : Session) (m : List Byte) : Option (List Byte) :=
  let k := recordKey s.req s.reqSeq
  let ct := slice m 6 (m.length - 22)
  if m.length < 24 ∨ leNat (slice m 4 2) ≠ m.length - 6 ∨ gcmSeal k.1 k.2 (m.take 6) ct ≠ m.drop (m.length - 16) then none
  else
    let p := gcmText k.1 k.2 ct
    some (slice p 2 (leNat (p.take 2)))

/-- The secured message that carries application data. -/
def sealRecord (s : Session) (d : List Byte) : List Byte :=
  let k := recordKey s.rsp s.rspSeq
  let hd := leBytes s.id 4 ++ leBytes (d.length + 18) 2
  let ct := gcmText k.1 k.2 (leBytes d.length 2 ++ d)
  hd ++ ct ++ gcmSeal k.1 k.2 hd ct

/-- The answer to the request that a secured message carries: the response, the session that seals it, and what becomes of the
session. -/
def spdmInner (x : Option Nat) (m : List Byte) (s : Session) (b : Block) :
    Except (Nat × Nat) (List Byte × Session × Option Session) × Block :=
  let code := mb m 1
  let fail (c : Nat) (p : Nat) := (Except.error (c, p), b)
  if !([0x84, 0xE1, 0xE3, 0x81, 0x82, 0x83, 0xE0, 0xE4, 0xE5, 0xE9, 0xEC].contains code) then fail 0x07 code
  else if mb m 0 ≠ 0x13 ∨ m.length < 4 then fail 0x01 0
  else if code = 0xE5 then
    if s.done then fail 0x04 0
    else if m.length < 52 then fail 0x01 0
    else
      let rsp := spdmHead 0x65 0 0
      (.ok (rsp, s, some (finishSession (m.take 52) rsp s)), b)
  else if !s.done then fail 0x04 0
  else if code = 0xE9 then
    let rsp := spdmHead 0x69 (mb m 2) (mb m 3)
    let s1 := { s with req := updated s.req, reqSeq := 0 }
    if mb m 2 = 1 then (.ok (rsp, s1, some s1), b)
    else if mb m 2 = 2 then
      let s2 := { s1 with rsp := updated s.rsp, rspSeq := 0 }
      (.ok (rsp, s2, some s2), b)
    else if mb m 2 = 3 then (.ok (rsp, s, some s), b)
    else fail 0x01 0
  else if code = 0xEC then (.ok (spdmHead 0x6C 0 0, s, none), b)
  else if code = 0xE0 then
    match spdmMeas x m s.meas b with
    | (.ok (rsp, l), b) => (.ok (rsp, s, some { s with meas := l }), b)
    | (.error e, b) => (.error e, b)
  else if code = 0x81 then (.ok (spdmDigests b, s, some { s with meas := [] }), b)
  else if code = 0x82 then (match spdmCert m b with
    | .ok rsp => (.ok (rsp, s, some { s with meas := [] }), b)
    | .error e => (.error e, b))
  else fail 0x04 0

/-- One message more has been sealed, where the session still seals with the same secret. -/
def countSealed (was s : Session) : Session := if s.rsp == was.rsp then { s with rspSeq := s.rspSeq + 1 } else s

/-- A secured message of session `s`. One that does not authenticate, or a FINISH whose verify data is wrong, ends the session
with DecryptError in the clear. -/
def spdmSecured (x : Option Nat) (s : Session) (m : List Byte) (b : Block) : List Byte × Block :=
  let lost : List Byte × Block :=
    (spdmErrorMsg (0x06, 0), dropSession s.id { b with sec := { b.sec with spdmErr := 0x06 } })
  match openRecord s m with
  | none => lost
  | some d =>
    let s := { s with reqSeq := s.reqSeq + 1 }
    if mb d 1 = 0xE5 ∧ s.done = false ∧ 52 ≤ d.length ∧ slice d 4 48 ≠ verifyData s.req (s.th ++ d.take 4) then lost
    else match spdmInner x d s b with
      | (.ok (rsp, by_, some t), b) => (sealRecord by_ rsp, modSession s.id (fun _ => countSealed by_ t) b)
      | (.ok (rsp, by_, none), b) => (sealRecord by_ rsp, dropSession s.id b)
      | (.error e, b) =>
        (sealRecord s (spdmErrorMsg e),
          modSession s.id (fun _ => countSealed s s) { b with sec := { b.sec with spdmErr := e.1 } })

/-! ### The responder (R327, R331) -/

/-- A request in the clear. -/
def spdmClear (x : Option Nat) (m : List Byte) (b : Block) : SpdmOut :=
  let code := mb m 1
  if code = 0x84 then spdmVersion m b
  else if code = 0xE1 then spdmCaps m b
  else if !b.sec.idkValid then spdmFail 0x05 b
  else if code = 0xE3 then spdmAlgs m b
  else if !([0x81, 0x82, 0x83, 0xE0, 0xE4, 0xE5, 0xE9, 0xEC].contains code) then (.error (0x07, code), b)
  else if b.sec.nego ≠ 3 ∨ code = 0xE5 ∨ code = 0xE9 ∨ code = 0xEC then spdmFail 0x04 b
  else if mb m 0 ≠ 0x13 ∨ m.length < 4 then spdmFail 0x01 b
  else if code = 0xE0 then
    match spdmMeas x m b.sec.spdm.meas b with
    | (.ok (rsp, l), b) => (.ok rsp, modSpdm (fun s => { s with meas := l }) b)
    | (.error e, b) => (.error e, b)
  else
    let b := modSpdm (fun s => { s with meas := [] }) b
    if code = 0x81 then (.ok (spdmDigests b), noteCerts m (spdmDigests b) b)
    else if code = 0x82 then (match spdmCert m b with
      | .ok rsp => (.ok rsp, noteCerts m rsp b)
      | .error e => (.error e, b))
    else if code = 0x83 then spdmChallenge m b
    else spdmExchange m b

/-- An ERROR in the clear. -/
def spdmErr (e : Nat × Nat) (b : Block) : List Byte × Block := (spdmErrorMsg e, { b with sec := { b.sec with spdmErr := e.1 } })

/-- The requester has said that it takes fewer bytes than `rsp` has; a response is never sent in parts (R331). -/
def tooLarge (b : Block) (rsp : List Byte) : Bool := decide (2 ≤ b.sec.nego ∧ b.sec.spdm.size < rsp.length)

/-- The responder answers one request; `x` is the context whose transcript may be reported. A message that begins with the
number of a session that stands is a secured one. -/
def spdmAnswer (x : Option Nat) (m : List Byte) (b : Block) : List Byte × Block :=
  match b.sec.sessions.find? (fun s => s.id == leNat (m.take 4) && decide (4 ≤ m.length)) with
  | some s => spdmSecured x s m b
  | none =>
    match spdmClear x m b with
    | (.ok rsp, b') => if tooLarge b' rsp then spdmErr (0x0D, 0) b else (rsp, b')
    | (.error e, b) => spdmErr e b

end Sys2Proof.Machine
end

