-- ==== Sys2Proof/Machine/Keys.lean ====
section
/-! DEFINITION. SEC: the identity key, ATTEST, folding, key slots and bindings (R327, R329, R331, R336 to R346). -/

namespace Sys2Proof.Machine

/-! ### Identity (R327, R329) -/

/-- The private scalar from the seed, from counter byte `c` on. -/
def idkScalar (seed : List Byte) : Nat → Nat → Nat
  | 0, _ => 0
  | fuel + 1, c =>
    let x := beNat (hmac384 seed [0x51, 0x4D, 0x49, 0x44, BitVec.ofNat 8 c]) % p384N
    if x = 0 then idkScalar seed fuel (c + 1) else x

/-- SEC derives the identity key, and `ks_kinv` falls; an all-zero seed gives no identity key, and `ks_kinv` stays high (R327,
R351). The hash of the public key supplies the election tiebreak (R298). -/
def deriveIdk (b : Block) : Block :=
  let zero := allZero b.fuses.seed
  let d := if zero then 0 else idkScalar b.fuses.seed 255 1
  let pub := if zero then [] else ecPublic d
  let b := { b with sec := { b.sec with idkValid := !zero, scalar := d, pub := pub, kinv := zero } }
  let tie := if zero then 0 else beNat ((sha384 pub).take 8)
  let b := { b with fab := { b.fab with tie := tie } }
  if zero then b else emit (.ksInvalid false) b

/-- The slot 0 chain is accepted or not (R329). -/
def acceptChain (b : Block) : Block :=
  let ok := b.sec.idkValid && chainAccepted b.pwr.certChain b.sec.pub
  { b with sec := { b.sec with cert0 := ok } }

/-- A command that needs PD_SEC wakes it and waits until it is ON (R386). -/
def needSec (i : Nat) (f : Block → Block) (b : Block) : Block :=
  wake 4 7 (if domOn b 4 then f b else modAdm i (fun c => { c with started := false }) b)

/-! ### ATTEST (R331, R421) -/

/-- ATTEST: the request is read (R331). -/
def attest (i : Nat) (e : List Byte) (b : Block) : Block :=
  let n := ef e 5 0 13
  if n = 0 ∨ 4096 < n then admBad i .badLength 20 b
  else if ef e 4 16 1 = 1 ∧ nContexts b ≤ ef e 4 0 8 then admBad i .badParam 16 b
  else needSec i (fun b =>
    match bufBad (dword e 6) n 1 with
    | some st => admBad i st 24 b
    | none => match bufBad (dword e 8) 4096 1 with
      | some st => admBad i st 32 b
      | none => admRead i b) b

/-- The request of an ATTEST has been read: the response is written. -/
def attestData (i : Nat) (e req : List Byte) (b : Block) : Block :=
  let r := spdmAnswer (xscript b e) req b
  admWrite i r.1 r.2

/-! ### Folding (R227 to R230, R336) -/

/-- The initial block of a context's chain. -/
def chainInit (b : Block) : List Byte :=
  leBytes 0x51540001 4 ++ leBytes Config.nclass 4 ++ List.replicate 8 0
  ++ (b.pwr.meas ++ List.replicate (48 - b.pwr.meas.length) 0)

/-- A fold record's bytes. The body of a TURN record of 4,096 rows or more passes what BODY_LEN can hold, which then has the length
modulo 65,536 (DESIGN CHOICE, log entry 47). -/
def foldBytesOf (f : FoldRec) (n : Nat) : List Byte :=
  leBytes (f.body.length % 65536 + at_ f.kind 24) 4 ++ leBytes f.ranks 4 ++ leBytes n 8 ++ f.body

/-- FOLD: the oldest record of context `c` is folded; a mark's own fold gives its digest and count. A record of the CLK_HUB cycle
that runs waits for its end, since another of that cycle may still come before it (R230). -/
def foldNext (c : Nat) (b : Block) : Block :=
  match tget [] b.sec.folds c with
  | [] => b
  | f :: fs =>
    if !domOn b 4 then wake 4 7 b
    else if f.cyc = hubNow b then b else
    let h := tget chainZero b.sec.chains c
    let d := sha384 (h.d ++ foldBytesOf f h.n)
    let marks := match f.mark with
      | some oid => tset ([], 0) b.sec.marks oid (d, h.n + 1)
      | none => b.sec.marks
    { b with sec := { b.sec with chains := tset chainZero b.sec.chains c { d := d, n := h.n + 1 },
                                 folds := tset [] b.sec.folds c fs, marks := marks } }

/-! ### Key slots (R337, R338, R346) -/

/-- The wrapping key of a KEY_IMPORT: one block of HKDF-Expand. -/
def importKey (ems : List Byte) (ctx handle : Nat) (salt : List Byte) : List Byte :=
  (hmac384 ems ([0x51, 0x4D, 0x4B, 0x49] ++ leBytes ctx 1 ++ leBytes handle 2 ++ salt ++ [1])).take 32

/-- KEY_IMPORT (R338). -/
def keyImport (i : Nat) (e : List Byte) (b : Block) : Block :=
  let c := ef e 5 0 8
  let h := ef e 5 16 10
  let salt := slice e 24 16
  if nContexts b ≤ c then admBad i .badParam 20 b
  else needSec i (fun b =>
    match (if b.sec.idkValid then b.sec.sessions.find? (fun s => s.id == word e 4 && s.done && s.allSum) else none) with
    | none => admBad i .notPermitted 16 b
    | some s =>
      if (ctxOf b c).state != .active then admBad i .badState 20 b
      else if (keyOf b h).state != .empty then admBad i .badState 22 b
      else match aesUnwrap (importKey s.ems c h salt) (slice e 40 40) with
        | none => admBad i .authFail 40 { b with sec := { b.sec with authFail := satAdd 32 b.sec.authFail 1 } }
        | some k => ksAdd .install h [leNat k, leNat salt] (memInsts b) (.keyImport i h) b) b

/-- Every engine holds the imported key: the slot is LOADED (R338). Where the command has gone with a teardown meanwhile, the
key is removed from the engines again. DEDUCED (log entry 39). -/
def importDone (i h : Nat) (args : List Nat) (b : Block) : Block :=
  match admOf b i with
  | none => ksAdd .remove h [] (memInsts b) .teardown b
  | some a =>
    let c := ef a.entry 5 0 8
    admFinal i .ok (modKey h (fun _ => { state := .loaded, ctx := c, key := leBytes (args.getD 0 0) 32,
                                         salt := leBytes (args.getD 1 0) 16 }) b)

/-- A descriptor with key handle `h` is outstanding on some port. -/
def keyBusy (b : Block) (h : Nat) : Bool :=
  b.seq.seqrs.any (fun e => e.2.dd.any (fun d => match d.2 with | some u => u.key == some h | none => false))

/-- KEY_REVOKE, steps 1 and 2 (R346). -/
def keyRevoke (i : Nat) (e : List Byte) (b : Block) : Block :=
  let h := ef e 4 0 10
  needSec i (fun b =>
    if (keyOf b h).state != .loaded then admBad i .badState 16 b else
    let b := modKey h (fun k => { k with state := .revoking }) b
    let r : Revoke := { handle := h, step := 2, adm := i, dead := 0 }
    ksAdd .suspend h [] (memInsts b) (.revokeStep h) { b with sec := { b.sec with revokes := b.sec.revokes ++ [r] } }) b

/-- Change the revocation of handle `h`. -/
def modRevoke (h : Nat) (f : Revoke → Revoke) (b : Block) : Block :=
  { b with sec := { b.sec with revokes := modFirst (·.handle == h) f b.sec.revokes } }

/-- Step 4: REMOVE goes out and the slot's bindings are cleared. -/
def revokeRemove (h : Nat) (b : Block) : Block :=
  let b := modRevoke h (fun r => { r with step := 4 }) b
  let b := { b with sec := { b.sec with bindings := b.sec.bindings.filter (·.handle != h) } }
  ksAdd .remove h [] (memInsts b) (.revokeStep h) b

/-- An acknowledged sideband operation of a revocation. -/
def revokeAck (h : Nat) (b : Block) : Block :=
  match b.sec.revokes.find? (·.handle == h) with
  | none => b
  | some r =>
    if r.step = 2 then
      let dead := hubNow b + 2 ^ b.sec.tdLog2
      modRevoke h (fun r => { r with step := 3, dead := dead }) b
    else
      let b := modKey h (fun _ => keyZero) { b with sec := { b.sec with revokes := b.sec.revokes.filter (·.handle != h) } }
      admFinal r.adm .ok b

/-- Revocations after a command: step 3 ends when no descriptor carries the handle. -/
def settleRevokes (b : Block) : Block :=
  (b.sec.revokes.filter (fun r => r.step == 3 && !keyBusy b r.handle)).foldl (fun b r => revokeRemove r.handle b) b

/-- Step 3 of the revocations whose bound has expired ends (R346). -/
def revokeExpiry (b : Block) : Block :=
  let rs := b.sec.revokes.filter (fun r => r.step == 3 && expired (hubNow b) r.dead)
  if rs.isEmpty then b else
  rs.foldl (fun b r => revokeRemove r.handle b) (noteCycle .tdTimeout { b with sec := { b.sec with tdTimeout := true } })

/-! ### KEY_BIND (R113, R339, R340) -/

/-- A range with its tag area overlaps a binding of the context. -/
def bindOverlaps (b : Block) (c base len : Nat) : Bool :=
  b.sec.bindings.any (fun k => k.ctx == c && meets base (len + tagBytes len) k.base (k.len + tagBytes k.len))

/-- The effect of a released KEY_BIND: it completes when every engine has acknowledged. -/
def relBind (o : Op) (b : Block) : Block :=
  match o.pkt.body with
  | .keyBind un h base len =>
    if !domOn b 4 then wake 4 7 b else wake 4 7 <|
    let x : Binding := { ctx := o.ctx, handle := h, base := base, len := len }
    let mine := b.sec.bindings.filter (·.handle == h)
    if (keyOf b h).state == .revoking then failOp o.oid .keyRevoked b
    else if (keyOf b h).state == .empty then failOp o.oid .badState b
    else if len = 0 then releaseDone o.oid b
    else if un then
      if !b.sec.bindings.contains x then failOp o.oid .badState b else
      let b := { b with sec := { b.sec with bindings := b.sec.bindings.erase x } }
      ksAdd .unbind h [base, len] (memInsts b) (.bindOp o.oid) (markReleased o.oid b)
    else if 2 ^ 64 < base + len + tagBytes len then failOp o.oid .xlatFault b
    else if bindOverlaps b o.ctx base len then failOp o.oid .badState b
    else if 8 ≤ mine.length ∨ 4096 ≤ b.sec.bindings.length then failOp o.oid .noResource b
    else
      let b := { b with sec := { b.sec with bindings := b.sec.bindings ++ [x] } }
      ksAdd .bind h [base, len] (memInsts b) (.bindOp o.oid) (markReleased o.oid b)
  | _ => b

/-! ### Acknowledgements of the sideband (R344) -/

/-- What follows when every instance has acknowledged. -/
def ksFinish (j : KsJob) (b : Block) : Block :=
  match j.use with
  | .keyImport i h => importDone i h j.args b
  | .bindOp oid => completeOp oid b
  | .revokeStep h => revokeAck h b
  | .teardown => if j.op == .remove then modKey j.handle (fun _ => keyZero) b else b
  | .link _ _ => b
  | .unlink _ => b

/-- KEY_SIDEBAND_ACK from instance `inst`; one with nothing requested is ignored. -/
def ksAck (inst : Nat) (b : Block) : Block :=
  match b.sec.jobs.find? (fun j => j.issued && j.insts.contains inst) with
  | none => b
  | some j =>
    let left := j.insts.filter (· != inst)
    if left.isEmpty then
      ksPump (ksFinish j (ksPump { b with sec := { b.sec with jobs := b.sec.jobs.erase j } }))
    else
      let jobs := modFirst (fun x => x == j) (fun j => { j with insts := left }) b.sec.jobs
      ksPump { b with sec := { b.sec with jobs := jobs } }

/-- KEY_SIDEBAND_ACK_EXPIRY: an acknowledgement awaited past its bound is fatal. -/
def ksExpiry (inst : Nat) (b : Block) : Block :=
  if b.sec.jobs.any (fun j => j.issued && j.insts.contains inst && expired (hubNow b) j.dead) then report (ftlReport 0x22) b
  else b

/-- KS_DROP: an engine refused a request (R344). -/
def ksDropRow (b : Block) : Block := countLate b

end Sys2Proof.Machine
end

