-- ==== Sys2Proof/Machine/Teardown.lean ====
section
/-! DEFINITION. Contexts: creation, destruction, the teardown sequence, and the tag revoke port (R33, R34, R258, R346 to
R350). -/

namespace Sys2Proof.Machine

/-! ### The tag revoke port (R349, R350) -/

/-- The drain bound (R348). -/
def drainBound (b : Block) : Nat := 2 ^ b.sec.tdLog2

/-- Raise a request on `tr_`. -/
def trRaise (op ast : Nat) (u : TrUse) (b : Block) : Block :=
  let r : TrReq := { op := op, ast := ast, dead := hubNow b + drainBound b, use := u, expired := false }
  emit (.tr op ast) { b with sec := { b.sec with tr := some r } }


/-! ### CTX_CREATE (R34, R68, R421) -/

/-- A context that is not FREE holds the tag. -/
def tagHeld (b : Block) (ast : Nat) : Bool := b.hub.ctxs.any (fun e => e.2.state != .free && e.2.ast == ast)

/-- CTX_CREATE: the tag is enabled at the translation unit before the context becomes ACTIVE. -/
def ctxCreate (i : Nat) (e : List Byte) (b : Block) : Block :=
  let c := ef e 4 0 8
  let ast := ef e 5 0 20
  if nContexts b ≤ c then admBad i .badParam 16 b
  else if (ctxOf b c).state != .free then admBad i .badState 16 b
  else if ast = 0 ∨ tagHeld b ast = true then admBad i .badParam 20 b
  else if ef e 4 8 1 = 1 ∧ b.hub.svcValid = true then admBad i .noResource 17 b
  else needSec i (fun b =>
    if b.sec.tr.isSome then admFinal i .noResource b else trRaise 1 ast (.create c i) b) b

/-- The tag is accepted: the context is ACTIVE, with its chain, sampling key and accounts as R421, R222, R227 and R323 give
them. -/
def ctxCreated (c i : Nat) (b : Block) : Block :=
  match admOf b i with
  | none => b
  | some a =>
    let svc : Bool := ef a.entry 4 8 1 == 1
    let now := hubNow b
    let chain : Chain := { d := sha384 (chainInit b), n := 0 }
    let b := modCtx c (fun _ => { ctxZero with
      state := .active, ast := ef a.entry 5 0 20, service := svc, slot := ef a.entry 4 16 6 }) b
    let b := { b with sec := { b.sec with chains := tset chainZero b.sec.chains c chain,
                                          skey := tset 0 b.sec.skey c 0, folds := tset [] b.sec.folds c [] } }
    let b := if svc then { b with hub := { b.hub with svcValid := true, svcQueue := none, svcCtx := c } } else b
    admFinal i .ok (modSchCtx c (fun r => { schCtxZero with
      limLog2 := swWins b (.ctxOvr c) r.limLog2 schCtxZero.limLog2, lastUpd := now }) b)

/-! ### CTX_DESTROY -/

/-- Global queue numbers of context `c`. -/
def queuesOf (c : Nat) : List Nat := (List.range 6).map (6 * c + ·)

/-- CTX_DESTROY: the context leaves ACTIVE and its queues are DISABLED (R39), no service queue enabled among them (R69); the
teardown waits its turn. PENDING is cleared with the disabling (R44 'a disable'; that it is cleared at once is a DESIGN
CHOICE, log entry 47). -/
def ctxDestroy (i : Nat) (e : List Byte) (b : Block) : Block :=
  let c := ef e 4 0 8
  if nContexts b ≤ c then admBad i .badParam 16 b else
  if (ctxOf b c).state != .active then admBad i .badState 16 b else
  needSec i (fun b =>
    let t : Teardown := { ctx := c, step := 0, adm := i, start := 0, dead := 0, scrubEnd := 0, slots := [],
                          deferred := false }
    let b := modCtx c (fun r => { r with state := .tearingDown }) b
    let b := (queuesOf c).foldl (fun b q => modQueue q (fun r => { r with
      state := .disabled, resetting := true, armed := false, pending := false }) b) b
    let b := if b.hub.svcValid && b.hub.svcCtx == c then { b with hub := { b.hub with svcQueue := none } } else b
    { b with sec := { b.sec with tds := b.sec.tds ++ [t] } }) b

/-! ### The teardown sequence (R347) -/

/-- Change the teardown in progress. -/
def modTd (f : Teardown → Teardown) (b : Block) : Block :=
  match b.sec.tds with
  | [] => b
  | t :: ts => { b with sec := { b.sec with tds := f t :: ts } }

/-- Key slots of context `c`. -/
def slotsOfCtx (b : Block) (c : Nat) : List Nat :=
  (b.sec.slots.filter (fun e => e.2.state != .empty && e.2.ctx == c)).map (·.1)

/-- Commands taken that import a key for context `c` and have no reply yet. -/
def importsOf (b : Block) (c : Nat) : List Nat :=
  (b.adm.cmds.filter (fun a => admOpc a.entry == 0x20 && !a.replied && ef a.entry 5 0 8 == c)).map (·.idx)

/-- Mosaic slots on which context `c` has released operations. -/
def slotsUsed (b : Block) (c : Nat) : List Nat :=
  ((b.dep.ops.filter (fun o => o.ctx == c && (o.stage == .released || o.stage == .aborting))).map (·.slot)).dedup

/-- Step 1: the context's key slots are being revoked, unreplied imports are refused. -/
def tdStep1 (t : Teardown) (b : Block) : Block :=
  let c := t.ctx
  let b := admFinals (importsOf b c) .ctxTornDown b
  (slotsOfCtx b c).foldl (fun b h =>
    ksAdd .suspend h [] (memInsts b) .teardown (modKey h (fun k => { k with state := .revoking }) b)) b

/-- The sequences of a mosaic whose owning context goes move to FREE, with no record; their pages return (R258). -/
def tdSequences (k : Nat) (b : Block) : Block :=
  let is := (b.bat.seqs.filter (fun e => e.2.mslot == k && e.2.state != .free)).map (·.1)
  is.foldl (fun b i =>
    let s := seqnOf b i
    let b := modPool s.pool (givePages (s.dataPg ++ s.mapPg.flatten)) b
    freeSeq i (modSeqn i (fun s => { s with pages := 0, dataPg := [], mapPg := [], depth := 0, mapRoot := 0 }) b)) b

/-- The turn loop of a mosaic whose owning context goes (R258). -/
def tdMosaic (k : Nat) (b : Block) : Block :=
  let l := loopOf b k
  let num := match l.turn with | some t => t.num | none => l.n + 1
  let b := if l.oid.isSome then sendAbort k num Status.ctxTornDown.code none b else b
  let b := abortTurn k (.failed .ctxTornDown) b
  let b := { b with bat := { b.bat with wrq := b.bat.wrq.filter (·.slot != k) } }
  tdSequences k b

/-- Step 2: every operation of the context is aborted. -/
def tdStep2 (t : Teardown) (b : Block) : Block :=
  let c := t.ctx
  let used := slotsUsed b c
  let b := modTd (fun t => { t with slots := used }) b
  let owned := ((b.bat.pools.filter (fun e => e.2.cfgd && e.2.ctx == c)).map (·.2.slot)).dedup
  let b := owned.foldl (fun b k => tdMosaic k b) b
  abortOps ((b.dep.ops.filter (fun o => o.ctx == c)).map (·.oid)) b

/-- Sequencers whose `dd_` port takes a drain fence: those whose domain is ON. -/
def fencePorts (b : Block) : List Nat := (List.range (nSeqrs b)).filter (seqUp b)

/-- Step 3: the drain fence for the context's tag is raised on every port. -/
def tdStep3 (t : Teardown) (b : Block) : Block :=
  let ast := (ctxOf b t.ctx).ast
  let now := hubNow b
  let dd := fencePorts b
  let links := List.range (nPorts b)
  let b := dd.foldl (fun b n => emit (.ddFence n true ast) (modSeqr n (fun s => { s with dfReq := some ast }) b)) b
  let b := links.foldl (fun b p => emit (.ksFence p true ast) b) b
  let b := modTd (fun t => { t with start := now, dead := now + 2 ^ b.sec.tdLog2 }) b
  { b with sec := { b.sec with tdDd := dd.foldl setBit 0, tdLink := links.foldl setBit 0 } }

/-- Every acknowledgement of step 3 has come and no lane holds an operation of the context. -/
def drained (b : Block) (t : Teardown) : Bool :=
  b.sec.tdDd == 0 && b.sec.tdLink == 0 && b.seq.seqrs.all (fun e => (banksOf e.2).all (·.ctx != t.ctx))

/-- Step 3 has ended: fences still high fall, and its length is noted. -/
def tdDrainEnd (t : Teardown) (b : Block) : Block :=
  let ast := (ctxOf b t.ctx).ast
  let b := (bitsOf b.sec.tdDd 64).foldl (fun b n =>
    emit (.ddFence n false ast) (modSeqr n (fun s => { s with dfReq := none }) b)) b
  let b := (bitsOf b.sec.tdLink 72).foldl (fun b p => emit (.ksFence p false ast) b) b
  let n := min (hubNow b - t.start) (2 ^ 32 - 1)
  { b with sec := { b.sec with tdDrain := n } }

/-- Step 4: the revoke waits for the port. -/
def tdRevoke (t : Teardown) (b : Block) : Block :=
  let now := hubNow b
  if b.sec.tr.isSome then b else
  trRaise 0 (ctxOf b t.ctx).ast .teardown (modTd (fun t => { t with dead := now + 2 ^ b.sec.tdLog2 }) b)

/-- What the context still awaits at the host and at the DMA ports after the revoke is late (R348): host answers are counted
as such, descriptors as strays. -/
def tdLate (c : Nat) (b : Block) : Block :=
  let reads := tmap none b.hub.reads (fun _ u => match u with
    | some (.line q _ _) => if ctxOfQueue q == c then some .late else u
    | some (.discard x) => if x == c then some .late else u
    | u => u)
  let writes := tmap none b.hub.writes (fun _ u => match u with
    | some (.record q _) => if ctxOfQueue q == c then some .late else u
    | some (.token x _) | some (.discard x) => if x == c then some .late else u
    | u => u)
  let stray (u : DdUse) : DdUse := if u.ctx == c && !u.owner.byFab then { u with owner := .orphan 0 } else u
  let seqrs := tmap seqrZero b.seq.seqrs (fun _ s => { s with dd := tmap none s.dd (fun _ u => u.map stray) })
  { b with hub := { b.hub with reads := reads, writes := writes }, seq := { b.seq with seqrs := seqrs } }

/-- Step 5: REMOVE for every key slot of the context. -/
def tdStep5 (t : Teardown) (b : Block) : Block :=
  (slotsOfCtx b t.ctx).foldl (fun b h => ksAdd .remove h [] (memInsts b) .teardown b) (tdLate t.ctx b)

/-- Step 6: the scrub. -/
def tdStep6 (t : Teardown) (b : Block) : Block :=
  let c := t.ctx
  let now := hubNow b
  let b := modTd (fun t => { t with scrubEnd := now + 64 }) b
  let b := { b with sec := { b.sec with
    chains := tset chainZero b.sec.chains c chainZero, skey := tset 0 b.sec.skey c 0, folds := tset [] b.sec.folds c [],
    bindings := b.sec.bindings.filter (·.ctx != c) } }
  let b := modSchCtx c (fun r => { schCtxZero with limLog2 := swWins b (.ctxOvr c) r.limLog2 schCtxZero.limLog2 }) b
  let sel := swWins b (.flagSel c) (tget 0 b.dep.flagSel c) 0
  let b := { b with dep := { b.dep with wcdHalt := tset 0 b.dep.wcdHalt c 0, flagSel := tset 0 b.dep.flagSel c sel,
                                        candidate := b.dep.candidate.filter (fun q => ctxOfQueue q != c) } }
  invalidate (· == c) b

/-- The context is FREE: its record, its queues and its flag pages are gone, and the command is answered. -/
def tdFree (t : Teardown) (b : Block) : Block :=
  let c := t.ctx
  let svc := b.hub.svcValid && b.hub.svcCtx == c
  let b := (queuesOf c).foldl (fun b q => modQueue q (fun _ => queueZero) (clearQueue q b)) b
  let b := modCtx c (fun _ => ctxZero) (closePages c b)
  let b := modRing c (fun r => { ringZero with
    base := swWins b (.trBase c) r.base 0, log2 := swWins b (.trCfg c) r.log2 0, en := noted b (.trCfg c) && r.en,
    head := swWins b (.trHead c) r.head 0 }) b
  let b := if svc then { b with hub := { b.hub with svcValid := false, svcQueue := none, svcCtx := 0 } } else b
  let b := { b with sec := { b.sec with tds := b.sec.tds.drop 1, tdCtx := c, folds := tset [] b.sec.folds c [] } }
  admDone t.adm .ok [] b

/-- The step that runs has ended. -/
def tdOver (b : Block) (t : Teardown) : Bool :=
  match t.step with
  | 1 | 5 => !(b.sec.jobs.any (fun j => j.use == KsUse.teardown))
  | 2 => b.seq.seqrs.all (fun e => (banksOf e.2).all (·.ctx != t.ctx))
  | 3 => drained b t
  | 4 => t.dead != 0 && (match b.sec.tr with | some r => r.use != TrUse.teardown | none => true)
  | 6 => decide (t.scrubEnd ≤ hubNow b)
  | _ => true

/-- Enter a step. -/
def tdEnter (n : Nat) (t : Teardown) (b : Block) : Block :=
  let b := modTd (fun t => { t with step := n, dead := 0 }) b
  match n with
  | 1 => tdStep1 t { b with sec := { b.sec with tdCtx := t.ctx } }
  | 2 => tdStep2 t b
  | 3 => tdStep3 t b
  | 4 => tdRevoke t b
  | 5 => tdStep5 t b
  | _ => tdStep6 t b

/-- TEARDOWN_STEP: the next step begins once the one before it has ended; after the sixth the context is FREE. -/
def teardownStep (b : Block) : Block :=
  match b.sec.tds with
  | [] => b
  | t :: _ =>
    if t.step = 4 ∧ t.dead = 0 then tdRevoke t b
    else if !tdOver b t then b
    else if t.step = 3 then tdEnter 4 t (tdDrainEnd t b)
    else if t.step = 6 then tdFree t b
    else tdEnter (t.step + 1) t b

/-- The drain bound of step 3 expires: the ports not acknowledged stay recorded, every mosaic slot on which the context had
released operations is reported and reset, and step 4 follows (R348). -/
def drainExpiry (b : Block) : Block :=
  match b.sec.tds with
  | [] => b
  | t :: _ =>
    if t.step ≠ 3 ∨ expired (hubNow b) t.dead = false ∨ drained b t = true then b else
    let b := noteCycle .tdTimeout { b with sec := { b.sec with tdTimeout := true } }
    let b := t.slots.foldl (fun b k => startPart k 0x1C none none (report (uccReport 0x1C 5 k .stateLost 0) b)) b
    if b.flt.stale then b else tdEnter 4 t (tdDrainEnd t b)

/-- TEARDOWN_DRAIN_EXPIRY: the drain bound of a teardown, or of the revocations that count by it (R346, R348). -/
def teardownDrainExpiry (b : Block) : Block := revokeExpiry (drainExpiry b)

/-- KS_DRAIN_ACK of the link instance of port `p`. -/
def ksDrainAck (p : Nat) (b : Block) : Block :=
  match b.sec.tds with
  | [] => b
  | t :: _ =>
    if t.step ≠ 3 ∨ bitOf b.sec.tdLink p = false then b else
    emit (.ksFence p false (ctxOf b t.ctx).ast) { b with sec := { b.sec with tdLink := clrBit b.sec.tdLink p } }

/-- DD_DRAIN_ACK of sequencer `n`; one while no fence is raised is a stray (R204), and one in a domain that is not ON is
ignored (R205). -/
def ddDrainAck (n : Nat) (b : Block) : Block :=
  if !seqUp b n then b else
  match (seqrOf b n).dfReq with
  | none => ddStray n b
  | some ast =>
    let b := { b with sec := { b.sec with tdDd := clrBit b.sec.tdDd n } }
    emit (.ddFence n false ast) (modSeqr n (fun s => { s with dfReq := none }) b)

/-- TR_ACK: the request falls. An ENABLE that had expired is followed at once by a REVOKE of the same tag (R350). -/
def trAck (b : Block) : Block :=
  match b.sec.tr with
  | none => b
  | some r =>
    let b := { b with sec := { b.sec with tr := none } }
    match r.use with
    | .create c i => ctxCreated c i b
    | .teardown => b
    | .late => if r.op = 1 then trRaise 0 r.ast .late b else b

/-- TR_ACK_EXPIRY: a REVOKE stays raised and its CTX_DESTROY is deferred; an ENABLE stays raised and its CTX_CREATE is
refused (R350). -/
def trAckExpiry (b : Block) : Block :=
  match b.sec.tr with
  | none => b
  | some r =>
    if r.expired = true ∨ expired (hubNow b) r.dead = false then b else
    match r.use with
    | .create _ i =>
      admFinal i .noResource { b with sec := { b.sec with tr := some { r with expired := true, use := .late } } }
    | .teardown =>
      let b := { b with sec := { b.sec with tr := some { r with expired := true } } }
      match b.sec.tds with
      | [] => b
      | t :: _ => admReply t.adm .deferred 0xFFFFFFFF [] false (modTd (fun t => { t with deferred := true }) b)
    | .late => { b with sec := { b.sec with tr := some { r with expired := true } } }

end Sys2Proof.Machine
end

