-- ==== Sys2Proof/Machine/QueueAdmin.lean ====
section
/-! DEFINITION. The admin commands on queues, pools, partitions, the lease and the dump (R36, R67, R68, R237, R368, R374,
R376, R421). -/

namespace Sys2Proof.Machine

/-! ### QUEUE_CONFIG and QUEUE_RESET -/

/-- The range checks of a QUEUE_CONFIG, in word order: DETAIL of the first field out of range. -/
def queueRange (e : List Byte) : Option Nat :=
  let bad (x lo hi : Nat) : Bool := decide (x < lo) || decide (hi < x)
  if bad (ef e 4 8 3) 0 5 then some 17
  else if bad (ef e 5 0 5) 4 16 then some 20
  else if bad (ef e 5 8 5) 4 16 then some 21
  else if bad (ef e 5 16 8) 1 128 then some 22
  else none

/-- The checks of a QUEUE_CONFIG in order, for global queue `q`: status and DETAIL. -/
def queueCheck (b : Block) (e : List Byte) (q : Nat) : Option (Status × Nat) :=
  let c := ef e 4 0 8
  let en := ef e 4 16 1 = 1
  if nContexts b ≤ c then some (.badParam, 16)
  else if (ctxOf b c).state != .active then some (.badState, 16)
  else match queueRange e with
  | some d => some (.badParam, d)
  | none =>
    if dword e 6 % 4096 ≠ 0 then some (.badAlign, 24)
    else if dword e 8 % 4096 ≠ 0 then some (.badAlign, 32)
    else if en ∧ (queueOf b q).state ≠ .disabled then some (.badState, 18)
    else if ef e 4 17 1 = 0 ∧ b.pwr.g1 = false then some (.notPermitted, 18)
    else if en ∧ (ctxOf b c).service = true ∧ b.hub.svcQueue.isSome = true ∧ b.hub.svcQueue ≠ some (q % 6) then
      some (.notPermitted, 18)
    else none

/-- What a QUEUE_CONFIG writes into the queue's record. -/
def queueFields (e : List Byte) (r : QueueRec) : QueueRec :=
  { r with gen2 := ef e 4 17 1 == 1, ringLog2 := ef e 5 0 5, cqLog2 := ef e 5 8 5, pfLines := ef e 5 16 8,
           ringBase := dword e 6, cqBase := dword e 8 }

/-- QUEUE_CONFIG: ENABLE = 1 puts the queue in IDLE with PENDING clear; ENABLE = 0 begins steps 1 to 6 of R67. -/
def queueConfig (i : Nat) (e : List Byte) (b : Block) : Block :=
  let q := 6 * ef e 4 0 8 + ef e 4 8 3
  match queueCheck b e q with
  | some (st, d) => admBad i st d b
  | none =>
    if ef e 4 16 1 = 1 then
      let b := modQueue q (fun r => queueFields e { r with state := .idle, pending := false }) b
      let b := if (ctxOf b (q / 6)).service then { b with hub := { b.hub with svcQueue := some (q % 6) } } else b
      admFinal i .ok b
    else beginReset q b

/-- QUEUE_RESET: steps 1 and 2 of R67 begin. -/
def queueReset (i : Nat) (e : List Byte) (b : Block) : Block :=
  let c := ef e 4 0 8
  let q := 6 * c + ef e 4 8 3
  if nContexts b ≤ c then admBad i .badParam 16 b
  else if (ctxOf b c).state != .active then admBad i .badState 16 b
  else if 5 < ef e 4 8 3 then admBad i .badParam 17 b
  else if (queueOf b q).state == .disabled then admBad i .badState 17 b
  else beginReset q b

/-- A command that waits for a queue's work to end goes on once it has: steps 3 to 8 of R67, or the queue is DISABLED. -/
def resetOne (a : AdmCmd) (b : Block) : Block :=
  let e := a.entry
  let c := ef e 4 0 8
  let q := 6 * c + ef e 4 8 3
  if !a.started || !(queueOf b q).resetting || (ctxOf b c).state != .active || !resetOver b q then b else
  if admOpc e = 0x05 then admFinal a.idx .ok (finishReset q b)
  else if admOpc e = 0x04 then
    let b := modQueue q (fun r => queueFields e { r with state := .disabled }) (finishReset q b)
    let b := if b.hub.svcQueue = some (q % 6) ∧ (ctxOf b c).service = true then
        { b with hub := { b.hub with svcQueue := none } } else b
    admFinal a.idx .ok b
  else b

/-- Every such command, after a command of the block. -/
def settleResets (b : Block) : Block := b.adm.cmds.foldl (fun b a => resetOne a b) b

/-! ### POOL_CONFIG (R234, R237, R421) -/

/-- The checks of a POOL_CONFIG in order. -/
def poolCheck (b : Block) (e : List Byte) : Option (Status × Nat) :=
  let k := ef e 4 8 6
  let p := ef e 4 0 6
  let c := ef e 4 16 8
  let lg := ef e 5 0 5
  let tok := ef e 6 0 17
  let pages := word e 7
  let base := dword e 8
  if nContexts b ≤ c then some (.badParam, 18)
  else if lg < 12 ∨ 24 < lg then some (.badParam, 20)
  else if tok = 0 ∨ 65536 < tok then some (.badParam, 24)
  else if pages = 0 then some (.badParam, 28)
  else if base % 2 ^ lg ≠ 0 then some (.badAlign, 32)
  else if 2 ^ 64 < base + metaBytes (nSequences b) pages lg + pages * 2 ^ lg then some (.badExtent, 32)
  else if (mosOf b k).state ≠ .ready then some (.badState, 17)
  else if poolFor b k = true ∧ poolOwner b k ≠ some c then some (.badState, 18)
  else if ef e 4 24 1 = 0 ∧ (poolOf b p).cfgd = true ∧ (poolOf b p).failed = false then some (.badState, 16)
  else none

/-- RESULT of a POOL_CONFIG: META_BYTES (R423). -/
def poolResult (b : Block) (e : List Byte) : List Nat :=
  words64 (metaBytes (nSequences b) (word e 7) (ef e 5 0 5))

/-- Sequences that name a pool that is configured again hold none of its pages. -/
def forgetPages (p : Nat) (b : Block) : Block :=
  let f (_ : Nat) (s : Seqn) : Seqn :=
    if s.pool == p then { s with pages := 0, dataPg := [], mapPg := [], depth := 0, mapRoot := 0 } else s
  { b with bat := { b.bat with seqs := tmap seqnZero b.bat.seqs f } }

/-- POOL_CONFIG: REMOVE marks the pool FAILED; otherwise the pool is recorded, and on the leader its directory and free
stack are written before the reply. -/
def poolConfig (i : Nat) (e : List Byte) (b : Block) : Block :=
  match poolCheck b e with
  | some (st, d) => admBad i st d b
  | none =>
    let p := ef e 4 0 6
    let res := poolResult b e
    if ef e 4 24 1 = 1 then
      admReply i .ok 0xFFFFFFFF res true (modPool p (fun r => { r with removed := r.cfgd }) (failPool p b))
    else
      let k := ef e 4 8 6
      let pages := word e 7
      let lead := leads b k
      let pool : Pool :=
        { poolZero with
          cfgd := true, slot := k, ctx := ef e 4 16 8, base := dword e 8, pageLog2 := ef e 5 0 5,
          pageTok := ef e 6 0 17, pages := pages, cached := min 128 pages, initEnd := if lead then 8 * nSequences b + ceilDiv pages 2 else 0,
          adm := if lead then some i else none }
      let b := loopEvent k (modPool p (fun _ => pool) (forgetPages p b))
      if lead then batPump 64 b else admReply i .ok 0xFFFFFFFF res true b

/-- A pool's directory and free stack are written, or it failed meanwhile: its POOL_CONFIG is answered. -/
def poolDone (p : Nat) (b : Block) : Block :=
  let r := poolOf b p
  match r.adm.bind (admOf b) with
  | none => b
  | some a =>
    if r.failed then admBad a.idx .xlatFault 32 (modPool p (fun r => { r with adm := none }) b)
    else if r.initPos = r.initEnd ∧ r.initOut = 0 then
      admReply a.idx .ok 0xFFFFFFFF (poolResult b a.entry) true
        (loopEvent r.slot (modPool p (fun r => { r with adm := none }) b))
    else b

/-- Every pool being configured. -/
def settlePools (b : Block) : Block := (b.bat.pools.map (·.1)).foldl (fun b p => poolDone p b) b

/-! ### PARTITION_RESET and LEASE_CONFIG -/

/-- PARTITION_RESET (R368). -/
def partitionReset (i : Nat) (e : List Byte) (b : Block) : Block :=
  let k := ef e 4 0 6
  let m := (mosOf b k).state
  if m == .free || m == .releasing then admBad i .badState 16 b else startPart k 0 none (some i) b

/-- The lease counter starts again with its period (R374). -/
def leaseStart (b : Block) : Block :=
  let d := if b.flt.leaseOff then none else some (refNow b + 2 ^ b.flt.leaseLog2)
  { b with flt := { b.flt with leaseDead := d } }

/-- LEASE_CONFIG. -/
def leaseConfig (i : Nat) (e : List Byte) (b : Block) : Block :=
  let off := ef e 4 8 1 = 1
  let n := ef e 4 0 5
  if ¬off ∧ (n < 20 ∨ 31 < n) then admBad i .badParam 16 b else
  admFinal i .ok (leaseStart { b with flt := { b.flt with
    leaseOff := decide off, leaseLog2 := if off then b.flt.leaseLog2 else n } })

/-- RENEW (R374): the counter restarts, and every queue that the expiry stopped goes on. -/
def leaseRenew (b : Block) : Block :=
  let qs := tmap queueZero b.hub.queues (fun _ r => { r with leaseStop := false })
  let b := { b with hub := { b.hub with leaseExpired := false, queues := qs } }
  let b := leaseStart b
  (b.bat.loops.map (·.1)).foldl (fun b k => loopEvent k (modLoop k (fun l => { l with leaseHeld := false }) b)) b

/-- The lease has expired (R374): fetching and releases stop, batched sequences are parked. -/
def leaseExpired (b : Block) : Block :=
  let qs := tmap queueZero b.hub.queues (fun _ r => { r with leaseStop := true })
  let b := { b with hub := { b.hub with leaseExpired := true, queues := qs } }
  let b := { b with flt := { b.flt with leaseDead := none, expiries := satAdd 16 b.flt.expiries 1 } }
  let b := report (ceReport 0x1F) b
  (b.bat.loops.map (·.1)).foldl (fun b k => loopEvent k b) b

/-- HOST_LEASE_EXPIRY: the counter has run down (R374). -/
def leaseExpiry (b : Block) : Block :=
  if due (refNow b) b.flt.leaseDead then leaseExpired b else b

end Sys2Proof.Machine
end

