-- ==== Sys2Proof/Machine/Power.lean ====
section
/-! DEFINITION. PWR: power domains, the CLK_SEQ divider and the DVFS sequencer, the power envelope and its governor, the
emergency response (R380 to R393). -/

namespace Sys2Proof.Machine

/-! ### Refusal of entry (R384) -/

/-- The domain holds or is gaining its supply; a domain on its way to ON, or from it, counts as ON (DEDUCED, log entry 24). -/
def domBusy (b : Block) (d : Nat) : Bool := !((domOf b d).st == .ret || (domOf b d).st == .off)

/-- Domains of the configuration that can make PD_HUB's entry DEPENDENT. -/
def hubDependents (b : Block) : List Nat := [2, 4] ++ (List.range (nSeqrs b / 8)).map (5 + ·)

/-- An operation is not over. -/
def opsLeft (b : Block) : Bool := b.dep.ops.any Op.live

/-- Refuser of PD_HUB: `i` is the number of the PD_SET that asks, if one does. -/
def hubRefuser (b : Block) (off : Bool) (i : Option Nat) : Nat :=
  if (hubDependents b).any (domBusy b) then 1
  else if b.hub.queues.any (fun e => e.2.state == .active) || opsLeft b then 2
  else if b.adm.cmds.any (fun c => some c.idx != i) then 3
  else if off && b.hub.ctxs.any (fun e => e.2.state != .free) then 4
  else if off && b.fab.slots.any (fun e => e.2.state != .free) then 5
  else 0

/-- Refuser of PD_BAT. -/
def batRefuser (b : Block) (off : Bool) : Nat :=
  if b.bat.loops.any (fun e => e.2.oid.isSome || e.2.turn.isSome) then 6
  else if off && (b.bat.seqs.any (fun e => e.2.state != .free) || b.bat.pools.any (fun e => e.2.cfgd)) then 7
  else 0

/-- An epoch change is in progress, as far as this block sees it. -/
def epochBusy (b : Block) : Bool :=
  b.fab.change.isSome || !b.fab.waiting.isEmpty || b.fab.swAt.isSome
  || b.fab.epochs.any (fun e => e.2.state != .free && e.2.state != .current)

/-- Refuser of PD_FAB. -/
def fabRefuser (b : Block) (off : Bool) : Nat :=
  if b.fab.phase < 8 || epochBusy b || b.fab.mig.isSome then 8
  else if off && b.fab.slots.any (fun e => e.2.state != .free) then 5
  else 0

/-- An SPDM request, key operation or teardown is in progress, or a fold is pending; a request on `tr_` counts with the
teardowns (DEDUCED, log entry 24). -/
def secBusy (b : Block) : Bool :=
  b.adm.cmds.any (fun c => c.started && (admOpc c.entry == 0x22 || admOpc c.entry == 0x20 || admOpc c.entry == 0x21))
  || !b.sec.jobs.isEmpty || !b.sec.revokes.isEmpty || !b.sec.tds.isEmpty || b.sec.tr.isSome
  || b.sec.folds.any (fun e => !e.2.isEmpty)

/-- Refuser of PD_SEC. -/
def secRefuser (b : Block) (off : Bool) : Nat :=
  if secBusy b then 9
  else if off && b.sec.slots.any (fun e => e.2.state != .empty) then 0xA
  else if off && !b.sec.sessions.isEmpty then 0xB
  else if off && b.hub.ctxs.any (fun e => e.2.state != .free) then 4
  else 0

/-- A sequencer has a pass running, a bank holding a launch, a lane operation or a descriptor outstanding. -/
def seqrBusy (s : Seqr) : Bool :=
  s.pass.isSome || !(banksOf s).isEmpty || s.shadow.isSome || !s.dd.isEmpty
  || s.lanes.any (fun e => !e.2.buf.isEmpty || !e.2.out.isEmpty || e.2.abReq)

/-- Code of the first condition of R384 that refuses entry of domain `d` to RET or OFF; 0 where none does. -/
def refuser (b : Block) (d : Nat) (off : Bool) (i : Option Nat) : Nat :=
  match d with
  | 0 => 0
  | 1 => hubRefuser b off i
  | 2 => batRefuser b off
  | 3 => fabRefuser b off
  | 4 => secRefuser b off
  | _ => if (List.range 8).any (fun j => seqrBusy (seqrOf b (8 * (d - 5) + j))) then 0xC else 0

/-! ### Entry and loss of contents (R382) -/

/-- What of FLT lies in PD_HUB is lost; the AON part stays (R17, R377). -/
def fltHubOff (f : Flt) : Flt :=
  { fltReset with
    stale := f.stale, reason := f.reason, src := f.src, entry := f.entry, stalemates := f.stalemates,
    fatalPin := f.fatalPin, unlock := f.unlock, stamps := f.stamps, logRecs := f.logRecs, written := f.written,
    dump := f.dump, dumpValid := f.dumpValid, dumpLocked := f.dumpLocked, dumpReason := f.dumpReason,
    captures := f.captures, capDue := f.capDue, freshDue := f.freshDue, warm := f.warm, leaseLog2 := f.leaseLog2,
    leaseOff := f.leaseOff, leaseDead := f.leaseDead, expiries := f.expiries, tapSel := f.tapSel,
    clockLost := f.clockLost, partResets := f.partResets }

/-- FAB in OFF: its registers read their reset values, the FRU's and the modules' among them (R433); the levels of `fm_port_up`,
the tiebreak that SEC gives and the messages kept in PD_AON stay. -/
def fabOff (f : Fab) : Fab :=
  let keep (_ : Nat) (p : Port) : Port := { portZero with up := p.up }
  { fabReset with tie := f.tie, ports := tmap portZero f.ports keep, heldRx := f.heldRx, heldBeats := f.heldBeats }

/-- SCH as it starts now: its windows and refill edges are counted from here (R322, R324). -/
def schFresh (b : Block) : Sch := { schReset with powDue := refNow b + 2500000, edges := b.time.seq / 1024 }

/-- Everything in domain `d` is lost. -/
def domLose (d : Nat) (b : Block) : Block :=
  match d with
  | 0 => b
  | 1 => { b with
      hub := { hubReset with blkUp := b.hub.blkUp, held := b.hub.held }, dep := depReset,
      dsp := dspReset, sch := schFresh b, adm := admReset, flt := fltHubOff b.flt,
      seq := { b.seq with hintEn := true } }
  | 2 => { b with bat := batReset }
  | 3 => { b with fab := fabOff b.fab }
  | 4 => emit (.ksInvalid true) { b with sec := { secReset with confBlk := b.sec.confBlk } }
  | _ => { b with seq := { b.seq with seqrs := b.seq.seqrs.filter (fun e => e.1 / 8 ≠ d - 5) } }

/-- Cycle 0 of the entry of domain `d` to RET or OFF, for the PD_SET of ring index `i` if one asks (R382). From here on the
domain accepts no new work. -/
def pdEnter (d : Nat) (off : Bool) (i : Option Nat) (b : Block) : Block :=
  let now := refNow b
  modDom d (fun m => { m with
    st := .entering, fromOff := false, idleAt := none, entAt := now, entOff := off, entAdm := i, entStep := 0, latched := none }) b

/-- A refused entry is recorded. -/
def pdRefuse (d code : Nat) (b : Block) : Block :=
  modDom d (fun m => { m with refused := satAdd 16 m.refused 1, refuser := code }) b

/-- PD_SET of domain `d`, target RET or OFF, on a domain that is ON. -/
def pdLeave (i d : Nat) (off : Bool) (b : Block) : Block :=
  match refuser b d off (some i) with
  | 0 => pdEnter d off (some i) b
  | c => admBad i .badState 16 (pdRefuse d c b)

/-- PD_SET (R382 to R384). -/
def pdSet (i : Nat) (e : List Byte) (b : Block) : Block :=
  let d := ef e 4 0 4
  let t := ef e 4 8 2
  if d = 0 ∨ 5 + nSeqrs b / 8 ≤ d then admBad i .badParam 16 b
  else if t = 3 then admBad i .badParam 17 b
  else match t, (domOf b d).st with
    | 2, .on => admFinal i .ok b
    | 2, .leaving => modDom d (fun m => { m with adms := m.adms ++ [i] }) b
    | 2, _ =>
      let b := wake d 1 b
      if (domOf b d).st == .on then admFinal i .ok b else modDom d (fun m => { m with adms := m.adms ++ [i] }) b
    | _, .leaving | _, .entering => modAdm i (fun c => { c with started := false }) b
    | 1, .ret => admFinal i .ok b
    | 1, .off => admFinal i .ok (emit (.pdRet d true) (modDom d (fun m => { m with st := .ret, fromOff := true }) b))
    | 1, .on => pdLeave i d false b
    | _, .off => admFinal i .ok b
    | _, .ret => (match refuser b d true (some i) with
        | 0 => admFinal i .ok (domLose d (emit (.pdRet d false) (modDom d (fun m => { m with st := .off, fromOff := false }) b)))
        | c => admBad i .badState 16 (pdRefuse d c b))
    | _, .on => pdLeave i d true b

/-- DOMAIN_IDLE_EXPIRY: the idle count of domain `d` has reached IDLE (R385). -/
def idleExpiry (d : Nat) (b : Block) : Block :=
  let m := domOf b d
  let full : Bool := match m.idleAt with | some t => expired (refNow b) (t + m.idle) | none => false
  if d = 0 ∨ m.st != .on ∨ !m.idleEn ∨ !full then b else
  match refuser b d m.idleOff none with
  | 0 => pdEnter d m.idleOff none b
  | c => pdRefuse d c b

/-- The idle count of domain `d` goes on, or restarts (R385). -/
def idleCount (d : Nat) (b : Block) : Block :=
  let m := domOf b d
  if !m.idleEn || m.st != .on || refuser b d m.idleOff none != 0 then
    (if m.idleAt.isSome then modDom d (fun m => { m with idleAt := none }) b else b)
  else if m.idleAt.isSome then b
  else
    let now := refNow b
    modDom d (fun m => { m with idleAt := some now }) b

/-- What domain `d` does as it starts after OFF (R387). -/
def domStart (d : Nat) (b : Block) : Block :=
  match d with
  | 1 => { b with sch := { b.sch with powDue := refNow b + 2500000, edges := b.time.seq / 1024 } }
  | 3 => restartFresh false b
  | 4 => acceptChain (deriveIdk b)
  | _ => b

/-- Retention and clamps of domain `d` are released as its exit ends (R382): the steps of entry in reverse. -/
def pdUnclamp (d : Nat) (b : Block) : Block := emit (.pdIso d false) (emit (.pdRet d false) b)

/-- PGOOD_RISE of a domain on its way to ON: it is ON, starts afresh where it left OFF, and the PD_SETs that await it are
answered. The messages kept for PD_FAB are taken (R387). In stalemate, or without CLK_ROOT, nothing but the supply follows:
messages received are discarded, keys stay invalid (R371, R372). -/
def pdOn (d : Nat) (b : Block) : Block :=
  let m := domOf b d
  if m.st != .leaving then b else
  let b := pdUnclamp d b
  let b := modDom d (fun m => { m with st := .on, fromOff := false, adms := [], idleAt := none }) b
  if b.flt.stale || b.flt.clockLost then
    (if d = 3 then { b with fab := { b.fab with heldRx := [], heldBeats := 0 } } else b)
  else
  let b := if m.fromOff then domStart d b else b
  let b := if d = 3 then replayRx b else b
  admFinals m.adms .ok b

/-! ### The DVFS sequencer (R388, R389) -/

/-- Change the DVFS record. -/
def modDvfs (f : Dvfs → Dvfs) (b : Block) : Block := { b with pwr := { b.pwr with dvfs := f b.pwr.dvfs } }

/-- The operating-point voltage of step `k`: the image's value clipped to the fused limits; VSAFE_MV with no image
(R405). -/
def oppVolt (b : Block) (k : Nat) : Nat :=
  match b.pwr.img.active with
  | some i => max b.fuses.vminMv.toNat (min b.fuses.vmaxMv.toNat (i.volts.getD k 0))
  | none => b.fuses.vsafeMv.toNat

/-- The divider is driven to step `k`; CLK_SEQ follows at the next edge that the division in force and the new one have in
common (R21, R380). -/
def setDiv (k : Nat) (b : Block) : Block :=
  let t := b.time
  let was := t.oldStep.getD t.divStep
  emit (.divStep k) { b with time := { t with divStep := k, oldStep := if was = k then none else some was } }

/-- An acknowledgement of the divider is due within 64 CLK_REF cycles. -/
def ackDead (b : Block) : Option Nat := some (refNow b + 64)

/-- A TargetRailVoltage frame: the regulator is told voltage `v`. -/
def avsWrite (v : Nat) (b : Block) : Block := emit (.avs v) (modDvfs (fun d => { d with wrote := v }) b)

/-- The sequencer begins to move to step `t` with voltage `v`, for the DVFS_SET of ring index `adm` if one asks. -/
def startSeq (t v : Nat) (adm : Option Nat) (b : Block) : Block :=
  let s := b.time.divStep
  let was := b.pwr.dvfs.wrote
  let dead := ackDead b
  let up := decide (t < s) || (t == s && decide (was < v))
  let phase : DvfsPhase := if up then .upWrite else if t = s then .downWrite else .downDiv
  let b := modDvfs (fun d => { d with
    phase := phase, seqStep := t, seqVolt := v, prevVolt := was, dead := if phase == .downDiv then dead else none,
    adm := adm, gov := 0 }) b
  if phase == .downDiv then setDiv t b else avsWrite v b

/-- Result words of a DVFS_SET (R423). -/
def dvfsResult (b : Block) : List Nat := [at_ b.time.divStep 16 + b.pwr.dvfs.volt]

/-- The running sequence ends: its command and those that waited for the end of an emergency get their outcome. -/
def dvfsEnd (ok : Bool) (b : Block) : Block :=
  let d := b.pwr.dvfs
  let st : Status := if ok then .ok else .badState
  let b := modDvfs (fun d => { d with
    phase := .idle, dead := none, adm := none, defers := [], fails := if ok then d.fails else satAdd 16 d.fails 1 }) b
  (d.adm.toList ++ d.defers).foldl (fun b i => admDone i st (dvfsResult b) b) b

/-- A sequence of R389 runs. -/
def Dvfs.running (d : Dvfs) : Bool := d.phase != .idle && d.phase != .emergDiv && d.phase != .emergWrite

/-- AVS_TARGET_WRITE_DONE: the write frame has ended; the confirmation is awaited from here. -/
def avsWriteDone (b : Block) : Block :=
  let dead := some (refNow b + b.pwr.dvfs.settle)
  match b.pwr.dvfs.phase with
  | .upWrite => modDvfs (fun d => { d with phase := .upPoll, dead := dead }) b
  | .downWrite => modDvfs (fun d => { d with phase := .downPoll, dead := dead }) b
  | .emergWrite => modDvfs (fun d => { d with phase := .idle, dead := none }) b
  | _ => b

/-- AVS_READVOUT: a poll reads `mv`. -/
def avsReadvout (mv : Nat) (b : Block) : Block :=
  let d := b.pwr.dvfs
  let v := d.seqVolt
  match d.phase with
  | .upPoll =>
    if mv + 10 < v then b else
    let b := modDvfs (fun d => { d with volt := v }) b
    if b.time.divStep = d.seqStep then dvfsEnd true b else
    let dead := ackDead b
    setDiv d.seqStep (modDvfs (fun d => { d with phase := .upDiv, dead := dead }) b)
  | .downPoll =>
    if mv + 10 < v ∨ v + 10 < mv then b else dvfsEnd true (modDvfs (fun d => { d with volt := v }) b)
  | _ => b

/-- DIV_ACK: the followers run at the step driven (R389, R392). -/
def divAck (b : Block) : Block :=
  let d := b.pwr.dvfs
  match d.phase with
  | .upDiv => dvfsEnd true b
  | .downDiv => avsWrite d.seqVolt (modDvfs (fun d => { d with phase := .downWrite, dead := none }) b)
  | .emergDiv => avsWrite b.fuses.vsafeMv.toNat (modDvfs (fun d => { d with phase := .emergWrite, dead := none }) b)
  | _ => b

/-- DVFS_SETTLE_EXPIRY: a confirmation did not come (R389). -/
def settleExpiry (b : Block) : Block :=
  let d := b.pwr.dvfs
  if !due (refNow b) d.dead then b else
  match d.phase with
  | .upPoll => dvfsEnd false (avsWrite d.prevVolt b)
  | .downPoll => dvfsEnd false b
  | _ => b

/-- DIV_ACK_EXPIRY: an acknowledgement did not come (R389). In an emergency VSAFE_MV is then not written (DEDUCED, log
entry 25). -/
def divAckExpiry (b : Block) : Block :=
  let d := b.pwr.dvfs
  if !due (refNow b) d.dead then b else
  match d.phase with
  | .upDiv | .downDiv => dvfsEnd false b
  | .emergDiv => modDvfs (fun d => { d with phase := .idle, dead := none, fails := satAdd 16 d.fails 1 }) b
  | _ => b

/-- Count a refused DVFS_SET. -/
def dvfsRefuse (b : Block) : Block := modDvfs (fun d => { d with refused := satAdd 16 d.refused 1 }) b

/-- DVFS_SET (R388, R393). -/
def dvfsSet (i : Nat) (e : List Byte) (b : Block) : Block :=
  let t := ef e 4 0 3
  let n := ef e 5 0 12
  let v := if n = 0 then oppVolt b t else n
  let d := b.pwr.dvfs
  if 4 < t ∨ t < b.fuses.stepMin.toNat then admBad i .badParam 16 (dvfsRefuse b)
  else if v < b.fuses.vminMv.toNat ∨ b.fuses.vmaxMv.toNat < v ∨ v < oppVolt b t then admBad i .badParam 20 (dvfsRefuse b)
  else if b.pwr.emerg.active then
    admReply i .deferredEmergency 0xFFFFFFFF [] false (modDvfs (fun d => { d with
      target := t, tVolt := n, deferred := true, governed := false, defers := d.defers ++ [i] }) b)
  else if t < b.time.divStep ∧ v < d.wrote then admBad i .badParam 20 (dvfsRefuse b)
  else if d.running then admFinal i .badState (dvfsRefuse b)
  else startSeq t v (some i) (modDvfs (fun d => { d with
    target := t, tVolt := n, governed := false, lows := 0, highs := 0 }) b)

/-! ### The envelope and the governor (R390, R391) -/

/-- The effective ceiling in watts. -/
def ceilingW (b : Block) : Nat :=
  let c := min b.pwr.ceiling b.fuses.pmaxW.toNat
  if b.fab.fru.valid then min c b.fab.fru.power else c

/-- Voltage of a step the governor or an emergency's end moves to: the one DVFS_SET named for its target, else the
operating point's. -/
def stepVolt (b : Block) (t : Nat) : Nat :=
  let d := b.pwr.dvfs
  if t = d.target ∧ d.tVolt ≠ 0 then d.tVolt else oppVolt b t

/-- The governor moves one step: 1 down, 2 up; it waits for a running sequence. -/
def govern (w : Nat) (b : Block) : Block :=
  let s := b.time.divStep
  if b.pwr.emerg.active then b
  else if b.pwr.dvfs.phase != .idle then modDvfs (fun d => { d with gov := w }) b
  else if w = 1 then
    (if 4 ≤ s then b else
      startSeq (s + 1) (stepVolt b (s + 1)) none (modDvfs (fun d => { d with governed := true }) b))
  else if s ≤ b.pwr.dvfs.target then modDvfs (fun d => { d with governed := false }) b
  else
    let t := s - 1
    startSeq t (stepVolt b t) none b

/-- A power sample against the ceiling. -/
def governSample (mw : Nat) (b : Block) : Block :=
  let c := 1000 * ceilingW b
  let s := b.time.divStep
  if c < mw then
    if s < 4 then govern 1 (modDvfs (fun d => { d with lows := 0, highs := 0 }) b)
    else
      let h := min 16 (b.pwr.dvfs.highs + 1)
      modDvfs (fun d => { d with lows := 0, highs := h, hold := d.hold || h == 16 }) b
  else
    let b := modDvfs (fun d => { d with highs := 0, hold := false }) b
    if 16 * mw ≤ 15 * c then
      let n := b.pwr.dvfs.lows + 1
      if n < 16 then modDvfs (fun d => { d with lows := n }) b
      else
        let b := modDvfs (fun d => { d with lows := 0 }) b
        if b.pwr.dvfs.target < s then govern 2 b else b
    else modDvfs (fun d => { d with lows := 0 }) b

/-- MAXPWR of the modules present, in milliwatts (R299). -/
def modulesMw (b : Block) : Nat := (b.fab.ports.map (fun e => if e.2.present then 250 * e.2.maxpwr else 0)).sum

/-- POWER_SAMPLE: READ_PIN of the image's rails in milliwatts, each 1 ms (R391). SCH gathers the samples of its window while
PD_HUB is ON (R324). -/
def powerSample (rails : List Nat) (b : Block) : Block :=
  match b.pwr.img.active with
  | none => b
  | some im =>
    if b.pwr.step < 7 ∨ refNow b < b.pwr.sampleDue then b else
    let mw := (rails.take im.rails.length).sum + modulesMw b
    let b := { b with pwr := { b.pwr with
      samples := (b.pwr.samples + 1) % 2 ^ 32, milliwatts := mw % 2 ^ 32, sampleDue := b.pwr.sampleDue + 25000 } }
    let b := if domOn b 1 then { b with sch := { b.sch with powSum := b.sch.powSum + mw, powN := b.sch.powN + 1 } } else b
    governSample mw b

/-! ### Emergency (R392, R393) -/

/-- Change the emergency record. -/
def modEmerg (f : Emerg → Emerg) (b : Block) : Block := { b with pwr := { b.pwr with emerg := f b.pwr.emerg } }

/-- The level of an emergency input is noted. -/
def setPin (p : EmergPin) (low : Bool) (b : Block) : Block :=
  modEmerg (fun e => match p with
    | .thermTrip => { e with trip := low }
    | .alert => { e with alert := low }) b

/-- The sequence that an emergency interrupts replies DEFERRED_EMERGENCY. -/
def interruptSeq (b : Block) : Block :=
  let d := b.pwr.dvfs
  let b := modDvfs (fun d => { d with
    deferred := d.deferred || d.adm.isSome, defers := d.defers ++ d.adm.toList, adm := none, phase := .idle, dead := none,
    gov := 0, governed := false }) b
  match d.adm with
  | some i => admReply i .deferredEmergency 0xFFFFFFFF [] false b
  | none => b

/-- EMERGENCY_ENTRY: an input has fallen. The first of them starts the emergency; an acknowledgement of DIV12 that an
interrupted sequence awaits is awaited before the voltage changes (R21). -/
def emergencyEntry (p : EmergPin) (b : Block) : Block :=
  let was := b.pwr.emerg.active
  let b := modEmerg (fun e => { e with active := true, clearDead := none }) (setPin p true b)
  if was then b else
  let asked := b.pwr.dvfs.phase == .downDiv
  let b := modEmerg (fun e => { e with entries := satAdd 16 e.entries 1 }) (interruptSeq b)
  let dead := ackDead b
  let b := if b.time.divStep = 4 ∧ asked = true then modDvfs (fun d => { d with phase := .emergDiv, dead := dead }) b
    else if b.time.divStep = 4 then
      avsWrite b.fuses.vsafeMv.toNat (modDvfs (fun d => { d with phase := .emergWrite, dead := none }) b)
    else setDiv 4 (modDvfs (fun d => { d with phase := .emergDiv, dead := dead }) b)
  report (ceReport (match p with | .thermTrip => 0x20 | .alert => 0x21)) b

/-- EMERGENCY_INPUT_RISE: with both inputs high, CLEAR_HOLD begins to run. -/
def emergencyRise (p : EmergPin) (b : Block) : Block :=
  let b := setPin p false b
  let e := b.pwr.emerg
  if !e.active || e.trip || e.alert then b else
  let dead := refNow b + e.clearHold
  modEmerg (fun e => { e with clearDead := some dead }) b

/-- EMERGENCY_CLEAR_EXPIRY: the launch hold is released and the sequencer returns to the latest target. -/
def emergencyClear (b : Block) : Block :=
  let e := b.pwr.emerg
  if !e.active || e.trip || e.alert || !due (refNow b) e.clearDead then b else
  let b := modEmerg (fun e => { e with active := false, clearDead := none }) b
  let b := modDvfs (fun d => { d with deferred := false, governed := false, lows := 0, highs := 0 }) b
  let t := b.pwr.dvfs.target
  startSeq t (stepVolt b t) none b

/-! ### After each command -/

/-- The governor's waiting step and the idle counts, after a command. -/
def settlePower (b : Block) : Block :=
  let b := if b.pwr.dvfs.gov ≠ 0 ∧ b.pwr.dvfs.phase = .idle then
      govern b.pwr.dvfs.gov (modDvfs (fun d => { d with gov := 0 }) b)
    else b
  (b.pwr.doms.map (·.1)).foldl (fun b d => idleCount d b) b

end Sys2Proof.Machine
end

