-- ==== Sys2Proof/Machine/Image.lean ====
section
/-! DEFINITION. The image in flash: boot records, ROM checks, staging and activation (R396 to R403). -/

namespace Sys2Proof.Machine

/-! ### Boot records (R396) -/

/-- Eight steps of the IEEE CRC-32 on the low byte of `c`. -/
def crcBits : Nat → Nat → Nat
  | 0, c => c
  | n + 1, c => crcBits n (if c % 2 = 1 then Nat.xor (c / 2) 0xEDB88320 else c / 2)

/-- The IEEE CRC-32 of a byte string. -/
def crc32 (l : List Byte) : Nat :=
  Nat.xor (l.foldl (fun c x => crcBits 8 (Nat.xor c x.toNat)) 0xFFFFFFFF) 0xFFFFFFFF

/-- The four words of a boot record. -/
def bootRecord (seq bank : Nat) : List Byte :=
  let w := leBytes 0x514D4252 4 ++ leBytes seq 4 ++ leBytes bank 4
  w ++ leBytes (crc32 w) 4

/-- SEQ and BANK of a valid boot record. -/
def readRecord (l : List Byte) : Option (Nat × Nat) :=
  if l.length < 16 ∨ word l 0 ≠ 0x514D4252 ∨ word l 3 ≠ crc32 (l.take 12) then none
  else some (word l 1, word l 2 % 2)

/-- The selected bank, the SEQ in force and the number of the record that holds it. -/
def selectBank (v : FlashView) : Nat × Nat × Nat :=
  match readRecord v.rec0, readRecord v.rec1 with
  | none, none => (0, 0, 1)
  | some (s, k), none => (k, s, 0)
  | none, some (s, k) => (k, s, 1)
  | some (s, k), some (s', k') => if serialAfter s' s then (k', s', 1) else (k, s, 0)

/-! ### ROM checks (R397, R398) -/

/-- The sections of an image as (offset, length). -/
def imgSections (l : List Byte) : List (Nat × Nat) := [4, 6, 8, 10].map (fun i => (word l i, word l (i + 1)))

/-- Check 0x2. -/
def romCheck2 (l : List Byte) : Bool :=
  word l 0 == 0x514D494D && fld (word l 1) 24 8 == 1 && fld (word l 1) 1 7 == 0 && fld (word l 2) 16 16 == 0
  && allZero (slice l 48 16) && allZero (slice l 161 95)

/-- Two sections share no byte. -/
def sectionsApart (x y : Nat × Nat) : Bool := x.2 == 0 || y.2 == 0 || decide (x.1 + x.2 ≤ y.1) || decide (y.1 + y.2 ≤ x.1)

/-- No two sections overlap. -/
def allApart : List (Nat × Nat) → Bool
  | [] => true
  | x :: xs => xs.all (sectionsApart x) && allApart xs

/-- The bytes of section `i` of an image. -/
def sectionBytes (l : List Byte) (i : Nat) : List Byte :=
  let s := (imgSections l).getD i (0, 0)
  slice l (256 + s.1) s.2

/-- Check 0x3; RAIL_COUNT and the zero bytes of the power section count with its limits (DEDUCED, log entry 26). -/
def romCheck3 (l : List Byte) : Bool :=
  let n := word l 3
  let ss := imgSections l
  let p := sectionBytes l 3
  n % 64 == 0 && decide (64 ≤ n) && decide (n ≤ 262144)
  && ss.all (fun s => s.1 % 64 == 0 && decide (s.1 + s.2 ≤ n))
  && (List.zip ss [131072, 16384, 16384, 64]).all (fun x => decide (x.1.2 ≤ x.2)) && (ss.getD 3 (0, 0)).2 == 64
  && allApart ss && decide (leNat (slice p 11 1) ≤ 8) && allZero (slice p 20 44)

/-- Measured bytes of an image (R397). -/
def measured (l : List Byte) : List Byte := l.take (256 + word l 3)

/-- KEY. -/
def imgKey (l : List Byte) : List Byte := slice l 64 97

/-- What of an image the block uses. -/
def imageOf (l : List Byte) : Image :=
  let p := sectionBytes l 3
  let brd := sectionBytes l 2
  let n := min (fld (word brd 0) 0 11) ((brd.length - 16) / 4)
  { major := fld (word l 1) 16 8, minor := fld (word l 1) 8 8, g1 := bitOf (word l 1) 0, svn := fld (word l 2) 0 16,
    meas := sha384 (measured l), board := (List.range n).map (fun k => word brd (4 + k)),
    volts := (List.range 5).map (fun k => leNat (slice p (2 * k) 2)), boot := leNat (slice p 10 1),
    rails := (List.range (leNat (slice p 11 1))).map (fun k => leNat (slice p (12 + k) 1)) }

/-- Checks 0x2 to 0x6 of R398 in order: the image, or the code of the first that fails. -/
def romChecks (f : Fuses) (l : List Byte) : Except Nat Image :=
  if !romCheck2 l then .error 2
  else if !romCheck3 l then .error 3
  else if sha384 (imgKey l) != f.keyHash then .error 4
  else if fld (word l 2) 0 16 < f.minSvn.toNat then .error 5
  else if !ecdsaVerify (imgKey l) (sha384 (measured l)) (slice l (256 + word l 3) 96) then .error 6
  else .ok (imageOf l)

/-! ### The image in force -/

/-- Change the image record. -/
def modImg (f : Img → Img) (b : Block) : Block := { b with pwr := { b.pwr with img := f b.pwr.img } }

/-- Image `im` of bank `bank` takes force. -/
def imageForce (im : Image) (bank : Nat) (b : Block) : Block :=
  let b := { b with pwr := { b.pwr with ifrev := 256 * im.major + im.minor, g1 := im.g1, meas := im.meas } }
  modImg (fun i => { i with active := some im, bank := bank, recovery := false }) b

/-- The block runs in recovery (R399). -/
def imageRecovery (b : Block) : Block :=
  let b := { b with pwr := { b.pwr with ifrev := 0, g1 := false, meas := [] } }
  modImg (fun i => { i with active := none, bank := 0, fallback := false, recovery := true }) b

/-- The bytes of a bank. -/
def bankBytes (v : FlashView) (k : Nat) : List Byte := if k = 0 then v.bankA else v.bankB

/-- The slot 0 certificate chain of the identity area (R396). -/
def identityChain (l : List Byte) : List Byte := if word l 0 = 0x514D4944 then slice l 8 (word l 1) else []

/-- Step 5 of R395: the ROM selects and verifies an image (R398). -/
def romBoot (v : FlashView) (b : Block) : Block :=
  let (k, seq, n) := selectBank v
  let b := { b with pwr := { b.pwr with certChain := identityChain v.identity } }
  let b := modImg (fun i => { i with recSeq := seq, recLast := n, recBank := k }) b
  if !v.sfdp ∨ v.mib < 4 then imageRecovery (modImg (fun i => { i with romErr := 1 }) b) else
  match romChecks b.fuses (bankBytes v k) with
  | .ok im => imageForce im k b
  | .error e =>
    match romChecks b.fuses (bankBytes v (1 - k)) with
    | .ok im => modImg (fun i => { i with fallback := true }) (imageForce im (1 - k) (modImg (fun i => { i with romErr := e }) b))
    | .error e' => imageRecovery (modImg (fun i => { i with romErr := e' }) b)

/-! ### Common to the IMAGE commands -/

/-- The status of a failed IMAGE command is kept in LAST_STATUS. -/
def noteImg (st : Status) (b : Block) : Block := modImg (fun i => { i with lastStatus := st.code }) b

/-- An IMAGE command fails in a check that names no field. -/
def imgFail (i : Nat) (st : Status) (b : Block) : Block := admFinal i st (noteImg st b)

/-- An IMAGE command fails on the field at byte `off`. -/
def imgBad (i : Nat) (st : Status) (off : Nat) (b : Block) : Block := admBad i st off (noteImg st b)

/-- The command row of an IMAGE opcode: a common check that fails sets LAST_STATUS as well. -/
def imageRow (opc k : Nat) (f : Nat → List Byte → Block → Block) (b : Block) : Block :=
  let b := match admAt b opc k with
    | none => b
    | some c =>
      if !domOn b 1 then b else
      match commonCheck c with
      | some (st, _) => noteImg st b
      | none => b
  adminRow opc k f b

/-- An activation is pending or runs. -/
def actBusy (b : Block) : Bool := b.pwr.img.pendingAct.isSome || b.pwr.img.actPhase != 0

/-- The bank that IMAGE_STAGE writes. -/
def stageBank (b : Block) : Nat := if b.pwr.img.recovery then 0 else 1 - b.pwr.img.bank

/-- Flash address of a bank. -/
def bankAddr (k : Nat) : Nat := 0x100000 * (1 + k)

/-! ### IMAGE_STAGE (R400) -/

/-- Change the staging in progress. -/
def modStage (f : Stage → Stage) (b : Block) : Block := modImg (fun i => { i with stage := i.stage.map f }) b

/-- IMAGE_STAGE: the checks, then STAGED falls and the bank is erased. -/
def imageStage (i : Nat) (e : List Byte) (b : Block) : Block :=
  let n := word e 4
  if n < 416 ∨ 262496 < n then imgBad i .badLength 16 b
  else if actBusy b then imgFail i .badState b
  else match bufBad (dword e 6) n 64 with
    | some st => imgBad i st 24 b
    | none =>
      let s : Stage := { adm := i, len := n, addr := dword e 6, phase := 1, data := [], bad := none }
      emit (.flash 1 (bankAddr (stageBank b)) []) (modImg (fun m => { m with staged := none, stage := some s }) b)

/-- The staging ends with a failure while the bank is erased. -/
def stageFail (st : Status) (off : Nat) (b : Block) : Block :=
  match b.pwr.img.stage with
  | none => b
  | some s => imgBad s.adm st off (modImg (fun i => { i with stage := none }) b)

/-- The staging fails after programming began: the bank is erased again. -/
def stageErase (st : Status) (b : Block) : Block :=
  emit (.flash 1 (bankAddr (stageBank b)) []) (modStage (fun s => { s with phase := 5, bad := some st }) b)

/-- The image has been read from host memory: it is programmed. -/
def imageData (data : List Byte) (b : Block) : Block :=
  match b.pwr.img.stage with
  | none => b
  | some s =>
    if word data 3 + 352 ≠ s.len then stageFail .badLength 0xFFFFFFFF b else
    emit (.flash 2 (bankAddr (stageBank b)) data) (modStage (fun s => { s with phase := 3, data := data }) b)

/-- Status of a failed ROM check in IMAGE_STAGE. -/
def romStatus (c : Nat) : Status := if c ≤ 3 then .badParam else .authFail

/-- The bank has been read back. -/
def stageVerify (s : Stage) (bs : List Byte) (b : Block) : Block :=
  if bs.take s.len != s.data then stageErase .memUncorrected b else
  match romChecks b.fuses s.data with
  | .error c => stageErase (romStatus c) b
  | .ok im =>
    admReply s.adm .ok 0xFFFFFFFF ((List.range 12).map (word im.meas)) true
      (modImg (fun i => { i with stage := none, staged := some im }) b)

/-- A flash operation of a staging has ended. -/
def stageFlash (s : Stage) (r : FlashResult) (b : Block) : Block :=
  let read := emit (.flash 0 (bankAddr (stageBank b)) [])
  match s.phase, r with
  | 1, .failed => stageErase .memUncorrected b
  | 1, _ => admRead s.adm (modStage (fun s => { s with phase := 2 }) b)
  | 3, .failed => stageErase .memUncorrected b
  | 3, _ => read (modStage (fun s => { s with phase := 4 }) b)
  | 4, .bytes bs => stageVerify s bs b
  | 4, _ => stageErase .memUncorrected b
  | 5, _ => imgFail s.adm (s.bad.getD .memUncorrected) (modImg (fun i => { i with stage := none }) b)
  | _, _ => b

/-! ### IMAGE_ACTIVATE (R401 to R403) -/

/-- Steps 3 and 4 of R401 on the staged image. -/
def actCheck (b : Block) (im : Image) : Option Status :=
  if im.major ≠ b.pwr.ifrev / 256 ∧ b.hub.ctxs.any (fun e => e.2.state != .free) = true then some .revMismatch
  else if !im.g1 && b.hub.queues.any (fun e => e.2.state != .disabled && !e.2.gen2) then some .notPermitted
  else none

/-- Step 1 of R402: the staged bank is read again. -/
def actBegin (i : Nat) (b : Block) : Block :=
  emit (.flash 0 (bankAddr (stageBank b)) []) (modImg (fun m => { m with
    pendingAct := none, actAdm := i, actPhase := 1 }) b)

/-- IMAGE_ACTIVATE. -/
def imageActivate (i : Nat) (e : List Byte) (b : Block) : Block :=
  let im := b.pwr.img
  if ef e 4 0 1 = 1 then
    match im.pendingAct with
    | none => imgFail i .badState b
    | some j =>
      let b := admDone j .badState [] (noteImg .badState (modImg (fun m => { m with pendingAct := none }) b))
      admFinal i .ok b
  else
    match im.staged with
    | none => imgFail i .badState b
    | some s =>
      if actBusy b then imgFail i .badState b else
      match actCheck b s with
      | some st => imgFail i st b
      | none =>
        if b.pwr.emerg.active then
          admReply i .deferredEmergency 0xFFFFFFFF [] false (modImg (fun m => { m with pendingAct := some i }) b)
        else actBegin i b

/-- The activation ends with an outcome. -/
def actEnd (st : Status) (b : Block) : Block :=
  let i := b.pwr.img.actAdm
  let b := modImg (fun m => { m with actPhase := 0 }) b
  admDone i st [] (if st == .ok then b else noteImg st b)

/-- The staged bank has been read: its measurement must be the staged one. -/
def actVerify (bs : List Byte) (b : Block) : Block :=
  match b.pwr.img.staged with
  | none => actEnd .authFail b
  | some s =>
    if sha384 (measured bs) = s.meas then modImg (fun m => { m with actPhase := 2 }) b
    else actEnd .authFail (modImg (fun m => { m with staged := none }) b)

/-- Every context that is not FREE receives an IMAGE record (R230). -/
def foldImage (meas : List Byte) (b : Block) : Block :=
  let cs := (b.hub.ctxs.filter (fun e => e.2.state != .free)).map (·.1)
  cs.foldl (fun b c => pushFold c { kind := 4, ranks := 0, body := meas, mark := none } b) b

/-- ACTIVATION_SWITCH: every interpreter has paused at a packet boundary; the new tables take force (R402). FALLBACK says whether
the bank now active is other than the one that the boot records still select (R405). -/
def activationSwitch (b : Block) : Block :=
  match b.pwr.img.actPhase, b.pwr.img.staged with
  | 2, some im =>
    let m := b.pwr.img
    let bank := stageBank b
    let next := refNow b + 25000
    let b := if m.recovery then { b with pwr := { b.pwr with sampleDue := next } } else b
    let b := modImg (fun i => { i with
      fallback := bank != m.recBank, staged := none, actPhase := 5 }) (imageForce im bank b)
    modDvfs (fun d => { d with tVolt := 0 }) (spdmEnd (foldImage im.meas b))
  | _, _ => b

/-- A flash operation of an activation has ended: the bank read, or the boot record written. A record that cannot be written
answers MEM_UNCORRECTED (DEDUCED, log entry 26). -/
def actFlash (r : FlashResult) (b : Block) : Block :=
  let m := b.pwr.img
  match m.actPhase, r with
  | 1, .bytes bs => actVerify bs b
  | 1, _ => actVerify [] b
  | 3, .failed => actEnd .memUncorrected b
  | 3, _ => actEnd .ok (modImg (fun m => { m with
      recSeq := (m.recSeq + 1) % 2 ^ 32, recLast := 1 - m.recLast, recBank := m.bank, fallback := false }) b)
  | _, _ => b

/-- FLASH_OPERATION_DONE. -/
def flashDone (r : FlashResult) (b : Block) : Block :=
  match b.pwr.img.stage with
  | some s => if s.phase = 2 then b else stageFlash s r b
  | none => actFlash r b

/-- An activation after a command: a pending one runs once no emergency stands (R403); the new voltages take effect by one
sequence at the current step, then the boot record is written (R402). -/
def settleImage (b : Block) : Block :=
  let m := b.pwr.img
  if b.pwr.emerg.active then b else
  let quiet := b.pwr.dvfs.phase == .idle
  match m.pendingAct, m.actPhase with
  | some i, 0 =>
    let st : Option Status := match m.staged with
      | none => some .badState
      | some s => actCheck b s
    (match st with
    | some st => admDone i st [] (noteImg st (modImg (fun m => { m with pendingAct := none }) b))
    | none => actBegin i b)
  | _, 5 =>
    if quiet then
      let s := b.time.divStep
      startSeq s (stepVolt b s) none (modImg (fun m => { m with actPhase := 4 }) b)
    else b
  | _, 4 =>
    if quiet then
      let k := 1 - m.recLast
      emit (.flash 2 (0x1000 * k) (bootRecord ((m.recSeq + 1) % 2 ^ 32) m.bank))
        (modImg (fun m => { m with actPhase := 3 }) b)
    else b
  | _, _ => b

end Sys2Proof.Machine
end

