-- ==== Sys2Proof/Machine/Start.lean ====
section
/-! DEFINITION. Resets and the block-local start-up (R29, R377, R394, R395), the identity words (R334, R404, R405). -/

namespace Sys2Proof.Machine

/-! ### Identity words -/

/-- `GLB_ID` (R405). -/
def glbId (b : Block) : Nat := at_ 0x5143 16 + at_ 0xB0 8 + b.fuses.config.code

/-- `GLB_CAP` (R405). -/
def glbCap (b : Block) : Nat :=
  at_ (nPorts b) 57 + at_ (nChannels b) 50 + at_ (nSequences b) 35 + at_ (nContexts b) 26 + at_ (nSeqrs b) 19
  + at_ (nCores b) 9

/-- `GLB_IFREV` (R405). -/
def glbIfrev (b : Block) : Nat := at_ (b2n b.pwr.g1) 16 + b.pwr.ifrev

/-- `SEQ_ENGINE` (R207). -/
def seqEngine : Nat := at_ Config.nclass 48 + at_ Config.spanBytes 40 + Config.memUnits

/-- `PWR_LIMITS` (R405). -/
def pwrLimits (b : Block) : Nat :=
  let f := b.fuses
  at_ f.pmaxW.toNat 48 + at_ f.tmaxC.toNat 40 + at_ f.stepMin.toNat 36 + at_ f.vmaxMv.toNat 24 + at_ f.vminMv.toNat 12
  + f.vsafeMv.toNat

/-- The FRU bytes of the configuration block, from the EEPROM's bytes: 24 bytes (R334). -/
def fruBytes (b : Block) (data : List Byte) : List Byte :=
  if !b.fab.fru.valid then List.replicate 24 0 else
  match fruRecord 16 (data.drop (8 * (data.getD 5 0).toNat)) with
  | some d => overlay (d ++ [0, 0]) 5 [0, 0, 0, 0]
  | none => List.replicate 24 0

/-- The configuration block of measurement index 4 (R334). -/
def confBlock (b : Block) (data : List Byte) : List Byte :=
  leBytes (glbId b) 4 ++ leBytes (glbCap b) 8 ++ leBytes seqEngine 8 ++ leBytes (pwrLimits b) 8
  ++ leBytes (at_ b.fuses.minSvn.toNat 16 + b2n b.fuses.testLock) 4 ++ fruBytes b data ++ List.replicate 8 0

/-- FRU_READ: the FRU, and with it the configuration block (R297, R334). -/
def fruReadRow (data : Option (List Byte)) (b : Block) : Block :=
  let was := b.fab.fruDead
  let b := fruRead data b
  if was.isSome && b.fab.fruDead.isNone then
    let conf := confBlock b (data.getD [])
    { b with sec := { b.sec with confBlk := conf } }
  else b

/-! ### Resets (R394) -/

/-- The order in which step 3 switches the domains ON. -/
def domOrder (b : Block) : List Nat := [1, 4, 2, 3] ++ (List.range (nSeqrs b / 8)).map (5 + ·)

/-- Outputs go to their idle values, every domain's `pm_iso` rises, CLK_SEQ goes to DIV12 at VSAFE_MV; `was` is the block before the reset. -/
def resetOutputs (was b : Block) : Block :=
  emitAll ([.ksInvalid true, .blkUp false, .faultFatal false, .divStep 4, .avs was.fuses.vsafeMv.toNat] ++
    (domOrder was).map (.pdIso · true) ++ (domOrder was).map (.pdRet · false)) b

/-- POR_N_ASSERT: everything is as after power-on. What was driven, and the count of free values, are the model's own. -/
def porAssert (b : Block) : Block := resetOutputs b { blockReset with out := b.out, fresh := b.fresh }

/-- Fault state that `hrst_n` keeps (R377). -/
def fltWarm (f : Flt) : Flt :=
  { fltReset with
    logRecs := f.logRecs, written := f.written, dump := f.dump, dumpValid := f.dumpValid, dumpLocked := f.dumpLocked,
    dumpReason := f.dumpReason, captures := f.captures, warm := satAdd 16 f.warm 1, stalemates := f.stalemates,
    partResets := f.partResets, expiries := f.expiries, unlock := f.unlock }

/-- HRST_N_ASSERT, low at `edges` consecutive CLK_REF edges; fewer than two are ignored. -/
def hrstAssert (edges : Nat) (b : Block) : Block :=
  if edges < 2 then b else
  resetOutputs b { blockReset with
    time := { timeReset with root := b.time.root, lost := b.time.lost }, sch := schFresh b, pwr := { pwrReset with warm := true }, flt := fltWarm b.flt,
    out := b.out, fresh := b.fresh }

/-- RESET_RELEASE: start-up begins. -/
def releaseReset (b : Block) : Block :=
  if b.pwr.step ≠ 0 then b else
  let now := refNow b
  { b with pwr := { b.pwr with step := 1, relAt := now } }

/-! ### Start-up steps (R395) -/

/-- The block stands in start-up step `n`. -/
def setStep (n : Nat) (b : Block) : Block := { b with pwr := { b.pwr with step := n } }

/-- Step 1 has ended: 16 consecutive CLK_REF cycles with 22 to 26 CLK_HUB edges each. -/
def clockSeen (l : List Nat) : Bool :=
  decide (16 ≤ l.length) && (l.drop (l.length - 16)).all (fun n => decide (22 ≤ n) && decide (n ≤ 26))

/-- Step 3 switches on the next domain that is OFF; with none left, step 4 begins. -/
def startDomain (b : Block) : Block :=
  match (domOrder b).find? (fun d => (domOf b d).st == .off) with
  | some d => emit (.pdSwitch d true) (modDom d (fun m => { m with st := .leaving }) b)
  | none => setStep 4 b

/-- Step 2 has ended: the fuses are read, CLK_SEQ's rail stands at VSAFE_MV, and step 3 begins with every domain OFF. -/
def fusesRead (f : Fuses) (b : Block) : Block :=
  let b := setStep 3 { b with fuses := f }
  let b := modDvfs (fun d => { d with volt := f.vsafeMv.toNat, wrote := f.vsafeMv.toNat }) b
  startDomain ((domOrder b).foldl (fun b d => modDom d (fun m => { m with st := .off }) b) b)

/-- OT_WARN_LIMIT of one rail: the lesser of TMAX_C and the regulator's own, which is a free value. -/
def warnRail (b : Block) (addr : Nat) : Block :=
  let own := (freeVal 8 b).toNat
  emit (.pmbus addr 0x51 (min b.fuses.tmaxC.toNat own)) (useFree b)

/-- Step 6 begins: the limits go to the rails, and DVFS runs to BOOT_STEP, clipped to STEP_MIN. In recovery there is nothing
to do (R399); in an emergency the sequence follows its end. -/
def bootDvfs (b : Block) : Block :=
  match b.pwr.img.active with
  | none => b
  | some im =>
    let b := im.rails.foldl warnRail b
    let t := min 4 (max im.boot b.fuses.stepMin.toNat)
    let b := modDvfs (fun d => { d with target := t, tVolt := 0 }) b
    if b.pwr.emerg.active then b else startSeq t (stepVolt b t) none b

/-- Step 8: `hp_blk_up` rises, and the lease counter starts (R374). -/
def blockUp (b : Block) : Block :=
  let now := refNow b
  let b := { b with hub := { b.hub with blkUp := true },
                    pwr := { b.pwr with step := 9, startCycles := min (now - b.pwr.relAt) (2 ^ 32 - 1) } }
  leaseStart (emit (.blkUp true) b)

/-- STARTUP_STEP: the step in which the block stands ends, if what it needs is there, and the next begins. -/
def startupStep (x : StartInput) (b : Block) : Block :=
  match b.pwr.step, x with
  | 1, .clockEdges l => if clockSeen l then emit .fuseRead (setStep 2 b) else b
  | 2, .fuses f => fusesRead f b
  | 4, .idle => setStep 5 (deriveIdk b)
  | 5, .flash v => bootDvfs (setStep 6 (acceptChain (romBoot v b)))
  | 6, .idle =>
    if b.pwr.dvfs.phase != .idle then b else
    let next := refNow b + 25000
    beginIdent (setStep 7 { b with pwr := { b.pwr with sampleDue := next } })
  | 7, .idle => if 8 ≤ b.fab.phase then blockUp b else b
  | _, _ => b

/-- PGOOD_RISE: the domain is ON; in step 3 the next one follows. -/
def pgoodRise (d : Nat) (b : Block) : Block :=
  if b.pwr.step = 3 then
    if (domOf b d).st == .leaving then startDomain (modDom d (fun m => { m with st := .on }) (pdUnclamp d b)) else b
  else pdOn d b

end Sys2Proof.Machine
end

