-- ==== Sys2Proof/Machine/FaultRows.lean ====
section
/-! DEFINITION. FLT: hang watchdogs, the steps of a partition reset, forced errors, quiet periods, clock loss, the test
wrapper, capture requests (R356, R359 to R376). -/

namespace Sys2Proof.Machine

/-! ### Hang watchdog (R365, R366) -/

/-- A submission has started and an inline wait of it is not satisfied. -/
def inlineWaits (s : Sub) : Bool := decide (0 < inlineEntries s)

/-- Released incomplete operations of queue `q`. -/
def releasedOps (b : Block) (q : Nat) : List Op := b.dep.ops.filter (fun o => o.q == q && o.stage == .released)

/-- Queue `q` owes progress. -/
def owes (b : Block) (q : Nat) : Bool :=
  let r := queueOf b q
  (r.state == .active || r.state == .idle) && (!(releasedOps b q).isEmpty || r.subs.any inlineWaits)

/-- An operation is a wait. -/
def isWait (o : Op) : Bool := match o.pkt.body with | .waitFlag .. => true | _ => false

/-- The watchdog count of queue `q` holds. -/
def wdHolds (b : Block) (q : Nat) : Bool :=
  let ops := releasedOps b q
  cqFull (queueOf b q) || ops.any (fun o => (mosOf b o.slot).held) || (b.hub.leaseExpired && ops.all isWait)
  || (b.dep.ops.filter (fun o => o.q == q && o.live)).any (fun o => resetting b o.slot)

/-- The watchdogs in one CLK_HUB cycle. -/
def wdTick (b : Block) : Block :=
  if !b.flt.wdEn then b else
  let qs := (b.hub.queues.map (·.1)).filter (fun q => owes b q && !wdHolds b q)
  { b with flt := { b.flt with wd := qs.foldl (fun t q => tmod 0 t q (· + 1)) b.flt.wd } }

/-- Queue `q` halts with HANG: its oldest submission with work outstanding fails, DETAIL naming its oldest incomplete
operation (R366). -/
def hangHalt (q : Nat) (b : Block) : Block :=
  let pend (s : Sub) : Bool := s.fail.isNone && (inlineWaits s || (opsOfSub b s.sid).any Op.live)
  match (queueOf b q).subs.find? pend with
  | none => report (uccReport 0x15 3 q .hang 0xFFFFFFFF) (haltQueue q .hang b)
  | some s =>
    let op := (opsOfSub b s.sid).find? (fun o => o.inst == 0 && o.live)
    let f : Failure := match inlineWaits s, op with
      | false, some o => { status := .hang, kind := 3, detail := o.off }
      | _, _ => { status := .hang, kind := 0, detail := 0xFFFFFFFF }
    report (uccReport 0x15 3 q .hang f.detail) (failSub q s.sid f b)

/-! ### The declaration of a wait cycle (R142 to R144) -/

/-- The report and the halt of queue `q` of a declared set. -/
def wcdDeclareQueue (q : Nat) (b : Block) : Block :=
  let detail : Nat := match (oldestWait (failWaits b q)).bind (fun w => w.oid.bind (opOf b)) with
    | some o => packetOff b o
    | none => 0xFFFFFFFF
  report (uccReport 0x16 3 q .waitCycle detail) (wcdHaltQueue q b)

/-- The set D that both passes have found, once the second has ended: its last cycle is past, so that a change in that
cycle counts (R10, R142). -/
def wcdFound (b : Block) : Option (List Nat) :=
  match b.dep.first with
  | some w =>
    if b.dep.wcdEnable && w.second.any (expired (hubNow b)) && !w.changed && candidates b == w.d then some w.d else none
  | none => none

/-- The declaration of D (R143). -/
def wcdDeclare (d : List Nat) (b : Block) : Block :=
  d.foldl (fun b q => wcdDeclareQueue q b)
    { b with dep := { b.dep with first := none, candidate := d, wcdCount := satAdd 32 b.dep.wcdCount 1 } }

/-- The detector begins again with a first pass (DEDUCED, log entry 31). -/
def wcdAgain (b : Block) : Block := wcdPass { b with dep := { b.dep with first := none } }

/-- WCD_SETTLE_EXPIRY: the second pass. It starts when the settle period has run, and goes on for its own cycles while it
finds the set of the first and no awaited flag has changed; a second WCD_SETTLE_EXPIRY after its last cycle declares
the cycle (R142, R143). A pass that finds otherwise is a first one. -/
def wcdSettle (b : Block) : Block :=
  match b.dep.first with
  | none => b
  | some w =>
    if !b.dep.wcdEnable then { b with dep := { b.dep with first := none } } else
    match w.second with
    | none =>
      if hubNow b < w.deadline then b
      else if candidates b == w.d && !w.changed then
        let e := hubNow b + wcdCycles b - 1
        { b with dep := { b.dep with first := some { w with second := some e } } }
      else wcdAgain b
    | some e =>
      if !expired (hubNow b) e then b else
      match wcdFound b with
      | some d => wcdDeclare d b
      | none => wcdAgain b

/-- HANG_WATCHDOG_EXPIRY of queue `q`. A queue of a set that is declared in the same cycle halts with WAIT_CYCLE (R144). -/
def hangExpiry (q : Nat) (b : Block) : Block :=
  if !b.flt.wdEn || !owes b q || decide (tget 0 b.flt.wd q ≤ 2 ^ b.flt.wdLog2) then b else
  match (wcdFound b).filter (·.contains q) with
  | some d => wcdDeclare d b
  | none => progress q (hangHalt q b)

/-! ### Partition reset (R367) -/

/-- Change the partition reset of slot `k`. -/
def modPart (k : Nat) (f : PartRst → PartRst) (b : Block) : Block :=
  { b with flt := { b.flt with parts := tmod none b.flt.parts k (fun p => p.map f) } }

/-- Step 2: every operation released on the slot is aborted, and every queue that holds one halts. -/
def partStep2 (k : Nat) (p : PartRst) (b : Block) : Block :=
  let ops := b.dep.ops.filter (fun o => o.slot == k && o.stage == .released)
  let qs := (List.range (nQueues b)).filter (fun q => ops.any (fun o => o.q == q) && some q != p.cause)
  let b := qs.foldl (fun b q => haltQueue q .stateLost b) b
  abortColls k (abortOps (ops.map (·.oid)) b)

/-- One lane of step 3: its core is in service again and the lane makes a handshake; one whose request is still high goes on
under a fresh bound (R166, R167). -/
def partLane (n l : Nat) (b : Block) : Block :=
  if (laneOf (seqrOf b n) l).abReq then
    let dead := hubNow b + 2 ^ b.dsp.boundLog2
    modLane n l (fun x => { x with abDead := some dead, expired := false }) b
  else abortLane n l b

/-- Step 3: handshakes on the lanes of the slot's cores whose domain is ON. -/
def partStep3 (k : Nat) (b : Block) : Block :=
  let cores := (List.range (nCores b)).filter (bitOf (mosOf b k).cores ·)
  let b := cores.foldl (fun b c => modCore c (fun r => { r with failed := false }) b) b
  let lanes := (cores.filter (fun c => seqUp b (c / 8))).map (fun c => (c / 8, c % 8))
  modPart k (fun p => { p with lanes := lanes }) (lanes.foldl (fun b x => partLane x.1 x.2 b) b)

/-- Step 4: a capture becomes due while no dump is locked (R376). -/
def partStep4 (k : Nat) (p : PartRst) (b : Block) : Block :=
  if !b.flt.dumpOnPart || b.flt.dumpLocked then b else
  { b with flt := { b.flt with capDue := some { reason := 0x10, src := p.src, slot := k }, dumpValid := false } }

/-- Step 5: the scratch region and the channels are overwritten. -/
def partStep5 (k : Nat) (b : Block) : Block :=
  let rs := scrubRanges b k
  modPart k (fun p => { p with ranges := rs }) b

/-- The slot runs turns: a loop has run or runs, or sequences are held. -/
def runsTurns (b : Block) (k : Nat) : Bool :=
  let l := loopOf b k
  decide (l.n ≠ 0) || decide (l.aborts ≠ 0) || l.oid.isSome || l.turn.isSome || seqsHeld b k

/-- Step 6: sequences end, a turn in flight aborts, the leader hears of it. -/
def partStep6 (k : Nat) (b : Block) : Block :=
  if !runsTurns b k then b else
  let l := loopOf b k
  let num := match l.turn with | some t => t.num | none => l.n + 1
  let body := leBytes num 8 ++ leBytes Status.stateLost.code 1
  let b := if leads b k then loseSeqs k b else sendMos 0x2A body k (leaderOf b k) b
  match (loopOf b k).turn with
  | none => b
  | some t =>
    let up := if leads b k then none else some (leaderOf b k)
    abortTurn k (.failed .turnAborted) (sendAbort k t.num Status.stateLost.code up b)

/-- Step 7: the bit falls and the commands that await the reset are answered. -/
def partStep7 (k : Nat) (p : PartRst) (b : Block) : Block :=
  admFinals p.adms .ok { b with flt := { b.flt with parts := tset none b.flt.parts k none } }

/-- The step begun has ended. -/
def partOver (b : Block) (k : Nat) (p : PartRst) : Bool :=
  match p.step with
  | 2 => noPasses b k
  | 3 => p.lanes.isEmpty
  | 5 => p.ranges.isEmpty && p.out == 0
  | _ => true

/-- PART_RESET_STEP of slot `k`: the next step begins. -/
def partStep (k : Nat) (b : Block) : Block :=
  match tget none b.flt.parts k with
  | none => b
  | some p =>
    if !partOver b k p then b else
    let b := modPart k (fun p => { p with step := p.step + 1 }) b
    match p.step with
    | 1 => partStep2 k p b
    | 2 => partStep3 k b
    | 3 => partStep4 k p b
    | 4 => partStep5 k b
    | 5 => partStep6 k b
    | _ => partStep7 k p b

/-- Scrub descriptors of step 5 are issued as tags allow. -/
def partPump (k : Nat) (b : Block) : Block :=
  match tget none b.flt.parts k with
  | none => b
  | some p =>
    if p.ranges.isEmpty then b else
    let (rs, n, b) := scrubIssue k 256 p.ranges 0 b
    modPart k (fun p => { p with ranges := rs, out := p.out + n }) b

/-- Every partition reset after a command. -/
def settleParts (b : Block) : Block := (b.flt.parts.map (·.1)).foldl (fun b k => partPump k b) b

/-- A scrub descriptor completed: of a partition reset, else of a release. -/
def scrubDone (k : Nat) (b : Block) : Block :=
  match tget none b.flt.parts k with
  | some p => if 0 < p.out then modPart k (fun p => { p with out := p.out - 1 }) b else releaseDd k b
  | none => releaseDd k b

/-! ### Sources (R356, R359, R360) -/

/-- An SRAM source. -/
def isSram (s : Nat) : Bool := decide (1 ≤ s) && decide (s ≤ 0x0E)

/-- Class and scope of an error of source `s`, `ue` its uncorrected form; none where R356 does not list the source. -/
def srcForm (s : Nat) (ue : Bool) : Option (Cls × Nat) :=
  if isSram s && !ue then some (.ce, 0) else
  match s with
  | 0x01 | 0x04 | 0x05 | 0x08 | 0x09 | 0x0E => some (.ucc, 3)
  | 0x02 => some (.ucc, 2)
  | 0x03 => some (.ce, 0)
  | 0x06 => some (.ucc, 7)
  | 0x07 => some (.ucc, 5)
  | 0x0A | 0x0B => some (.ucc, 4)
  | 0x0C | 0x0D => some (.ucc, 0)
  | 0x10 => some (.ucc, 1)
  | 0x11 | 0x15 | 0x16 | 0x17 | 0x18 | 0x1D => some (.ucc, 3)
  | 0x12 | 0x13 | 0x1A | 0x1F | 0x20 | 0x21 => some (.ce, 0)
  | 0x14 | 0x1C | 0x1E => some (.ucc, 5)
  | 0x19 | 0x1B => some (.ucc, 4)
  | 0x22 | 0x23 | 0x24 | 0x25 | 0x3F => some (.ftl, 6)
  | _ => none

/-- The command taken from ring index `k` that has not started: the oldest where there are two. One that has started is read from
the window no more, and its performance is not touched (DEDUCED, log entry 27). -/
def admHeld (b : Block) (k : Nat) : Option AdmCmd := b.adm.cmds.find? (fun c => c.idx % 1024 == k && !c.started)

/-- Entry `k` of the command ring holds a command not yet taken. -/
def ringHolds (b : Block) (k : Nat) : Bool :=
  decide (k < 1024) && decide ((k + 1024 - b.adm.cmdHead) % 1024 < (b.adm.cmdTail + 1024 - b.adm.cmdHead) % 1024)

/-- Source 0x06: the command is not performed. One not yet taken is answered when it is taken. -/
def forceEntry (k : Nat) (b : Block) : Block :=
  match admHeld b k with
  | some c => admFinal c.idx .memUncorrected b
  | none => { b with adm := { b.adm with bad := k :: b.adm.bad.filter (· != k) } }

/-- The scope member exists (R362). -/
def memberExists (b : Block) (scope t : Nat) : Bool :=
  match scope with
  | 1 => decide (t < nCores b) && (slotOfCore b t).isSome
  | 2 => decide (t < nSequences b) && (seqnOf b t).state != .free
  | 3 => decide (t < nQueues b) && (queueOf b t).state != .disabled
  | 4 => decide (t < nContexts b) && (ctxOf b t).state != .free
  | 5 => decide (t < 64) && (mosOf b t).state != .free
  | 7 => (admHeld b t).isSome || ringHolds b t
  | _ => true

/-- QUIET_PERIOD_EXPIRY of source `s`. -/
def quietExpiry (s : Nat) (b : Block) : Block :=
  let r := tget srcZero b.flt.srcs s
  if !r.active || !expired (hubNow b) r.dead then b else
  let r : Src := { r with active := false, recov := satAdd 16 r.recov 1 }
  { b with flt := { b.flt with srcs := tset srcZero b.flt.srcs s r } }

/-- Some source of a class is ACTIVE. -/
def clsActive (b : Block) (c : Cls) : Bool := b.flt.srcs.any (fun e => e.2.active && e.2.cls == c)

/-- FLT_SUMMARY_CLEAR: the class bits written 1 fall; one whose class is still ACTIVE is set again, with its vector
(R360). -/
def summaryClear (ce ucc : Bool) (b : Block) : Block :=
  let b := { b with flt := { b.flt with sumCe := b.flt.sumCe && !ce, sumUcc := b.flt.sumUcc && !ucc } }
  let b := if ucc && clsActive b .ucc then sumSet .ucc b else b
  if ce && clsActive b .ce then sumSet .ce b else b

/-! ### The collector itself, clock loss, entropy (R328, R364, R372) -/

/-- COLLECTOR_SELF_FAULT: the hardwired path enters stalemate with reason SELF, past classification and summary; then the
record of the cause is written (R364, R370). -/
def selfFault (b : Block) : Block :=
  let s := tget srcZero b.flt.srcs 0x3F
  let errors := satAdd 32 s.errors 1
  let dead := hubNow b + 2 ^ b.flt.quietLog2
  let s' : Src := { s with active := true, cls := .ftl, scope := 6, errors := errors, dead := dead }
  let b := { b with flt := { b.flt with srcs := tset srcZero b.flt.srcs 0x3F s' } }
  if b.flt.stale then b else
  let r := { ftlReport 0x3F with forced := b.flt.forcing == 0x40 }
  let b := enterStalemate 2 0x3F b
  logWrite (logRecord b r errors) b

/-- CLOCK_LOSS: what the always-on logic does without CLK_ROOT. With `hp_blk_up` low the host interface controller answers
the accesses that waited (R30). -/
def clockLoss (b : Block) : Block :=
  if b.flt.clockLost then b else
  emitAll [.faultFatal true, .blkUp false, .ksInvalid true] { b with
    flt := { b.flt with clockLost := true, fatalPin := true },
    hub := { b.hub with blkUp := false, held := [] },
    sec := { b.sec with slots := [], kinv := true } }

/-- CLOCK_RETURN: `hp_blk_up` rises again and the other steps of the stalemate entry run. -/
def clockReturn (b : Block) : Block :=
  if !b.flt.clockLost then b else
  let up := decide (b.pwr.step = 9)
  let b := { b with flt := { b.flt with clockLost := false }, hub := { b.hub with blkUp := up } }
  report (ftlReport 0x24) (if up then emit (.blkUp true) b else b)

/-- ENTROPY_HEALTH_FAIL. -/
def entropyFail (b : Block) : Block := report (ftlReport 0x23) b

/-! ### Actions of forced errors (R356, R362) -/

/-- The oldest released operation of queue `q` with `p`. -/
def oldestOp (b : Block) (q : Nat) (p : Op → Bool) : Option Op := (releasedOps b q).find? p

/-- An operation that carries descriptors; a forced error of source 0x0E takes the oldest of them, else the oldest released
one (DEDUCED, log entry 27). -/
def carries (b : Block) (o : Op) : Bool :=
  !(passesOf b o.oid).isEmpty || decide (0 < o.acks) || o.poll == .reading

/-- The operation fails with MEM_UNCORRECTED, or, with none, the queue halts with it (R362). -/
def failOrHalt (q : Nat) (o : Option Op) (b : Block) : Block :=
  match o with
  | some o => failOp o.oid .memUncorrected b
  | none => haltQueue q .memUncorrected b

/-- A LAUNCH. -/
def isLaunch (o : Op) : Bool := match o.pkt.body with | .launch _ => true | _ => false

/-- Source 0x01: the LAUNCH's entry is dropped and it fails. -/
def forceCache (q : Nat) (b : Block) : Block :=
  let o := oldestOp b q isLaunch
  let b := match o with
    | none => b
    | some o => (match o.pkt.body with
      | .launch l =>
        let drop (_ : Nat) (s : Seqr) : Seqr :=
          { s with progs := s.progs.filter (fun p => !(p.ctx == o.ctx && p.addr == l.progAddr && p.resident)) }
        { b with seq := { b.seq with seqrs := tmap seqrZero b.seq.seqrs drop } }
      | _ => b)
  failOrHalt q o b

/-- Source 0x02: a sequence ends; a turn that contains it aborts and forms again without it, as after a pool failure
(DEDUCED, log entry 27). -/
def forceSeq (i : Nat) (b : Block) : Block :=
  let k := (seqnOf b i).mslot
  let inTurn : Bool := match (loopOf b k).turn with
    | some t => t.rows.any (fun r => r.seq == i)
    | none => false
  let b := endSeq i Status.stateLost.code b
  if inTurn then abortTurn k .pool b else loopEvent k b

/-- The flag a forced error of source 0x04 poisons: that of the queue's oldest failing wait, else one the manual does not
name, a free value. -/
def forceFlag (q : Nat) (b : Block) : Block :=
  let (i, b) : Nat × Block := match oldestWait (failWaits b q) with
    | some w => (w.flag, b)
    | none => ((freeVal 16 b).toNat, useFree b)
  failWaitsOn i { b with flt := { b.flt with badFlags := i :: b.flt.badFlags.filter (· != i) } }

/-- The oldest line that queue `q` holds, in stream order, is poisoned, for every item with bytes in it; whether there was
one. The patch lists and buffers of the fetched submissions come first, then the entries from HEAD on, round the ring (R49). -/
def poisonLine (q : Nat) (b : Block) : Bool × Block :=
  let held (l : Line) : Bool := match l.data with | some (.bytes _) => true | _ => false
  let r := queueOf b q
  let rank (l : Line) : Nat := match l.item with
    | .ring => 2 * b.hub.nextSid + 4
    | .patch s => 2 * s + 2
    | .buf s => 2 * s + 3
    | .tpl s _ => 2 * s + 3
  let place (l : Line) : Nat :=
    if l.item == .ring && decide (l.lo + l.len ≤ entryAddr r r.head) then l.lo + 2 ^ r.ringLog2 * entrySize r.gen2 else l.lo
  let best := (r.lines.filter held).foldl (fun (a : Option Line) l => match a with
    | none => some l
    | some x => if rank l < rank x ∨ (rank l = rank x ∧ place l < place x) then some l else some x) none
  match best with
  | none => (false, b)
  | some x =>
    let bad (l : Line) : Line := if held l && l.lo / 512 == x.lo / 512 then { l with data := some (.bad 3) } else l
    (true, modQueue q (fun r => { r with lines := r.lines.map bad }) b)

/-- Source 0x05: status of the record, and the block. -/
def forceLine (q : Nat) (b : Block) : Status × Block :=
  let (hit, b) := poisonLine q b
  (if hit then .memUncorrected else .ok, b)

/-- Source 0x08: a pass of the queue fails, else the queue halts. -/
def forceData (q : Nat) (b : Block) : Block :=
  match b.seq.seqrs.find? (fun e => e.2.pass.isSome && (match e.2.active with | some k => k.q == q | none => false)) with
  | some e => passFail e.1 .memUncorrected false 0 0 b
  | none => haltQueue q .memUncorrected b

/-- Source 0x10: the core's active piece returned FAULT; a core that holds none is marked failed. -/
def forceCore (c : Nat) (b : Block) : Block :=
  match (coreOf b c).active with
  | some p => coreFault c p b
  | none => coreFailed c b

/-- Source 0x11: a piece of the queue returned POISON. -/
def forcePoison (q : Nat) (b : Block) : Block :=
  let o := oldestOp b q isLaunch
  let off := match o with | some o => packetOff b o | none => 0xFFFFFFFF
  report (uccReport 0x11 3 q .memUncorrected off) (failOrHalt q o b)

/-- Source 0x17: the queue's oldest operation overran its limit. -/
def forceOverrun (q : Nat) (b : Block) : Block :=
  let o := oldestOp b q (fun _ => true)
  let off := match o with | some o => packetOff b o | none => 0xFFFFFFFF
  let b := match o with
    | some o => failOp o.oid .overrunLimit b
    | none => haltQueue q .overrunLimit b
  let b := modSchCtx (ctxOfQueue q) (fun r => { r with overruns := (r.overruns + 1) % 2 ^ 32 }) b
  report (uccReport 0x17 3 q .overrunLimit off) b

/-- Source 0x18: the record of the queue's oldest submission is undeliverable. -/
def forceUndeliverable (q : Nat) (b : Block) : Block :=
  match (queueOf b q).subs with
  | s :: _ => undeliverable q s b
  | [] => report (uccReport 0x18 3 q .complUndeliverable 0xFFFFFFFF)
      (modQueue q (fun r => { r with undeliverable := true }) (enterHalt q .complUndeliverable b))

/-- Source 0x1D: the turn loop whose LAUNCH_TURN the queue holds stops; with none, the queue halts. -/
def forceTurn (q : Nat) (b : Block) : Block :=
  let slot := (b.bat.loops.find? (fun e => match e.2.oid.bind (opOf b) with | some o => o.q == q | none => false)).map (·.1)
  match slot with
  | some k =>
    let l := loopOf b k
    let num := match l.turn with | some t => t.num | none => l.n + 1
    abortTurn k (.failed .turnAborted) (sendAbort k num Status.turnAborted.code none b)
  | none => report (uccReport 0x1D 3 q .turnAborted 0xFFFFFFFF) (haltQueue q .turnAborted b)

/-- Source 0x1E: the slot is BROKEN, as after the loss of a member. -/
def forceMember (k : Nat) (b : Block) : Block :=
  let m := mosOf b k
  let b := report (uccReport 0x1E 5 k .mosaicBroken 0) b
  if m.state == .ready || m.state == .rebinding || m.state == .broken then
    breakColls k (turnLost k (modMos k (fun m => { m with state := .broken }) b))
  else b

/-- Every pool of context `c` fails (R240). -/
def failPoolsOf (c : Nat) (b : Block) : Block :=
  ((b.bat.pools.filter (fun e => e.2.cfgd && e.2.ctx == c)).map (·.1)).foldl (fun b p => failPool p b) b

/-- Sources 0x20 and 0x21: the emergency response, whose end follows as no input is low. -/
def forceEmergency (p : EmergPin) (b : Block) : Block :=
  if b.pwr.emerg.active then report (ceReport (match p with | .thermTrip => 0x20 | .alert => 0x21)) b
  else emergencyRise p (emergencyEntry p b)

/-- The action of an uncorrected SRAM error: the status applied, and the block. `w` is the failing word. -/
def sramAction (s t w : Nat) (b : Block) : Status × Block :=
  match s with
  | 0x01 => (.memUncorrected, forceCache t b)
  | 0x02 => (.stateLost, forceSeq t b)
  | 0x04 => (.memUncorrected, forceFlag t b)
  | 0x05 => forceLine t b
  | 0x06 => (.memUncorrected, forceEntry t b)
  | 0x07 => (.ok, modSch t (fun r => if r.running then { r with lost := true } else { r with loaded := false }) b)
  | 0x08 => (.memUncorrected, forceData t b)
  | 0x09 => (.memUncorrected, haltQueue t .memUncorrected b)
  | 0x0A => (.memUncorrected, (queuesOf t).foldl (fun b q => haltQueue q .memUncorrected b) b)
  | 0x0B => (.stateLost, failPoolsOf t b)
  | 0x0C => (.ok, { b with flt := { b.flt with logRecs := tset [] b.flt.logRecs (w / 4 % 512) [] } })
  | 0x0D => (.ok, { b with flt := { b.flt with dump := tset 0 b.flt.dump (w % 32768) 0 } })
  | 0x0E => (.memUncorrected, failOrHalt t ((oldestOp b t (carries b)).or (oldestOp b t (fun _ => true))) b)
  | _ => (.ok, b)

/-- The SRAM forms: a corrected error has no action; the failing word is a free value. -/
def forceSram (s t : Nat) (ue : Bool) (b : Block) : Block :=
  let w := (freeVal 32 b).toNat
  let b := useFree b
  match srcForm s ue with
  | some (cls, scope) =>
    if !ue then report { ceReport s with detail := w } b else
    let (st, b) := sramAction s t w b
    report { src := s, cls := cls, scope := scope, id := if scope = 0 then 0 else t, status := st, detail := w,
             forced := true, ue := true } b
  | none => b

/-- The error of a source that is no SRAM, as if it had detected it. A forced clock loss does what the always-on logic does at one,
and ends at once (R372; DEDUCED, log entry 27). -/
def forceOther (s t : Nat) (b : Block) : Block :=
  match s with
  | 0x10 => forceCore t b
  | 0x11 => forcePoison t b
  | 0x12 => laneStray b
  | 0x13 => ddStray 0 b
  | 0x14 =>
    let busy := resetting b t
    let b := report (uccReport 0x14 5 t .stateLost 0) b
    if busy then b else startPart t 0x14 none none b
  | 0x15 => hangHalt t b
  | 0x16 =>
    let b' := wcdHaltQueue t b
    report (uccReport 0x16 3 t .waitCycle 0xFFFFFFFF) (if blocked b t then b' else haltQueue t .waitCycle b)
  | 0x17 => forceOverrun t b
  | 0x18 => forceUndeliverable t b
  | 0x19 => tokenAnswer t 1 b
  | 0x1B => if (b.bat.pools.any (fun e => e.2.cfgd && e.2.ctx == t && !e.2.failed)) then failPoolsOf t b
            else report (uccReport 0x1B 4 t .stateLost 0) b
  | 0x1C => startPart t 0x1C none none (report (uccReport 0x1C 5 t .stateLost 0) b)
  | 0x1D => forceTurn t b
  | 0x1E => forceMember t b
  | 0x1F => if b.hub.leaseExpired then report (ceReport 0x1F) b else leaseExpired b
  | 0x20 => forceEmergency .thermTrip b
  | 0x21 => forceEmergency .alert b
  | 0x22 | 0x23 | 0x25 => report (ftlReport s) b
  | 0x24 => clockReturn (clockLoss b)
  | 0x3F => selfFault b
  | _ => report (ceReport s) b

/-- FLT_FORCE with GO: one error of source `s` is injected, or the force is refused and counted (R362). -/
def forceError (s t : Nat) (ue : Bool) (b : Block) : Block :=
  let ok : Bool := match srcForm s ue with
    | none => false
    | some (cls, scope) => !(cls == .ftl && !b.flt.unlock) && memberExists b scope t
  if !ok then { b with flt := { b.flt with refused := satAdd 16 b.flt.refused 1 } } else
  let b := { b with flt := { b.flt with forcing := s + 1 } }
  let b := if isSram s then forceSram s t ue b else forceOther s t b
  { b with flt := { b.flt with forcing := 0 } }

/-! ### The test wrapper (R363) -/

/-- SCAN or MBIST is selected: stalemate with reason TEST comes first, then the image tables and every SRAM but the log, the
dump and the key slots are zeroed. The record of the dump's capture is taken by `captured` before. -/
def testZero (b : Block) : Block :=
  let img := { b.pwr.img with active := none, staged := none }
  { b with
    hub := { hubReset with blkUp := b.hub.blkUp, held := b.hub.held }, dep := depReset, dsp := dspReset, seq := seqReset, bat := batReset,
    fab := { b.fab with epochs := [], map := [], redirects := [] }, sch := schReset, adm := admReset,
    pwr := { b.pwr with img := img } }

/-- UNLOCK: taken once the fuses are read (R395), while TEST_LOCK is 0. -/
def tapUnlock (b : Block) : Block :=
  if b.fuses.testLock || decide (b.pwr.step < 3) then b else { b with flt := { b.flt with unlock := true } }

/-- IDCODE: configuration and stepping as `GLB_ID` reports them. -/
def tapIdcode (b : Block) : Block := emit (.testReg (glbId b)) b

end Sys2Proof.Machine
end

