-- ==== Sys2Proof/Machine/Map.lean ====
section
/-! DEFINITION. The register map: which register, window or ring an offset of BAR0 or BAR2 names (R40, R406, R428 to
R432, R438). -/

namespace Sys2Proof.Machine

/-- The registers of BAR0, in the order of R438. `c` is a context, `q` a global queue, `n` a sequencer, `d` a power
domain, `s` a fault source, `i` and `k` an index of the register's own array, `w` a 64-bit word of a window. -/
inductive Reg where
  | glbId | glbIfrev | glbCap
  | hubCtxState (c : Nat) | hubCtxErr (c : Nat) | hubCtxDbDrop (c : Nat)
  | hubQCfg (q : Nat) | hubQRingBase (q : Nat) | hubQCqBase (q : Nat) | hubQHead (q : Nat) | hubQTail (q : Nat)
  | hubQStatus (q : Nat) | hubQLastSeqno (q : Nat) | hubQNextSeqno (q : Nat)
  | depCtxFlagMap (c i : Nat) | depCtxWaitStatus (c : Nat) | depCtxQWait (q : Nat) | depCtxFlagSel (c : Nat)
  | depCtxFlagData (c : Nat) | depCtxOps (c : Nat)
  | dspStatus | dspAbortCfg | dspCoreSel | dspCoreState | dspSlotSel | dspSlotScratch | dspSlotScratchUse
  | dspLaneStray | dspRedispatch | dspCoreFailed (i : Nat)
  | seqStatus (n : Nat) | seqStall (n : Nat) | seqTimingSlip (n : Nat) | seqDdStatus (n : Nat) | seqPcache (n : Nat)
  | seqFault (n : Nat) | seqDdStray (n : Nat) | seqPasses (n : Nat) | seqQocc (n k : Nat)
  | batStatus | batSeqSel | batSeqData | batPoolSel | batPoolCfg | batPoolBase | batPoolStatus | batMosSel | batMosCfg
  | batMosStatus | batTurnCfg | batTokenStray
  | batCtxTrBase (c : Nat) | batCtxTrCfg (c : Nat) | batCtxTrHead (c : Nat) | batCtxTrStatus (c : Nat)
  | fabStatus | fabRootKey | fabDiscCfg | fabDiscStatus | fabEpochState | fabEpochStray | fabPortSel | fabPortState
  | fabRouteSel | fabRouteData | fabMosSel | fabMosStatus | fabMosCfg | fabMosCtx (i : Nat) | fabMosLinks (i : Nat)
  | fabMigCfg | fabMigStatus | fabFruId | fabFruSerial | fabIdCfg | fabSerdoDrop
  | schCfg | schSlotSel | schBoardStatus | schSlotStatus | schSqOverrun | schSqSel | schSqData | schBwCfg | schBwStatus
  | schCtxShare (c : Nat) | schCtxOvr (c : Nat) | schCtxDebt (c : Nat) | schCtxEngine (c : Nat) | schCtxWait (c : Nat)
  | schCtxPreempt (c : Nat) | schCtxDeficit (c : Nat)
  | secStatus | secIdSel | secIdData | secMeasSel | secMeasData | secSlotSel | secSlotState | secTdCfg | secTdStatus
  | secTdDd | secTdLink (i : Nat) | secTdLate | secAuthFail
  | fltSummary | fltCfg | fltForce | fltTest | fltWdogCfg | fltEscCfg | fltEscStatus | fltStalemate | fltLeaseStatus
  | fltPartStatus | fltLogStatus | fltDumpStatus | fltSrcStatus (s : Nat) | fltLog (w : Nat) | fltDump (w : Nat)
  | pwrPdState | pwrDvfsStatus | pwrDvfsCfg | pwrOpp | pwrLimits | pwrEnvelope | pwrPower | pwrEmerg | pwrImgStatus
  | pwrResetStatus | pwrPdCfg (d : Nat) | pwrPdRec (d : Nat)
  | admCmdTail | admCmdHead | admRplHead | admRplTail | admStatus | admCfg | admDrop
  | hubHostLease | hubFetchCfg | hubFetchStatus | hubSvc | hubDbStray
  | depPageSel | depPageCfg | depWcdCfg | depMempollCfg | depRemoteDrop | depStatus | depWcdCount
  | seqPcacheInv | seqEngine | seqHintCfg
  | cntEngine (c : Nat) | cntWait (c : Nat) | cntPreempt (c : Nat) | cntPower (c : Nat)
deriving DecidableEq, Repr

/-- Registers of a context's page at word `k`, below its dependency block (R75). -/
def ctxPageReg (c k : Nat) : Option Reg :=
  if k < 3 then [Reg.hubCtxState c, .hubCtxErr c, .hubCtxDbDrop c][k]?
  else if k < 32 then none
  else
    let q := 6 * c + (k - 32) / 16
    if 6 ≤ (k - 32) / 16 then none else
    [Reg.hubQCfg q, .hubQRingBase q, .hubQCqBase q, .hubQHead q, .hubQTail q, .hubQStatus q, .hubQLastSeqno q,
     .hubQNextSeqno q][(k - 32) % 16]?

/-- Registers of a context's dependency block, which starts at word 256 of its page, at word `k` of the block (R146). -/
def depBlockReg (c k : Nat) : Option Reg :=
  if k < 4 then some (.depCtxFlagMap c k)
  else if k = 4 then some (.depCtxWaitStatus c)
  else if 8 ≤ k ∧ k < 14 then some (.depCtxQWait (6 * c + (k - 8)))
  else if k = 16 then some (.depCtxFlagSel c)
  else if k = 17 then some (.depCtxFlagData c)
  else if k = 18 then some (.depCtxOps c)
  else none

/-- The DSP region's register at word `k` (R171). -/
def dspReg (k : Nat) : Option Reg :=
  if 32 ≤ k ∧ k < 40 then some (.dspCoreFailed (k - 32)) else
  [Reg.dspStatus, .dspAbortCfg, .dspCoreSel, .dspCoreState, .dspSlotSel, .dspSlotScratch, .dspSlotScratchUse,
   .dspLaneStray, .dspRedispatch][k]?

/-- The register of a sequencer's page at word `k` (R207). -/
def seqReg (n k : Nat) : Option Reg :=
  [Reg.seqStatus n, .seqStall n, .seqTimingSlip n, .seqDdStatus n, .seqPcache n, .seqFault n, .seqDdStray n,
   .seqPasses n, .seqQocc n 0, .seqQocc n 1][k]?

/-- The BAT region's register at word `k`, below the contexts' blocks (R264). -/
def batReg (k : Nat) : Option Reg :=
  [Reg.batStatus, .batSeqSel, .batSeqData, .batPoolSel, .batPoolCfg, .batPoolBase, .batPoolStatus, .batMosSel,
   .batMosCfg, .batMosStatus, .batTurnCfg, .batTokenStray][k]?

/-- The register of a context's token ring at word `k` (R264). -/
def batCtxReg (c k : Nat) : Option Reg :=
  [Reg.batCtxTrBase c, .batCtxTrCfg c, .batCtxTrHead c, .batCtxTrStatus c][k]?

/-- The FAB region's register at word `k` (R310). -/
def fabReg (k : Nat) : Option Reg :=
  [Reg.fabStatus, .fabRootKey, .fabDiscCfg, .fabDiscStatus, .fabEpochState, .fabEpochStray, .fabPortSel, .fabPortState,
   .fabRouteSel, .fabRouteData, .fabMosSel, .fabMosStatus, .fabMosCfg, .fabMosCtx 0, .fabMosCtx 1, .fabMosCtx 2,
   .fabMosCtx 3, .fabMosLinks 0, .fabMosLinks 1, .fabMigCfg, .fabMigStatus, .fabFruId, .fabFruSerial, .fabIdCfg,
   .fabSerdoDrop][k]?

/-- The SCH region's register at word `k`, below the contexts' blocks (R326). -/
def schReg (k : Nat) : Option Reg :=
  [Reg.schCfg, .schSlotSel, .schBoardStatus, .schSlotStatus, .schSqOverrun, .schSqSel, .schSqData, .schBwCfg,
   .schBwStatus][k]?

/-- The register of a context's SCH block at word `k` (R326). -/
def schCtxReg (c k : Nat) : Option Reg :=
  [Reg.schCtxShare c, .schCtxOvr c, .schCtxDebt c, .schCtxEngine c, .schCtxWait c, .schCtxPreempt c,
   .schCtxDeficit c][k]?

/-- The SEC region's register at word `k` (R353). -/
def secReg (k : Nat) : Option Reg :=
  [Reg.secStatus, .secIdSel, .secIdData, .secMeasSel, .secMeasData, .secSlotSel, .secSlotState, .secTdCfg, .secTdStatus,
   .secTdDd, .secTdLink 0, .secTdLink 1, .secTdLate, .secAuthFail][k]?

/-- The FLT region's register or window word at word `k` (R378). -/
def fltReg (k : Nat) : Option Reg :=
  if 0x80 ≤ k ∧ k < 0xC0 then some (.fltSrcStatus (k - 0x80))
  else if 0x4000 ≤ k ∧ k < 0x4800 then some (.fltLog (k - 0x4000))
  else if 0x8000 ≤ k ∧ k < 0x10000 then some (.fltDump (k - 0x8000))
  else [Reg.fltSummary, .fltCfg, .fltForce, .fltTest, .fltWdogCfg, .fltEscCfg, .fltEscStatus, .fltStalemate,
        .fltLeaseStatus, .fltPartStatus, .fltLogStatus, .fltDumpStatus][k]?

/-- Domains that have the two registers of their own: those of the configuration, PD_AON apart (R432). -/
def domListed (b : Block) (d : Nat) : Bool := decide (1 ≤ d) && decide (d < 5 + nSeqrs b / 8)

/-- The PWR region's register at word `k` (R405). -/
def pwrReg (b : Block) (k : Nat) : Option Reg :=
  if 32 ≤ k ∧ k < 64 then (if domListed b (k - 32) then some (.pwrPdCfg (k - 32)) else none)
  else if 64 ≤ k then (if domListed b (k - 64) then some (.pwrPdRec (k - 64)) else none)
  else [Reg.pwrPdState, .pwrDvfsStatus, .pwrDvfsCfg, .pwrOpp, .pwrLimits, .pwrEnvelope, .pwrPower, .pwrEmerg,
        .pwrImgStatus, .pwrResetStatus][k]?

/-- The ADM region's register at word `k` (R426). -/
def admReg (k : Nat) : Option Reg :=
  if k < 0x1000 then
    [Reg.admCmdTail, .admCmdHead, .admRplHead, .admRplTail, .admStatus, .admCfg, .admDrop][k]?
  else if k < 0x1020 then
    [Reg.hubHostLease, .hubFetchCfg, .hubFetchStatus, .hubSvc, .hubDbStray][k - 0x1000]?
  else if k < 0x1040 then
    [Reg.depPageSel, .depPageCfg, .depWcdCfg, .depMempollCfg, .depRemoteDrop, .depStatus, .depWcdCount][k - 0x1020]?
  else [Reg.seqPcacheInv, .seqEngine, .seqHintCfg][k - 0x1040]?

/-- The register of a context's CNT page at word `k` (R326). -/
def cntReg (c k : Nat) : Option Reg := [Reg.cntEngine c, .cntWait c, .cntPreempt c, .cntPower c][k]?

/-- Word `k` of a region whose contexts' blocks of `n` words start at 0x8000. -/
def blocks (b : Block) (n k : Nat) (low : Nat → Option Reg) (ctx : Nat → Nat → Option Reg) : Option Reg :=
  if k < 0x1000 then low k
  else if (k - 0x1000) / n < nContexts b then ctx ((k - 0x1000) / n) ((k - 0x1000) % n)
  else none

/-- The register at word `k` of region `r` (R429); none where the offset is reserved (R431, R432). -/
def regionReg (b : Block) (r k : Nat) : Option Reg :=
  match r with
  | 0 => [Reg.glbId, .glbIfrev, .glbCap][k]?
  | 1 => if nContexts b ≤ k / 512 then none
         else if k % 512 < 256 then ctxPageReg (k / 512) (k % 512)
         else depBlockReg (k / 512) (k % 512 - 256)
  | 2 => dspReg k
  | 3 => if k / 2048 < nSeqrs b then seqReg (k / 2048) (k % 2048) else none
  | 4 => blocks b 4 k batReg batCtxReg
  | 5 => fabReg k
  | 6 => blocks b 8 k schReg schCtxReg
  | 7 => secReg k
  | 8 => fltReg k
  | 9 => pwrReg b k
  | 10 => admReg k
  | 11 => if k / 512 < nContexts b then cntReg (k / 512) (k % 512) else none
  | _ => none

/-- The register at BAR0 offset `a`; a register starts on an 8-byte boundary (R70). -/
def regAt (b : Block) (a : Nat) : Option Reg :=
  if a % 8 = 0 then regionReg b (a / 0x100000) (a % 0x100000 / 8) else none

/-- The power domain that holds the registers at BAR0 offset `a`, where R433 asks whether it is ON. -/
def regDomain (a : Nat) : Nat :=
  match a / 0x100000 with
  | 3 => 5 + a % 0x100000 / 0x4000 / 8
  | 4 => 2
  | 5 => 3
  | 7 => 4
  | _ => 0

/-- The regions whose reads are answered in stalemate: GLB, FLT and PWR (R429, R436). -/
def staleReadable (a : Nat) : Bool := a / 0x100000 == 0 || a / 0x100000 == 8 || a / 0x100000 == 9

/-! ### BAR2 (R40, R406, R428) -/

/-- What an offset of BAR2 names: a tail doorbell or a completion-ring head doorbell of a global queue, a 64-bit word of
the command ring or of the reply ring. -/
inductive Bar2 where
  | tail (q : Nat)
  | cqHead (q : Nat)
  | cmd (w : Nat)
  | rpl (w : Nat)
deriving DecidableEq, Repr

/-- The doorbell at byte `o` of context `c`'s page (R40). -/
def pageBell (c o : Nat) : Option Bar2 :=
  if o % 8 ≠ 0 then none
  else if o < 48 then some (.tail (6 * c + o / 8))
  else if 0x100 ≤ o ∧ o < 0x130 then some (.cqHead (6 * c + (o - 0x100) / 8))
  else none

/-- What BAR2 offset `a` names; none where it is reserved (R428, R432). -/
def bar2At (b : Block) (a : Nat) : Option Bar2 :=
  if a < 0x100000 then (if a / 0x1000 < nContexts b then pageBell (a / 0x1000) (a % 0x1000) else none)
  else if a % 8 ≠ 0 then none
  else if a < 0x120000 then some (.cmd ((a - 0x100000) / 8))
  else if a < 0x140000 then some (.rpl ((a - 0x120000) / 8))
  else none

end Sys2Proof.Machine
end

