-- ==== Sys2Proof/Machine/RegRead.lean ====
section
/-! DEFINITION. What a read of each register returns, and what it clears (R11, R75, R146, R171, R207, R264, R310, R326,
R353, R379, R405, R426). -/

namespace Sys2Proof.Machine

/-- A signed number in `w` bits, two's complement. -/
def twos (w : Nat) (x : Int) : Nat := (x % (2 ^ w : Nat)).toNat

/-- One bit for each class index of context `c` with `p`. -/
def classMask (c : Nat) (p : Nat → Bool) : Nat :=
  ((List.range 6).map (fun k => at_ (b2n (p (6 * c + k))) k)).foldl (· + ·) 0

/-! ### HUB (R75) -/

/-- Code of a context state. -/
def CtxState.code : CtxState → Nat
  | .free => 0
  | .active => 1
  | .tearingDown => 2

/-- Code of a queue state. -/
def QState.code : QState → Nat
  | .disabled => 0
  | .idle => 1
  | .active => 2
  | .halted => 3

/-- `HUB_CTX_STATE`. -/
def hubCtxState (b : Block) (c : Nat) : Nat :=
  let r := ctxOf b c
  at_ r.ast 12 + at_ r.state.code 8 + b2n r.service

/-- `HUB_CTX_ERR`. -/
def hubCtxErr (b : Block) (c : Nat) : Nat := at_ (b2n (ctxOf b c).msiErr) 8 + (ctxOf b c).haltEvt

/-- `HUB_Q_CFG`. -/
def hubQCfg (b : Block) (q : Nat) : Nat :=
  let r := queueOf b q
  at_ r.pfLines 24 + at_ r.cqLog2 16 + at_ r.ringLog2 8 + at_ (b2n r.gen2) 1 + b2n (r.state != .disabled)

/-- `HUB_Q_HEAD`. -/
def hubQHead (b : Block) (q : Nat) : Nat :=
  let r := queueOf b q
  at_ (b2n r.cqPhase) 32 + at_ r.cqTail 16 + r.head

/-- `HUB_Q_TAIL`. -/
def hubQTail (b : Block) (q : Nat) : Nat :=
  let r := queueOf b q
  at_ (b2n r.pending) 32 + at_ r.cqHead 16 + r.tail

/-- LEASE_STOP of queue `q`: the expiry sets it in every queue, whatever its state, and it stays set until the renewal
(R374). -/
def leaseStopOf (b : Block) (q : Nat) : Bool :=
  (queueOf b q).leaseStop || b.hub.leaseExpired

/-- `HUB_Q_LAST_SEQNO` (R75). -/
def hubQLastSeqno (r : QueueRec) : Nat := if r.undeliverable then r.failSeqno else r.lastSeqno

/-- `HUB_Q_STATUS`. -/
def hubQStatus (b : Block) (q : Nat) : Nat :=
  let r := queueOf b q
  at_ (if r.state == .halted then r.cause.code else 0) 8 + at_ (b2n r.undeliverable) 4 + at_ (b2n (leaseStopOf b q)) 3
  + at_ (b2n r.armed) 2 + r.state.code

/-- `HUB_Q_NEXT_SEQNO`. -/
def hubQNextSeqno (b : Block) (q : Nat) : Nat := at_ (b2n (queueOf b q).any) 48 + (queueOf b q).expected

/-- `HUB_FETCH_STATUS`. -/
def hubFetchStatus (b : Block) : Nat := at_ (sharedUsed b) 32 + b.hub.reads.length

/-- `HUB_SVC`. -/
def hubSvc (b : Block) : Nat :=
  at_ (b2n b.hub.svcValid) 11 + at_ (b.hub.svcQueue.getD 0) 8 + b.hub.svcCtx

/-! ### DEP (R146) -/

/-- Queue `q` has a failing memory wait. A released memory wait counts from its release, before the first answer to its poll
too (the spec leaves this open; DESIGN CHOICE, log entry 47). -/
def memWaiting (b : Block) (q : Nat) : Bool := b.dep.ops.any (fun o => o.q == q && isMemWait o)

/-- `DEP_CTX_WAIT_STATUS`. -/
def depCtxWaitStatus (b : Block) (c : Nat) : Nat :=
  at_ (tget 0 b.dep.wcdHalt c) 24 + at_ (classMask c (memWaiting b)) 16
  + at_ (classMask c (fun q => b.dep.candidate.contains q)) 8 + classMask c (blocked b)

/-- The failing waits of queue `q` as (release order, KIND, OFFSET), on-block and memory. -/
def allWaits (b : Block) (q : Nat) : List (Nat × Nat × Nat) :=
  (failWaits b q).map (fun w => match w.off with
    | some o => (w.relNo, 0, o)
    | none => (w.relNo, 2, 0xFFFFFFFF))
  ++ (b.dep.ops.filter (fun o => o.q == q && isMemWait o)).map (fun o => (o.relNo, 1, o.off))

/-- The entry with the least release number. -/
def leastRel : List (Nat × Nat × Nat) → Option (Nat × Nat × Nat)
  | [] => none
  | x :: xs => match leastRel xs with
    | none => some x
    | some y => if x.1 ≤ y.1 then some x else some y

/-- `DEP_CTX_Q_WAIT`: KIND and OFFSET are the queue's oldest failing wait, FLAG that of its oldest on-block one. -/
def depCtxQWait (b : Block) (q : Nat) : Nat :=
  let flag := match oldestWait (failWaits b q) with | some w => w.flag | none => 0
  match leastRel (allWaits b q) with
  | none => 0
  | some (_, kind, off) => at_ flag 48 + at_ 1 35 + at_ kind 33 + off

/-- `DEP_CTX_FLAG_SEL`: CLOSED where the flag's page is not open to the context; it reads its reset value 0 for a context that is
FREE (R438; DEDUCED, log entry 30). -/
def depCtxFlagSel (b : Block) (c : Nat) : Nat :=
  let i := tget 0 b.dep.flagSel c
  at_ (b2n ((ctxOf b c).state != .free && !flagAllowed b c i)) 16 + i

/-- `DEP_CTX_FLAG_DATA`: zero for a page that is not open. -/
def depCtxFlagData (b : Block) (c : Nat) : Nat :=
  let i := tget 0 b.dep.flagSel c
  if flagAllowed b c i then (flagOf b i).toNat else 0

/-- `DEP_CTX_OPS`. -/
def depCtxOps (b : Block) (c : Nat) : Nat :=
  at_ (ctxWaiters b c) 32 + (b.dep.ops.filter (fun o => o.live && o.ctx == c)).length

/-- `DEP_PAGE_CFG`. -/
def depPageCfg (b : Block) : Nat :=
  let p := tget pageZero b.dep.pages b.dep.pageSel
  at_ p.slot 8 + at_ (b2n p.detect) 1 + b2n p.remote

/-- `DEP_STATUS`. -/
def depStatus (b : Block) : Nat := at_ (waitEntries b) 32 + at_ (memWaits b) 16 + liveOps b

/-! ### DSP (R171) -/

/-- `DSP_STATUS`. -/
def dspStatus (b : Block) : Nat :=
  let cores := List.range (nCores b)
  at_ (cores.filter (fun k => (coreOf b k).failed)).length 48
  + at_ (cores.filter (fun k => !coreFree b k)).length 32 + b.dsp.jobs.length

/-- The mosaic slot of which core `k` is a CORE tessera. -/
def coreSlot (b : Block) (k : Nat) : Option Nat := (b.fab.slots.find? (fun e => bitOf e.2.cores k)).map (·.1)

/-- The context of the piece that lane `l` holds in a bank. -/
def laneCtx (l : Nat) (k : Option Bank) : Option Nat := match k with
  | some k => if k.lanes.any (fun x => x.1 == l) || k.chunk.isSome then some k.ctx else none
  | none => none

/-- STATE of a core (R171). A piece placed on a free core reads as preloaded until its bank has swapped (DESIGN CHOICE, log entry
47). -/
def coreState (b : Block) (k : Nat) : Nat :=
  let r := coreOf b k
  if (laneOf (seqrOf b (k / 8)) (k % 8)).abReq then 3
  else if r.next.isSome then 2
  else if r.active.isSome then 1
  else 0

/-- `DSP_CORE_STATE` of core `k`. -/
def dspCoreState (b : Block) (k : Nat) : Nat :=
  if nCores b ≤ k then 0 else
  let r := coreOf b k
  let slot := coreSlot b k
  let s := seqrOf b (k / 8)
  let st := coreState b k
  let ctx := match laneCtx (k % 8) s.active with
    | some c => c
    | none => (laneCtx (k % 8) s.shadow).getD 0
  at_ (b2n slot.isSome) 63 + at_ (b2n r.unbinding) 62 + at_ (b2n r.failed) 61 + at_ (slot.getD 0) 48 + at_ st 40
  + at_ r.lastStatus 32 + (if st = 0 then 0 else ctx)

/-- The scratch slots of slot `k` that tile reservations hold: all that are held but for those of COLLECTIVEs (R171, R308). -/
def reservedSlots (b : Block) (k : Nat) : List Nat :=
  (tget [] b.dsp.scratch k).filter (fun i => !(b.fab.colls.any (fun c => c.slot == k && c.slots.contains i)))

/-- `DSP_SLOT_SCRATCH_USE` of slot `k`. -/
def dspSlotScratchUse (b : Block) (k : Nat) : Nat := at_ (reservedSlots b k).length 32 + (mosOf b k).scratchSlots

/-- `DSP_CORE_FAILEDi`. -/
def dspCoreFailed (b : Block) (i : Nat) : Nat :=
  ((List.range 64).map (fun j => at_ (b2n (coreOf b (64 * i + j)).failed) j)).foldl (· + ·) 0

/-! ### SEQ (R207) -/

/-- STATE of a sequencer: its pass while it runs; else whether the program of the bank to run next is still being fetched. -/
def seqStateCode (s : Seqr) : Nat :=
  match s.pass.filter (fun p => !p.ended) with
  | some p => if p.abort || p.fail.isSome then 5 else
    (match p.kind with | .program => 2 | .combine => 3 | .chunk => 4)
  | none =>
    let next := if bankFree s then s.shadow else s.active
    if next.any (fun k => !bankRuns s k) then 1 else 0

/-- `SEQ_STATUS`. -/
def seqStatus (b : Block) (n : Nat) : Nat :=
  let s := seqrOf b n
  let bank := match s.active with
    | some k => at_ k.ctx 56 + at_ (laneMask k) 48 + at_ k.role.code 44
    | none => 0
  let pcs := match s.pass with
    | some p => at_ p.exe.pc 16 + p.acc.pc
    | none => 0
  bank + at_ (b2n s.shadow.isSome) 35 + at_ (seqStateCode s) 32 + pcs

/-- `SEQ_STALL`. -/
def seqStall (b : Block) (n : Nat) : Nat :=
  let a := stallOf b n false
  let e := stallOf b n true
  at_ (fld e.2 0 6) 26 + at_ (fld a.2 0 6) 20 + at_ e.1 8 + a.1

/-- `SEQ_PCACHE`. -/
def seqPcache (b : Block) (n : Nat) : Nat :=
  let ps := (seqrOf b n).progs
  at_ (ps.filter (·.resident)).length 32 + (ps.map progBlocks).foldl (· + ·) 0

/-- `SEQ_FAULT`. -/
def seqFault (b : Block) (n : Nat) : Nat :=
  let f := (seqrOf b n).fault
  at_ (b2n f.valid) 40 + at_ f.status.code 32 + at_ (b2n f.exe) 19 + at_ f.lane 16 + f.pc

/-- `SEQ_QOCCk`. -/
def seqQocc (b : Block) (n k : Nat) : Nat :=
  match (seqrOf b n).pass with
  | some p => ((List.range 8).map (fun j => at_ (queueQ p (8 * k + j)).length (8 * j))).foldl (· + ·) 0
  | none => 0

/-! ### BAT (R236, R264) -/

/-- Code of a sequence state (R235). -/
def SeqState.code : SeqState → Nat
  | .free => 0
  | .joining => 1
  | .active => 2
  | .parked => 3
  | .ended => 4
  | .leaving => 5

/-- Word `k` of the table entry of sequence `i` (R236). -/
def seqEntryWord (b : Block) (i k : Nat) : Nat :=
  let s := seqnOf b i
  match k with
  | 0 => at_ s.state.code 29 + at_ (b2n s.retire) 28 + at_ s.prio 26 + at_ s.draft 23 + at_ s.pool 16 + i
  | 1 => at_ s.reason 24 + at_ s.ctx 16 + at_ s.mslot 8 + s.depth
  | 2 => fld s.pos 0 32
  | 3 => fld s.pos 32 8
  | 4 => fld s.gen 0 32
  | 5 => fld s.gen 32 8
  | 6 => fld s.maxTok 0 32
  | 7 => fld s.maxTok 32 8
  | 8 => s.promptLen
  | 9 => s.stops.length
  | 10 => fld s.promptAddr 0 32
  | 11 => fld s.promptAddr 32 32
  | 12 => s.pend
  | 13 => s.pages
  | 14 => fld s.resvEnd 0 32
  | 15 => fld s.resvEnd 32 8
  | 24 => fld s.mapRoot 0 32
  | 25 => fld s.mapRoot 32 32
  | 26 => fld s.order 0 32
  | 27 => s.turnT
  | 28 => fld s.lastTurn 0 32
  | 29 => fld s.lastTurn 32 32
  | k => if 16 ≤ k ∧ k < 24 then s.stops.getD (k - 16) 0 else 0

/-- Sequences in a state. -/
def seqCount (b : Block) (st : SeqState) : Nat := (b.bat.seqs.filter (fun e => e.2.state == st)).length

/-- `BAT_STATUS`. -/
def batStatus (b : Block) : Nat := at_ (seqCount b .parked) 32 + at_ (seqCount b .joining) 16 + seqCount b .active

/-- `BAT_SEQ_DATA`. -/
def batSeqData (b : Block) : Nat :=
  let i := b.bat.seqSel
  if nSequences b ≤ i then 0 else
  at_ (seqEntryWord b i (2 * b.bat.pairSel + 1)) 32 + seqEntryWord b i (2 * b.bat.pairSel)

/-- `BAT_POOL_CFG`. -/
def batPoolCfg (b : Block) : Nat :=
  let p := poolOf b b.bat.poolSel
  if p.cfgd then at_ p.pages 32 + at_ p.pageLog2 24 + at_ p.slot 16 + at_ p.ctx 8 else 0

/-- `BAT_POOL_BASE`. -/
def batPoolBase (b : Block) : Nat :=
  let p := poolOf b b.bat.poolSel
  if p.cfgd then p.base / 4096 * 4096 else 0

/-- `BAT_POOL_STATUS`. -/
def batPoolStatus (b : Block) : Nat :=
  let p := poolOf b b.bat.poolSel
  at_ (b2n p.failed) 63 + (if p.cfgd then at_ (p.pageTok - 1) 32 + p.free else 0)

/-- LOOP of a mosaic's turn loop. -/
def loopCode (l : Loop) : Nat :=
  if l.turn.isSome then 1 else if l.oid.isNone then 0 else if l.leaseHeld then 3 else 2

/-- `BAT_MOS_CFG`. -/
def batMosCfg (b : Block) : Nat := at_ (loopOf b b.bat.mosSel).turnTokens 32 + (loopOf b b.bat.mosSel).chunk

/-- `BAT_MOS_STATUS` of slot `k`. -/
def batMosStatus (b : Block) (k : Nat) : Nat :=
  let l := loopOf b k
  at_ l.aborts 48 + at_ (loopCode l) 44 + at_ (b2n (leads b k)) 43 + fld l.n 0 40

/-- `BAT_CTX_TR_STATUS`. -/
def batCtxTrStatus (b : Block) (c : Nat) : Nat :=
  let r := ringOf b c
  at_ r.dropped 48 + at_ (b2n r.undel) 33 + at_ (b2n r.phase) 32 + r.tail

/-! ### FAB (R310) -/

/-- Code of a mosaic slot state (R270). -/
def MosState.code : MosState → Nat
  | .free => 0
  | .created => 1
  | .joining => 2
  | .keying => 3
  | .ready => 4
  | .rebinding => 5
  | .broken => 6
  | .releasing => 7

/-- Code of an epoch table slot's state. -/
def EpState.code : EpState → Nat
  | .free => 0
  | .loading => 1
  | .prepared => 2
  | .current => 3
  | .draining => 4
  | .drained => 5

/-- `FAB_STATUS`. -/
def fabStatus (b : Block) : Nat :=
  let f := b.fab
  at_ (b2n (f.phase == 8)) 63 + at_ (b2n f.isRoot) 62 + at_ f.node 48 + at_ f.phase 44 + at_ f.epoch 36
  + at_ f.rootNode 16 + (f.slots.filter (fun e => e.2.state != .free)).length

/-- `FAB_DISC_CFG`. -/
def fabDiscCfg (b : Block) : Nat := at_ b.fab.train 32 + at_ b.fab.waveLog2 24

/-- `FAB_DISC_STATUS`. -/
def fabDiscStatus (b : Block) : Nat :=
  let f := b.fab
  at_ f.restarts 56 + at_ f.error 52 + at_ f.pinMode 50 + at_ (fld f.height 0 6) 40 + at_ f.nodes 16

/-- A change that this chip has asked the root for has not reached it yet: the masks of a bind or rebind, or the redirect of a
migration. -/
def epochAsked (b : Block) : Bool :=
  let held (p : Epoch → Bool) : Bool := b.fab.epochs.any (fun e =>
    (e.2.state == .prepared || e.2.state == .current) && p e.2)
  b.fab.slots.any (fun s => (s.2.bind.isSome || s.2.rebind.any (fun r => r.step == 4 && r.waits))
    && !held (fun e => tget 0 e.masks s.1 == s.2.links))
  || b.fab.mig.any (fun m => m.phase == 4 && !held (fun e => tget none e.redirects m.src == some (m.dstNode, m.dstChan)))

/-- A change waits for a free slot or for a SWITCH: at the root, or a change of this chip that the root cannot start
(R274, R286). -/
def epochWaits (b : Block) : Bool :=
  !b.fab.waiting.isEmpty || (epochAsked b && !changeOpen b) || b.fab.epochs.any (fun e => e.2.state == .loading || e.2.state == .prepared)

/-- `FAB_EPOCH_STATE`. -/
def fabEpochState (b : Block) : Nat :=
  at_ (b2n (epochWaits b)) 32
  + ((List.range 4).map (fun k =>
      at_ (epochOf b k).tag (8 * k + 5) + at_ (epochOf b k).state.code (8 * k))).foldl (· + ·) 0

/-- The current epoch's table. -/
def epochNow (b : Block) : Epoch := epochOf b (b.fab.epoch % 4)

/-- The slot whose LINK tessera port `p` is in the current epoch. -/
def portSlot (b : Block) (p : Nat) : Option Nat := ((epochNow b).masks.find? (fun e => bitOf e.2 p)).map (·.1)

/-- `FAB_PORT_STATE` of port `p`. -/
def fabPortState (b : Block) (p : Nat) : Nat :=
  if nPorts b ≤ p then 0 else
  let r := portOf b p
  let slot := portSlot b p
  at_ (b2n r.up) 63 + at_ (b2n r.hello) 62 + at_ r.ver 60 + at_ (b2n r.present) 59 + at_ r.mstate 56 + at_ r.media 48
  + at_ r.maxpwr 40 + at_ r.ident 32 + at_ r.peerNode 16 + at_ r.peerPort 8 + at_ (b2n slot.isSome) 7 + slot.getD 0

/-- `FAB_ROUTE_DATA`. -/
def fabRouteData (b : Block) : Nat :=
  tget 0 (epochOf b (fld b.fab.routeSel 16 2)).routes (fld b.fab.routeSel 0 14)

/-- `FAB_MOS_STATUS` of slot `k`. -/
def fabMosStatus (b : Block) (k : Nat) : Nat :=
  let m := mosOf b k
  at_ m.id 48 + at_ m.state.code 45 + at_ m.last 37 + at_ (leaderOf b k) 16 + m.members.length

/-- `FAB_MOS_CFG` of slot `k`. -/
def fabMosCfg (b : Block) (k : Nat) : Nat := at_ (mosOf b k).collCtx 32 + fld (mosOf b k).gen 0 32

/-- `FAB_MOS_LINKS0` and `FAB_MOS_LINKS1`. -/
def fabMosLinks (b : Block) (i : Nat) : Nat := fld (tget 0 (epochNow b).masks b.fab.mosSel) (64 * i) 64

/-- PHASE of a migration. -/
def migPhase (m : Mig) : Nat :=
  if m.phase ≤ 1 then 1 else if m.phase ≤ 3 then 2 else if m.phase ≤ 5 then 3 else 4

/-- `FAB_MIG_STATUS`. -/
def fabMigStatus (b : Block) : Nat :=
  match b.fab.mig with
  | none => 0
  | some m => at_ 1 63 + at_ (migPhase m) 60 + at_ m.slot 54 + at_ m.src 48 + at_ m.dstNode 34 + at_ m.dstChan 28
      + at_ (min m.pass 15) 24 + dirtyCount m.dirty

/-- `FAB_FRU_ID`. -/
def fabFruId (b : Block) : Nat :=
  let f := b.fab.fru
  at_ (b2n f.valid) 63 + at_ (b2n f.pinned) 62 + at_ f.pin 48 + at_ f.cooling 40 + at_ f.power 16 + f.slot

/-- `FAB_SERDO_DROP`. -/
def fabSerdoDrop (b : Block) : Nat :=
  at_ b.fab.dropAuth 48 + at_ b.fab.dropReplay 32 + at_ b.fab.dropNoroute 16 + b.fab.dropOverflow

/-! ### SCH and CNT (R324 to R326) -/

/-- `SCH_BOARD_STATUS` of slot `k`; COUNT is zero while the slot is FREE. -/
def schBoardStatus (b : Block) (k : Nat) : Nat :=
  let s := schOf b k
  at_ (fld s.rounds 0 32) 32 + at_ (b2n (s.running && !s.loaded)) 31 + at_ (b2n s.waiting.isSome) 30
  + (if s.running then at_ s.square 16 else 0) + (boardOf b k).length

/-- `SCH_SLOT_STATUS` of slot `k`; OWNER, RT and LENT read zero where it runs no board. -/
def schSlotStatus (b : Block) (k : Nat) : Nat :=
  let s := schOf b k
  let owner := if s.running then rtOwner b k else none
  let left := if s.running then s.start + sqCycles (squareNow b k) - hubNow b else 0
  at_ ((headOf b k).getD 0) 40 + at_ (b2n (!s.active.isEmpty)) 39 + at_ (b2n (owner.isSome && lent b k)) 33
  + at_ (b2n owner.isSome) 32 + at_ (owner.getD 0) 24 + fld left 0 24

/-- `SCH_SQ_DATA`. -/
def schSqData (b : Block) : Nat :=
  (boardOf b b.sch.slotSel).getD b.sch.sqSel 0

/-- `SCH_BW_CFG`: the values last written. -/
def schBwCfg (b : Block) : Nat :=
  let c := (schOf b b.sch.slotSel).bwNext
  at_ (b2n c.en) 63 + at_ c.burst 32 + c.rate

/-- `SCH_BW_STATUS` of slot `k`. -/
def schBwStatus (b : Block) (k : Nat) : Nat := at_ (twos 32 (schOf b k).level) 32 + (schOf b k).hold

/-- A value of the tenant's page: zero unless the context is ACTIVE (R325). -/
def cntVal (b : Block) (c x : Nat) : Nat := if (ctxOf b c).state == .active then x else 0

/-! ### SEC (R353) -/

/-- `SEC_STATUS`. -/
def secStatus (b : Block) : Nat :=
  let s := b.sec
  at_ (b2n s.idkValid) 63 + at_ (b2n s.cert0) 62 + at_ (s.sessions.filter (·.done)).length 59
  + at_ s.bindings.length 32 + at_ (s.slots.filter (fun e => e.2.state != .empty)).length 16 + at_ s.spdmErr 8

/-- Code of a key slot's state. -/
def KeyState.code : KeyState → Nat
  | .empty => 0
  | .loaded => 1
  | .revoking => 2

/-- `SEC_SLOT_STATE`. -/
def secSlotState (b : Block) : Nat :=
  let h := b.sec.slotSel
  let k := keyOf b h
  at_ k.state.code 62 + at_ (b.sec.bindings.filter (fun x => x.handle == h)).length 48
  + (if k.state == .empty then 0 else at_ k.ctx 8)

/-- `SEC_MEAS_DATA`: index in [15:8] of the selector, word in [2:0]. -/
def secMeasData (b : Block) : Nat :=
  leNat (slice (measurement b (fld b.sec.measSel 8 8)) (8 * fld b.sec.measSel 0 3) 8)

/-- A revoke awaits `tr_ack` after its bound (R350). -/
def trDeferred (b : Block) : Bool := match b.sec.tr with
  | some r => r.op == 0 && r.expired
  | none => false

/-- `SEC_TD_STATUS`. -/
def secTdStatus (b : Block) : Nat :=
  let step := match b.sec.tds.find? (fun t => t.step != 0) with | some t => t.step | none => 0
  at_ (b2n (!b.sec.tds.isEmpty)) 63 + at_ step 60 + at_ (b2n (trDeferred b)) 59 + at_ (b2n b.sec.tdTimeout) 58
  + at_ b.sec.tdCtx 32 + min b.sec.tdDrain (2 ^ 32 - 1)

/-! ### FLT (R375, R379) -/

/-- `FLT_SUMMARY`. -/
def fltSummary (b : Block) : Nat :=
  at_ b.flt.lastSrc 8 + at_ (b2n b.flt.stale) 2 + at_ (b2n b.flt.sumUcc) 1 + b2n b.flt.sumCe

/-- Stamps within the window that ends at the newest. -/
def inWindow (b : Block) : Nat :=
  match b.flt.stamps.getLast? with
  | none => 0
  | some t => (b.flt.stamps.filter (fun x => decide (t ≤ x + 2 ^ b.flt.escLog2))).length

/-- `FLT_ESC_STATUS`. -/
def fltEscStatus (b : Block) : Nat := at_ b.flt.stalemates 48 + at_ (min (inWindow b) 15) 32 + b.flt.partResets

/-- `FLT_STALEMATE`. -/
def fltStalemate (b : Block) : Nat :=
  at_ (b2n b.flt.stale) 63 + at_ b.flt.reason 48 + at_ b.flt.src 40 + b.flt.entry

/-- CLK_REF cycles left before the lease expires. -/
def leaseLeft (b : Block) : Nat := match b.flt.leaseDead with
  | some t => t - refNow b
  | none => 0

/-- `FLT_LEASE_STATUS`. -/
def fltLeaseStatus (b : Block) : Nat :=
  at_ (b2n b.hub.leaseExpired) 63 + at_ (b2n b.flt.leaseOff) 62 + at_ b.flt.leaseLog2 56 + at_ b.flt.expiries 32
  + leaseLeft b

/-- `FLT_PART_STATUS`. -/
def fltPartStatus (b : Block) : Nat :=
  ((List.range 64).map (fun k => at_ (b2n (tget none b.flt.parts k).isSome) k)).foldl (· + ·) 0

/-- `FLT_LOG_STATUS`. -/
def fltLogStatus (b : Block) : Nat := at_ (fld b.flt.written 0 32) 32 + b.flt.written % 512

/-- `FLT_DUMP_STATUS`. -/
def fltDumpStatus (b : Block) : Nat :=
  at_ (b2n b.flt.dumpValid) 63 + at_ (b2n b.flt.dumpLocked) 62 + at_ b.flt.dumpReason 48 + at_ (min b.flt.captures 65535) 32

/-- `FLT_SRC_STATUSs`. -/
def fltSrcStatus (b : Block) (s : Nat) : Nat :=
  let r := tget srcZero b.flt.srcs s
  at_ (b2n r.active) 63 + at_ r.cls.code 61 + at_ r.scope 58 + at_ r.recov 32 + r.errors

/-- Word `w` of the log window: four words a record (R375, R437). -/
def fltLog (b : Block) (w : Nat) : Nat := leNat (slice (tget [] b.flt.logRecs (w / 4)) (8 * (w % 4)) 8)

/-- Word `w` of the dump window (R376, R437). -/
def fltDump (b : Block) (w : Nat) : Nat := if b.flt.dumpValid then tget 0 b.flt.dump w else 0

/-! ### PWR (R405) -/

/-- Code of a power domain's state. -/
def DomSt.code : DomSt → Nat
  | .off => 0
  | .ret => 1
  | .on => 2
  | .leaving | .entering => 3

/-- `PWR_PD_STATE`. -/
def pwrPdState (b : Block) : Nat :=
  2 + ((List.range 12).map (fun i => at_ (domOf b (i + 1)).st.code (2 * (i + 1)))).foldl (· + ·) 0

/-- `PWR_DVFS_STATUS`. -/
def pwrDvfsStatus (b : Block) : Nat :=
  let d := b.pwr.dvfs
  at_ d.refused 48 + at_ d.fails 32 + at_ (b2n d.running) 31 + at_ (b2n d.deferred) 30
  + at_ (b2n (d.governed && decide (d.target < b.time.divStep))) 29
  + at_ d.target 24 + at_ b.time.divStep 20 + d.volt

/-- `PWR_OPP`. -/
def pwrOpp (b : Block) : Nat := ((List.range 5).map (fun k => at_ (oppVolt b k) (12 * k))).foldl (· + ·) 0

/-- `PWR_ENVELOPE`. -/
def pwrEnvelope (b : Block) : Nat :=
  at_ (fld (ceilingW b) 0 16) 48 + at_ (if b.fab.fru.valid then b.fab.fru.power else 0) 32 + b.pwr.ceiling

/-- `PWR_POWER`. -/
def pwrPower (b : Block) : Nat := at_ (fld b.pwr.samples 0 32) 32 + fld b.pwr.milliwatts 0 32

/-- `PWR_EMERG`. -/
def pwrEmerg (b : Block) : Nat :=
  let e := b.pwr.emerg
  at_ (b2n e.active) 63 + at_ (b2n e.trip) 62 + at_ (b2n e.alert) 61 + at_ (b2n b.pwr.dvfs.hold) 60 + at_ e.entries 32
  + e.clearHold

/-- `PWR_IMG_STATUS`. -/
def pwrImgStatus (b : Block) : Nat :=
  let i := b.pwr.img
  at_ (b2n i.staged.isSome) 63 + at_ (b2n i.pendingAct.isSome) 62 + at_ (b2n i.recovery) 61 + at_ i.bank 60
  + at_ (b2n i.fallback) 59 + at_ b.pwr.ifrev 40 + at_ (match i.staged with | some m => m.major | none => 0) 32
  + at_ (match i.active with | some m => m.svn | none => 0) 16 + at_ i.lastStatus 8 + i.romErr

/-- `PWR_RESET_STATUS`. -/
def pwrResetStatus (b : Block) : Nat := at_ (b2n b.pwr.warm) 63 + min b.pwr.startCycles (2 ^ 32 - 1)

/-- `PWR_PD_CFGd`. -/
def pwrPdCfg (b : Block) (d : Nat) : Nat :=
  let m := domOf b d
  at_ (b2n m.idleEn) 32 + at_ (b2n m.idleOff) 24 + m.idle

/-- `PWR_PD_RECd`. -/
def pwrPdRec (b : Block) (d : Nat) : Nat :=
  let m := domOf b d
  at_ m.refused 48 + at_ m.refuser 44 + at_ m.lastWake 40 + m.wakes

/-! ### ADM (R426) -/

/-- `ADM_STATUS`. -/
def admStatus (b : Block) : Nat := at_ (b2n (!admRoom b)) 63 + at_ (awaiting b) 8 + b.adm.cmds.length

/-! ### A read -/

/-- The value that register `r` reads as, before its RC fields clear; WO fields read zero (R11). -/
def regVal (b : Block) : Reg → Nat
  | .glbId => glbId b
  | .glbIfrev => glbIfrev b
  | .glbCap => glbCap b
  | .hubCtxState c => hubCtxState b c
  | .hubCtxErr c => hubCtxErr b c
  | .hubCtxDbDrop c => (ctxOf b c).dbDrop
  | .hubQCfg q => hubQCfg b q
  | .hubQRingBase q => (queueOf b q).ringBase
  | .hubQCqBase q => (queueOf b q).cqBase
  | .hubQHead q => hubQHead b q
  | .hubQTail q => hubQTail b q
  | .hubQStatus q => hubQStatus b q
  | .hubQLastSeqno q => hubQLastSeqno (queueOf b q)
  | .hubQNextSeqno q => hubQNextSeqno b q
  | .depCtxFlagMap c i => fld (tget 0 b.dep.maps c) (64 * i) 64
  | .depCtxWaitStatus c => depCtxWaitStatus b c
  | .depCtxQWait q => depCtxQWait b q
  | .depCtxFlagSel c => depCtxFlagSel b c
  | .depCtxFlagData c => depCtxFlagData b c
  | .depCtxOps c => depCtxOps b c
  | .dspStatus => dspStatus b
  | .dspAbortCfg => b.dsp.boundLog2
  | .dspCoreSel => b.dsp.coreSel
  | .dspCoreState => dspCoreState b b.dsp.coreSel
  | .dspSlotSel => b.dsp.slotSel
  | .dspSlotScratch => (mosOf b b.dsp.slotSel).scratchBase / 131072 * 131072
  | .dspSlotScratchUse => dspSlotScratchUse b b.dsp.slotSel
  | .dspLaneStray => b.dsp.laneStray
  | .dspRedispatch => b.dsp.redispatch
  | .dspCoreFailed i => dspCoreFailed b i
  | .seqStatus n => seqStatus b n
  | .seqStall n => seqStall b n
  | .seqTimingSlip n => at_ (seqrOf b n).slipCyc 32 + (seqrOf b n).slipEv
  | .seqDdStatus n => at_ (seqrOf b n).dd.length 32
  | .seqPcache n => seqPcache b n
  | .seqFault n => seqFault b n
  | .seqDdStray n => (seqrOf b n).ddStray
  | .seqPasses n => (seqrOf b n).passes
  | .seqQocc n k => seqQocc b n k
  | .batStatus => batStatus b
  | .batSeqSel => at_ b.bat.pairSel 16 + b.bat.seqSel
  | .batSeqData => batSeqData b
  | .batPoolSel => b.bat.poolSel
  | .batPoolCfg => batPoolCfg b
  | .batPoolBase => batPoolBase b
  | .batPoolStatus => batPoolStatus b
  | .batMosSel => b.bat.mosSel
  | .batMosCfg => batMosCfg b
  | .batMosStatus => batMosStatus b b.bat.mosSel
  | .batTurnCfg => b.bat.timeout
  | .batTokenStray => b.bat.stray
  | .batCtxTrBase c => (ringOf b c).base
  | .batCtxTrCfg c => at_ (ringOf b c).log2 8 + b2n (ringOf b c).en
  | .batCtxTrHead c => (ringOf b c).head
  | .batCtxTrStatus c => batCtxTrStatus b c
  | .fabStatus => fabStatus b
  | .fabRootKey => b.fab.rootSerial
  | .fabDiscCfg => fabDiscCfg b
  | .fabDiscStatus => fabDiscStatus b
  | .fabEpochState => fabEpochState b
  | .fabEpochStray => b.fab.stray
  | .fabPortSel => b.fab.portSel
  | .fabPortState => fabPortState b b.fab.portSel
  | .fabRouteSel => b.fab.routeSel
  | .fabRouteData => fabRouteData b
  | .fabMosSel => b.fab.mosSel
  | .fabMosStatus => fabMosStatus b b.fab.mosSel
  | .fabMosCfg => fabMosCfg b b.fab.mosSel
  | .fabMosCtx i => fld (mosOf b b.fab.mosSel).ctxs (64 * i) 64
  | .fabMosLinks i => fabMosLinks b i
  | .fabMigCfg => at_ b.fab.quiesce 16 + b.fab.passes
  | .fabMigStatus => fabMigStatus b
  | .fabFruId => fabFruId b
  | .fabFruSerial => b.fab.fru.serial
  | .fabIdCfg => at_ (b2n (!b.fab.rescan.isEmpty)) 8 + b.fab.idMode
  | .fabSerdoDrop => fabSerdoDrop b
  | .schCfg => b.sch.quantumLog2
  | .schSlotSel => b.sch.slotSel
  | .schBoardStatus => schBoardStatus b b.sch.slotSel
  | .schSlotStatus => schSlotStatus b b.sch.slotSel
  | .schSqOverrun => at_ (schOf b b.sch.slotSel).sqCyc 32 + (schOf b b.sch.slotSel).sqEv
  | .schSqSel => b.sch.sqSel
  | .schSqData => schSqData b
  | .schBwCfg => schBwCfg b
  | .schBwStatus => schBwStatus b b.sch.slotSel
  | .schCtxShare c => (schCtx b c).share
  | .schCtxOvr c => (schCtx b c).limLog2
  | .schCtxDebt c => fld (schCtx b c).debt 0 32
  | .schCtxEngine c => (schCtx b c).engine
  | .schCtxWait c => (schCtx b c).wait
  | .schCtxPreempt c => at_ (fld (schCtx b c).overruns 0 32) 32 + fld (schCtx b c).preempts 0 32
  | .schCtxDeficit c => twos 64 (tget 0 (schOf b b.sch.slotSel).deficit c)
  | .secStatus => secStatus b
  | .secIdSel => b.sec.idSel
  | .secIdData => leNat (slice b.sec.pub (8 * b.sec.idSel) 8)
  | .secMeasSel => b.sec.measSel
  | .secMeasData => secMeasData b
  | .secSlotSel => b.sec.slotSel
  | .secSlotState => secSlotState b
  | .secTdCfg => b.sec.tdLog2
  | .secTdStatus => secTdStatus b
  | .secTdDd => b.sec.tdDd
  | .secTdLink i => fld b.sec.tdLink (64 * i) 64
  | .secTdLate => b.sec.late
  | .secAuthFail => b.sec.authFail
  | .fltSummary => fltSummary b
  | .fltCfg => at_ b.flt.quietLog2 8 + at_ (b2n b.flt.dumpOnPart) 1 + b2n b.flt.ceIrq
  | .fltForce => at_ (b2n b.flt.fUe) 38 + at_ b.flt.fSrc 32 + b.flt.fTarget
  | .fltTest => at_ (b2n b.flt.unlock) 63 + at_ (b2n b.fuses.testLock) 62 + b.flt.refused
  | .fltWdogCfg => at_ (b2n b.flt.wdEn) 8 + b.flt.wdLog2
  | .fltEscCfg => at_ b.flt.escLog2 8 + b.flt.escCount
  | .fltEscStatus => fltEscStatus b
  | .fltStalemate => fltStalemate b
  | .fltLeaseStatus => fltLeaseStatus b
  | .fltPartStatus => fltPartStatus b
  | .fltLogStatus => fltLogStatus b
  | .fltDumpStatus => fltDumpStatus b
  | .fltSrcStatus s => fltSrcStatus b s
  | .fltLog w => fltLog b w
  | .fltDump w => fltDump b w
  | .pwrPdState => pwrPdState b
  | .pwrDvfsStatus => pwrDvfsStatus b
  | .pwrDvfsCfg => b.pwr.dvfs.settle
  | .pwrOpp => pwrOpp b
  | .pwrLimits => pwrLimits b
  | .pwrEnvelope => pwrEnvelope b
  | .pwrPower => pwrPower b
  | .pwrEmerg => pwrEmerg b
  | .pwrImgStatus => pwrImgStatus b
  | .pwrResetStatus => pwrResetStatus b
  | .pwrPdCfg d => pwrPdCfg b d
  | .pwrPdRec d => pwrPdRec b d
  | .admCmdTail => b.adm.cmdTail
  | .admCmdHead => b.adm.cmdHead
  | .admRplHead => b.adm.rplHead
  | .admRplTail => at_ (b2n b.adm.phase) 10 + b.adm.rplTail
  | .admStatus => admStatus b
  | .admCfg => b2n b.adm.irqEn
  | .admDrop => b.adm.drop
  | .hubHostLease => at_ (b2n b.hub.leaseExpired) 32
  | .hubFetchCfg => b.hub.maxReads
  | .hubFetchStatus => hubFetchStatus b
  | .hubSvc => hubSvc b
  | .hubDbStray => b.hub.dbStray
  | .depPageSel => b.dep.pageSel
  | .depPageCfg => depPageCfg b
  | .depWcdCfg => at_ (b2n b.dep.wcdEnable) 16 + b.dep.wcdSettle
  | .depMempollCfg => at_ b.dep.maxOut 16 + b.dep.interval
  | .depRemoteDrop => b.dep.remoteDrop
  | .depStatus => depStatus b
  | .depWcdCount => b.dep.wcdCount
  | .seqPcacheInv => 0
  | .seqEngine => seqEngine
  | .seqHintCfg => b2n b.seq.hintEn
  | .cntEngine c => cntVal b c ((schCtx b c).cEngine * 4096)
  | .cntWait c => cntVal b c ((schCtx b c).cWait * 4096)
  | .cntPreempt c => cntVal b c (at_ (fld (schCtx b c).updates 0 32) 32 + fld (schCtx b c).cPre 0 32)
  | .cntPower c => cntVal b c (at_ (fld b.sch.window 0 32) 32 + fld b.sch.watts 0 16)

/-- The RC fields of register `r` clear (R430). -/
def regClear (r : Reg) (b : Block) : Block :=
  match r with
  | .hubCtxDbDrop c => modCtx c (fun x => { x with dbDrop := 0 }) b
  | .dspLaneStray => { b with dsp := { b.dsp with laneStray := 0 } }
  | .dspRedispatch => { b with dsp := { b.dsp with redispatch := 0 } }
  | .seqTimingSlip n => modSeqr n (fun s => { s with slipEv := 0, slipCyc := 0 }) b
  | .seqDdStray n => modSeqr n (fun s => { s with ddStray := 0 }) b
  | .seqPasses n => modSeqr n (fun s => { s with passes := 0 }) b
  | .batMosStatus => modLoop b.bat.mosSel (fun l => { l with aborts := 0 }) b
  | .batTokenStray => { b with bat := { b.bat with stray := 0 } }
  | .batCtxTrStatus c => modRing c (fun x => { x with dropped := 0 }) b
  | .fabDiscStatus => { b with fab := { b.fab with restarts := 0 } }
  | .fabEpochStray => { b with fab := { b.fab with stray := 0 } }
  | .fabSerdoDrop => { b with fab := { b.fab with
      dropAuth := 0, dropReplay := 0, dropNoroute := 0, dropOverflow := 0 } }
  | .schSqOverrun => modSch b.sch.slotSel (fun s => { s with sqEv := 0, sqCyc := 0 }) b
  | .schBwStatus => modSch b.sch.slotSel (fun s => { s with hold := 0 }) b
  | .secTdLate => { b with sec := { b.sec with late := 0 } }
  | .secAuthFail => { b with sec := { b.sec with authFail := 0 } }
  | .fltTest => { b with flt := { b.flt with refused := 0 } }
  | .pwrDvfsStatus => { b with pwr := { b.pwr with dvfs := { b.pwr.dvfs with refused := 0, fails := 0 } } }
  | .pwrEmerg => { b with pwr := { b.pwr with emerg := { b.pwr.emerg with entries := 0 } } }
  | .pwrPdRec d => modDom d (fun m => { m with refused := 0 }) b
  | .admDrop => { b with adm := { b.adm with drop := 0 } }
  | .hubDbStray => { b with hub := { b.hub with dbStray := 0 } }
  | .depRemoteDrop => { b with dep := { b.dep with remoteDrop := 0 } }
  | .depWcdCount => { b with dep := { b.dep with wcdCount := 0 } }
  | _ => b

end Sys2Proof.Machine
end

