-- ==== Sys2Proof/Machine/RegWrite.lean ====
section
/-! DEFINITION. What a full 64-bit write to each register does (R11, R42, R177, R259, R310, R326, R360, R362, R374, R376,
R408, R411, R430): it reaches the writable fields alone, and a value out of a field's range leaves the field as it is. -/

namespace Sys2Proof.Machine

/-- `new` where it lies in `[lo, hi]`, else `old`. -/
def ranged (lo hi old new : Nat) : Nat := if lo ≤ new ∧ new ≤ hi then new else old

/-- Replace bits `[lo + w - 1 : lo]` of `x` by `v`. -/
def setFld (x lo w v : Nat) : Nat := x - at_ (fld x lo w) lo + at_ (v % 2 ^ w) lo

/-- Clear in mask `x` of `n` bits every bit that `v` has set, but for those that hardware has set in the cycle of the write, as
the note `f i` of bit `i` says (R11). -/
def w1c (b : Block) (f : Nat → CycleNote) (x v n : Nat) : Nat :=
  ((bitsOf v n).filter (fun i => !noted b (f i))).foldl (fun x i => clrBit x i) x

/-- A W1C bit after a write of `v` to it, by the same rule. -/
def w1cBit (b : Block) (n : CycleNote) (x v : Bool) : Bool := x && (!v || noted b n)

/-- `HUB_CTX_ERR`: MSI_ERR and Q_HALT_EVT clear where written 1. -/
def writeCtxErr (c v : Nat) (b : Block) : Block :=
  modCtx c (fun r => { r with
    msiErr := w1cBit b (.msiErr c) r.msiErr (bitOf v 8)
    haltEvt := w1c b (fun i => .haltEvt (6 * c + i)) r.haltEvt v 6 }) b

/-- `DEP_CTX_FLAG_MAPi` of context `c`. -/
def writeFlagMap (c i v : Nat) (b : Block) : Block :=
  noteCycle (.flagMap c i)
    { b with dep := { b.dep with maps := tmod 0 b.dep.maps c (fun m => setFld m (64 * i) 64 v) } }

/-- `DEP_PAGE_CFG` of the selected page. -/
def writePageCfg (v : Nat) (b : Block) : Block :=
  let p : PageCfg := { slot := fld v 8 6, detect := bitOf v 1, remote := bitOf v 0 }
  { b with dep := { b.dep with pages := tset pageZero b.dep.pages b.dep.pageSel p } }

/-- `DEP_WCD_CFG`. -/
def writeWcdCfg (v : Nat) (b : Block) : Block :=
  { b with dep := { b.dep with
      wcdEnable := bitOf v 16, wcdSettle := ranged 0x40 0xFFFF b.dep.wcdSettle (fld v 0 16) } }

/-- `DEP_MEMPOLL_CFG`. -/
def writeMempollCfg (v : Nat) (b : Block) : Block :=
  { b with dep := { b.dep with
      maxOut := ranged 1 64 b.dep.maxOut (fld v 16 7), interval := ranged 1 0xFFFF b.dep.interval (fld v 0 16) } }

/-- `DSP_CORE_FAILEDi`: a core whose bit is written 1 returns to placement (R165). -/
def writeCoreFailed (i v : Nat) (b : Block) : Block :=
  ((bitsOf v 64).filter (fun j => (coreOf b (64 * i + j)).failed && !noted b (.coreFailed (64 * i + j)))).foldl
    (fun b j => modCore (64 * i + j) (fun r => { r with failed := false }) b) b

/-- `BAT_MOS_CFG` of the selected slot. -/
def writeBatMosCfg (v : Nat) (b : Block) : Block :=
  modLoop b.bat.mosSel (fun l => { l with
    turnTokens := ranged 1 (2 ^ 20) l.turnTokens (fld v 32 21), chunk := ranged 1 65536 l.chunk (fld v 0 17) }) b

/-- LEAVING sequences of context `c` that its ring now has room for leave (R260). -/
def leaveOfCtx (c : Nat) (b : Block) : Block :=
  ((b.bat.seqs.filter (fun e => e.2.state == .leaving && e.2.ctx == c)).map (·.1)).foldl (fun b i => leaveSeq i b) b

/-- `BAT_CTX_TR_BASE`: fixed while the ring is enabled. -/
def writeTrBase (c v : Nat) (b : Block) : Block :=
  if (ringOf b c).en then b else noteCycle (.trBase c) (modRing c (fun r => { r with base := v / 4096 * 4096 }) b)

/-- `BAT_CTX_TR_CFG` (R259): records that a failed write had stopped are gone once the ring is enabled again (R261). -/
def writeTrCfg (c v : Nat) (b : Block) : Block :=
  let n := fld v 8 5
  if n < 4 ∨ 20 < n then b
  else if bitOf v 0 then
    leaveOfCtx c (noteCycle (.trCfg c) (modRing c (fun r => { r with
      log2 := n, en := true, head := 0, tail := 0, phase := true, undel := false, recs := [] }) b))
  else noteCycle (.trCfg c) (modRing c (fun r => { r with log2 := n, en := false }) b)

/-- `BAT_CTX_TR_HEAD` (R259): a value the ring does not have is discarded. -/
def writeTrHead (c v : Nat) (b : Block) : Block :=
  let h := fld v 0 20
  if 2 ^ (ringOf b c).log2 ≤ h then b
  else leaveOfCtx c (noteCycle (.trHead c) (modRing c (fun r => { r with head := h }) b))

/-- `FAB_DISC_CFG`. -/
def writeDiscCfg (v : Nat) (b : Block) : Block :=
  { b with fab := { b.fab with
      train := ranged 1 0xFFFF b.fab.train (fld v 32 16), waveLog2 := ranged 20 30 b.fab.waveLog2 (fld v 24 5) } }

/-- `FAB_MIG_CFG`. -/
def writeMigCfg (v : Nat) (b : Block) : Block :=
  { b with fab := { b.fab with
      quiesce := ranged 1 0xFFFF b.fab.quiesce (fld v 16 16), passes := ranged 1 15 b.fab.passes (fld v 0 4) } }

/-- A rescan of every CMIS bus begins, unless one is under way (R310). -/
def rescanStart (b : Block) : Block :=
  if b.fab.rescan.isEmpty then
    startModules { b with fab := { b.fab with rescan := List.range (nPorts b) } }
  else b

/-- `FAB_ID_CFG`. -/
def writeIdCfg (v : Nat) (b : Block) : Block :=
  let b := { b with fab := { b.fab with idMode := fld v 0 8 } }
  if bitOf v 8 then rescanStart b else b

/-- `SCH_BW_CFG` of the selected slot: in force from the next refill edge (R326). -/
def writeBwCfg (v : Nat) (b : Block) : Block :=
  modSch b.sch.slotSel (fun s => { s with bwNext := {
    en := bitOf v 63, burst := ranged 1 0xFFFFFF s.bwNext.burst (fld v 32 24),
    rate := ranged 1 0xFFFFFF s.bwNext.rate (fld v 0 24) } }) b

/-- `FLT_CFG`. -/
def writeFltCfg (v : Nat) (b : Block) : Block :=
  { b with flt := { b.flt with
      quietLog2 := ranged 10 30 b.flt.quietLog2 (fld v 8 5), dumpOnPart := bitOf v 1, ceIrq := bitOf v 0 } }

/-- `FLT_FORCE`: the fields are taken, and GO injects (R362). -/
def writeForce (v : Nat) (b : Block) : Block :=
  let b := { b with flt := { b.flt with fUe := bitOf v 38, fSrc := fld v 32 6, fTarget := fld v 0 30 } }
  if bitOf v 63 then forceError (fld v 32 6) (fld v 0 30) (bitOf v 38) b else b

/-- `FLT_WDOG_CFG`. -/
def writeWdogCfg (v : Nat) (b : Block) : Block :=
  { b with flt := { b.flt with wdEn := bitOf v 8, wdLog2 := ranged 20 34 b.flt.wdLog2 (fld v 0 6) } }

/-- `FLT_ESC_CFG`; of the stamps held, the last COUNT stay (R369). -/
def writeEscCfg (v : Nat) (b : Block) : Block :=
  { b with flt := { b.flt with escLog2 := ranged 20 31 b.flt.escLog2 (fld v 8 5), escCount := fld v 0 4,
                               stamps := b.flt.stamps.drop (b.flt.stamps.length - fld v 0 4) } }

/-- `PWR_PD_CFGd`. -/
def writePdCfg (d v : Nat) (b : Block) : Block :=
  modDom d (fun m => { m with
    idleEn := bitOf v 32, idleOff := bitOf v 24, idle := ranged 1 0xFFFFFF m.idle (fld v 0 24) }) b

/-- A full write of `v` to register `r`. A register without writable fields is not touched. -/
def regWrite (r : Reg) (v : Nat) (b : Block) : Block :=
  match r with
  | .hubCtxErr c => writeCtxErr c v b
  | .depCtxFlagMap c i => writeFlagMap c i v b
  | .depCtxWaitStatus c =>
    { b with dep := { b.dep with
        wcdHalt := tmod 0 b.dep.wcdHalt c (fun m => w1c b (fun i => .wcdHalt (6 * c + i)) m (fld v 24 6) 6) } }
  | .depCtxFlagSel c =>
    noteCycle (.flagSel c) { b with dep := { b.dep with flagSel := tset 0 b.dep.flagSel c (fld v 0 16) } }
  | .dspAbortCfg => { b with dsp := { b.dsp with boundLog2 := ranged 10 24 b.dsp.boundLog2 (fld v 0 5) } }
  | .dspCoreSel => { b with dsp := { b.dsp with coreSel := fld v 0 9 } }
  | .dspSlotSel => { b with dsp := { b.dsp with slotSel := fld v 0 6 } }
  | .dspCoreFailed i => writeCoreFailed i v b
  | .seqFault n =>
    modSeqr n (fun s => { s with fault := { s.fault with
      valid := w1cBit b (.seqFault n) s.fault.valid (bitOf v 40) } }) b
  | .batSeqSel => { b with bat := { b.bat with pairSel := fld v 16 5, seqSel := fld v 0 14 } }
  | .batPoolSel => { b with bat := { b.bat with poolSel := fld v 0 6 } }
  | .batMosSel => { b with bat := { b.bat with mosSel := fld v 0 6 } }
  | .batMosCfg => writeBatMosCfg v b
  | .batTurnCfg => { b with bat := { b.bat with timeout := ranged 0x100 0xFFFFF b.bat.timeout (fld v 0 20) } }
  | .batCtxTrBase c => writeTrBase c v b
  | .batCtxTrCfg c => writeTrCfg c v b
  | .batCtxTrHead c => writeTrHead c v b
  | .fabDiscCfg => writeDiscCfg v b
  | .fabPortSel => { b with fab := { b.fab with portSel := fld v 0 7 } }
  | .fabRouteSel => { b with fab := { b.fab with routeSel := at_ (fld v 16 2) 16 + fld v 0 14 } }
  | .fabMosSel => { b with fab := { b.fab with mosSel := fld v 0 6 } }
  | .fabMosCtx i =>
    noteCycle (.mosCtx b.fab.mosSel i) (modMos b.fab.mosSel (fun m => { m with ctxs := setFld m.ctxs (64 * i) 64 v }) b)
  | .fabMigCfg => writeMigCfg v b
  | .fabIdCfg => writeIdCfg v b
  | .schCfg => { b with sch := { b.sch with quantumLog2 := ranged 6 20 b.sch.quantumLog2 (fld v 0 5) } }
  | .schSlotSel => { b with sch := { b.sch with slotSel := fld v 0 6 } }
  | .schSqSel => { b with sch := { b.sch with sqSel := fld v 0 10 } }
  | .schBwCfg => writeBwCfg v b
  | .schCtxOvr c =>
    noteCycle (.ctxOvr c) (modSchCtx c (fun r => { r with limLog2 := ranged 16 30 r.limLog2 (fld v 0 5) }) b)
  | .secIdSel => { b with sec := { b.sec with idSel := fld v 0 4 } }
  | .secMeasSel => { b with sec := { b.sec with measSel := at_ (fld v 8 8) 8 + fld v 0 3 } }
  | .secSlotSel => { b with sec := { b.sec with slotSel := fld v 0 10 } }
  | .secTdCfg => { b with sec := { b.sec with tdLog2 := ranged 12 28 b.sec.tdLog2 (fld v 0 5) } }
  | .secTdStatus => { b with sec := { b.sec with tdTimeout := w1cBit b .tdTimeout b.sec.tdTimeout (bitOf v 58) } }
  | .fltSummary => summaryClear (bitOf v 0) (bitOf v 1) b
  | .fltCfg => writeFltCfg v b
  | .fltForce => writeForce v b
  | .fltWdogCfg => writeWdogCfg v b
  | .fltEscCfg => writeEscCfg v b
  | .fltDumpStatus => { b with flt := { b.flt with dumpLocked := w1cBit b .dumpLocked b.flt.dumpLocked (bitOf v 0) } }
  | .pwrDvfsCfg => modDvfs (fun d => { d with settle := ranged 0x28 0xFFFF d.settle (fld v 0 16) }) b
  | .pwrEnvelope => { b with pwr := { b.pwr with ceiling := ranged 1 1200 b.pwr.ceiling (fld v 0 11) } }
  | .pwrEmerg => modEmerg (fun e => { e with clearHold := ranged 0x400 0xFFFFF e.clearHold (fld v 0 20) }) b
  | .pwrPdCfg d => writePdCfg d v b
  | .admCmdTail =>
    if v < 1024 then { b with adm := { b.adm with cmdTail := v } }
    else { b with adm := { b.adm with drop := satAdd 32 b.adm.drop 1 } }
  | .admRplHead => { b with adm := { b.adm with rplHead := fld v 0 10 } }
  | .admCfg => { b with adm := { b.adm with irqEn := bitOf v 0 } }
  | .hubHostLease => if bitOf v 0 then leaseRenew b else b
  | .hubFetchCfg => { b with hub := { b.hub with maxReads := ranged 1 512 b.hub.maxReads (fld v 0 10) } }
  | .depPageSel => { b with dep := { b.dep with pageSel := fld v 0 8 } }
  | .depPageCfg => writePageCfg v b
  | .depWcdCfg => writeWcdCfg v b
  | .depMempollCfg => writeMempollCfg v b
  | .seqPcacheInv => if bitOf v 8 then invalidate (fun _ => true) b else invalidate (· == fld v 0 8) b
  | .seqHintCfg => { b with seq := { b.seq with hintEn := bitOf v 0 } }
  | _ => b

/-- A write of fewer than eight byte enables is discarded; on the two ADM ring indices it is counted (R408, R426, R430). -/
def partialWrite (r : Reg) (b : Block) : Block :=
  match r with
  | .admCmdTail | .admRplHead => { b with adm := { b.adm with drop := satAdd 32 b.adm.drop 1 } }
  | _ => b

/-! ### Doorbells and the admin window (R40 to R42, R69, R406) -/

/-- A discarded doorbell write of context `c` (R41). -/
def bellDrop (c : Nat) (b : Block) : Block := modCtx c (fun r => { r with dbDrop := satAdd 32 r.dbDrop 1 }) b

/-- A doorbell write to queue `q`, whose ring has `2 ^ n` entries, is accepted (R41) and not discarded by a QUEUE_RESET
in progress (R67). A queue that a QUEUE_CONFIG with ENABLE = 0 is still stopping discards its doorbells too and counts them in
DB_DROP, which the rules leave open (DESIGN CHOICE, log entry 45). -/
def bellOk (b : Block) (q n : Nat) (a : MmioWrite) : Bool :=
  a.be == 0xFF && decide (a.data.toNat < 2 ^ 16) && decide (a.data.toNat < 2 ^ n)
  && (ctxOf b (ctxOfQueue q)).state == .active && (queueOf b q).state != .disabled
  && !(queueOf b q).resetting

/-- A tail doorbell write to queue `q` (R41, R42). -/
def tailBell (q : Nat) (a : MmioWrite) (b : Block) : Block :=
  if bellOk b q (queueOf b q).ringLog2 a then
    modQueue q (fun r => { r with tail := a.data.toNat, pending := true }) b
  else bellDrop (ctxOfQueue q) b

/-- A completion-ring head doorbell write to queue `q` (R41, R42). -/
def headBell (q : Nat) (a : MmioWrite) (b : Block) : Block :=
  if bellOk b q (queueOf b q).cqLog2 a then modQueue q (fun r => { r with cqHead := a.data.toNat }) b
  else bellDrop (ctxOfQueue q) b

/-- The byte enables as a list of byte positions. -/
def enabledBytes (be : BitVec 8) : List Nat := (List.range 8).filter (fun i => be.getLsbD i)

/-- Put the enabled bytes of `v` into the 64-bit word `x`. -/
def mergeBe (x v : Nat) (be : BitVec 8) : Nat :=
  (enabledBytes be).foldl (fun x i => setFld x (8 * i) 8 (fld v (8 * i) 8)) x

/-- The service function reaches queue `q`: the enabled queue of the service context (R69). -/
def svcOwns (b : Block) (q : Nat) : Bool :=
  b.hub.svcValid && b.hub.svcCtx == ctxOfQueue q && b.hub.svcQueue == some (classOf q)

/-- A service-function write that R69 discards. -/
def strayWrite (b : Block) : Block := { b with hub := { b.hub with dbStray := satAdd 32 b.hub.dbStray 1 } }

/-- A BAR2 write that HUB accepts. -/
def bar2Write (a : MmioWrite) (b : Block) : Block :=
  match bar2At b a.addr.toNat with
  | some (.tail q) => if a.fn && !svcOwns b q then strayWrite b else tailBell q a b
  | some (.cqHead q) => if a.fn && !svcOwns b q then strayWrite b else headBell q a b
  | some (.cmd w) => if a.fn then strayWrite b else
      { b with adm := { b.adm with cmd := tmod 0 b.adm.cmd w (fun x => mergeBe x a.data.toNat a.be) } }
  | some (.rpl _) => if a.fn then strayWrite b else
      { b with adm := { b.adm with drop := satAdd 32 b.adm.drop 1 } }
  | none =>
    if a.fn then strayWrite b
    else if a.addr.toNat / 0x1000 < nContexts b then bellDrop (a.addr.toNat / 0x1000) b
    else b

/-- A BAR0 write that HUB accepts (R430 to R433). -/
def bar0Write (a : MmioWrite) (b : Block) : Block :=
  if a.fn then strayWrite b
  else if !domOn b (regDomain a.addr.toNat) then b
  else match regAt b a.addr.toNat with
  | none => b
  | some r => if a.be = 0xFF then regWrite r a.data.toNat b else partialWrite r b

/-- An MMIO write that HUB accepts; in stalemate it is discarded (R73). -/
def acceptWrite (bar2 : Bool) (a : MmioWrite) (b : Block) : Block :=
  if b.flt.stale then b else if bar2 then bar2Write a b else bar0Write a b

/-- The answer to a BAR2 read that HUB accepts: doorbell pages read zero, the rings their words (R40, R406). -/
def bar2Read (b : Block) (a : Nat) : Nat :=
  match bar2At b a with
  | some (.cmd w) => tget 0 b.adm.cmd w
  | some (.rpl w) => tget 0 b.adm.rpl w
  | _ => 0

/-- The service function may read BAR2 offset `a`: one of its two doorbells (R69). -/
def svcReads (b : Block) (bar2 : Bool) (a : Nat) : Bool :=
  bar2 && (match bar2At b a with
    | some (.tail q) => svcOwns b q
    | some (.cqHead q) => svcOwns b q
    | _ => false)

/-- An MMIO read that HUB accepts: its answer, and the RC fields it clears (R69, R73, R430 to R436). -/
def acceptRead (bar2 : Bool) (addr : BitVec 24) (fn : Bool) (id : BitVec 3) (b : Block) : Block :=
  let a := addr.toNat
  let answer (v : Nat) (b : Block) : Block := emit (.mmioResp id.toNat (BitVec.ofNat 64 v) false) b
  let refuse : Block := emit (.mmioResp id.toNat 0 true) b
  if fn && !svcReads b bar2 a then refuse
  else if bar2 then (if b.flt.stale then refuse else answer (bar2Read b a) b)
  else if b.flt.stale && !staleReadable a then refuse
  else if !domOn b (regDomain a) then answer 0 b
  else match regAt b a with
  | none => answer 0 b
  | some r => answer (regVal b r) (if b.flt.stale then b else regClear r b)

/-- One MMIO access that HUB accepts. -/
def acceptMmio (m : Mmio) (b : Block) : Block :=
  match m with
  | .write bar2 a => acceptWrite bar2 a b
  | .read bar2 addr fn id => acceptRead bar2 addr fn id b

/-- An MMIO access on `hp_mr_`: nothing is forwarded while `hp_blk_up` is low (R30), and while PD_HUB is not ON the
access waits and wakes it (R386, R387, R433). -/
def mmio (m : Mmio) (b : Block) : Block :=
  if !b.hub.blkUp then b
  else if domOn b 1 && b.hub.held.isEmpty then wake 1 2 (acceptMmio m b)
  else wake 1 2 { b with hub := { b.hub with held := b.hub.held ++ [m] } }

/-- The accesses that waited for PD_HUB are taken in order once it is ON (R387, R434). -/
def replayMmio (b : Block) : Block :=
  if domOn b 1 then b.hub.held.foldl (fun b m => acceptMmio m b) { b with hub := { b.hub with held := [] } } else b

end Sys2Proof.Machine
end

