-- ==== Sys2Proof/Machine/Dump.lean ====
section
/-! DEFINITION. The crash dump and DUMP_READ (R376, R421). -/

namespace Sys2Proof.Machine

/-- The entries of a window table for consecutive words `ws` from word `k` on; words that are zero are not listed. -/
def wordsFrom : Nat → List Nat → Table Nat
  | _, [] => []
  | k, w :: ws => if w = 0 then wordsFrom (k + 1) ws else (k, w) :: wordsFrom (k + 1) ws

/-- Values of a section for each of `n` items, zero while power domain `d` is OFF. -/
def section_ (b : Block) (d n : Nat) (f : Nat → List Nat) : List Nat :=
  let ws := (List.range n).map f
  if (domOf b d).st == .off && d != 0 then (ws.flatten).map (fun _ => 0) else ws.flatten

/-- ABSENT of the header: the domains that are OFF. -/
def absentMask (b : Block) : Nat :=
  ((List.range 12).map (fun i => at_ (b2n ((domOf b (i + 1)).st == .off)) i)).foldl (· + ·) 0

/-- The header's sixteen 64-bit words. -/
def dumpHeader (b : Block) (c : Capture) : List Nat :=
  [0x51444D50 + at_ (at_ 1 24 + at_ c.reason 16 + at_ c.src 8 + c.slot) 32,
   fld (b.flt.captures + 1) 0 32 + at_ (at_ b.flt.warm 16 + absentMask b) 32,
   fld (refNow b) 0 64,
   at_ 0xB0 8 + b.fuses.config.code + at_ (b.flt.written % 512) 32]
  ++ (List.range 6).map (fun i => leNat (slice b.pwr.meas (8 * i) 8))

/-- The first 64 bytes of the active bank of sequencer `n` as eight words: how its fields are packed no rule gives, so
they are free values; a sequencer without a bank has zero (log entry 28). -/
def bankWords (b : Block) (n : Nat) : List Nat :=
  if (seqrOf b n).active.isSome then
    (List.range 8).map (fun j => (Config.freeValue 64 (b.fresh + 8 * n + j)).toNat)
  else List.replicate 8 0

/-- The sixteen words of sequencer `n`. -/
def dumpSeqr (b : Block) (n : Nat) : List Nat :=
  section_ b (5 + n / 8) 1 (fun _ =>
    [seqStatus b n, seqStall b n, seqFault b n, at_ (seqrOf b n).dd.length 32, seqPcache b n, seqQocc b n 0,
     seqQocc b n 1, 0] ++ bankWords b n)

/-- The eight words of mosaic slot `k`. -/
def dumpSlot (b : Block) (k : Nat) : List Nat :=
  section_ b 3 1 (fun _ => [fabMosStatus b k, fabMosCfg b k])
  ++ section_ b 1 1 (fun _ => [schBoardStatus b k, schSlotStatus b k])
  ++ section_ b 2 1 (fun _ => [batMosStatus b k])
  ++ section_ b 1 1 (fun _ => [dspSlotScratchUse b k, schBwStatus b k, 0])

/-- The PWR registers in offset order; those of an absent domain are zero. -/
def dumpPwr (b : Block) : List Nat :=
  [pwrPdState b, pwrDvfsStatus b, b.pwr.dvfs.settle, pwrOpp b, pwrLimits b, pwrEnvelope b, pwrPower b, pwrEmerg b,
   pwrImgStatus b, pwrResetStatus b]
  ++ (List.range 12).map (fun i => if domListed b (i + 1) then pwrPdCfg b (i + 1) else 0)
  ++ (List.range 12).map (fun i => if domListed b (i + 1) then pwrPdRec b (i + 1) else 0)

/-- The two words of a launched packet's record. -/
def pktWords (p : List Nat) : List Nat :=
  [p.getD 0 0 + at_ (p.getD 1 0) 32, p.getD 2 0 + at_ (p.getD 3 0) 32]

/-- The words of the dump. -/
def dumpWords (b : Block) (c : Capture) : Table Nat :=
  wordsFrom 0 (dumpHeader b c)
  ++ wordsFrom 0x10 ((List.range 64).map (fltSrcStatus b))
  ++ wordsFrom 0x80 (section_ b 1 (nQueues b) (fun q =>
      [hubQStatus b q, hubQHead b q, hubQTail b q, hubQLastSeqno (queueOf b q)]))
  ++ wordsFrom 0x1880 (section_ b 1 (nContexts b) (fun c => [hubCtxState b c, hubCtxErr b c]))
  ++ wordsFrom 0x1A80 (section_ b 1 (nQueues b) (fun q => [depCtxQWait b q]))
  ++ wordsFrom 0x2080 ((List.range (nSeqrs b)).map (dumpSeqr b)).flatten
  ++ wordsFrom 0x2480 (section_ b 1 (nCores b) (fun k => [dspCoreState b k]))
  ++ wordsFrom 0x2680 ((List.range 64).map (dumpSlot b)).flatten
  ++ wordsFrom 0x2880 (section_ b 3 1 (fun _ => [fabStatus b, fabEpochState b, fabDiscStatus b])
      ++ section_ b 3 72 (fun p => [fabPortState b p]))
  ++ wordsFrom 0x2900 (dumpPwr b)
  ++ wordsFrom 0x2980 (section_ b 1 1 (fun _ =>
      (b.flt.admLog.reverse.map (fun e => (List.range 4).map (fun i => leNat (slice e (8 * i) 8)))).flatten))
  ++ wordsFrom 0x2A80 (section_ b 1 1 (fun _ => (b.flt.pkts.reverse.map pktWords).flatten))

/-- A capture that is due is made: the dump is complete and LOCKED (R376). -/
def capture (b : Block) : Block :=
  match b.flt.capDue with
  | none => b
  | some c => noteCycle .dumpLocked { b with
      fresh := b.fresh + 8 * nSeqrs b
      flt := { b.flt with
        dump := dumpWords b c, dumpValid := true, dumpLocked := true, dumpReason := c.reason,
        captures := b.flt.captures + 1, capDue := none } }

/-- The FRESH HELLO of a stalemate entry goes out on every port that is up (R371). -/
def freshHello (b : Block) : Block :=
  if b.flt.freshDue then helloAll true { b with flt := { b.flt with freshDue := false } } else b

/-- What ends every command: the capture and the FRESH HELLO of a stalemate entry. -/
def closing (b : Block) : Block := freshHello (capture b)

end Sys2Proof.Machine
end

