-- ==== Sys2Proof/Machine/Clock.lean ====
section
/-! DEFINITION. When the block works, what ends every command, and the CLK_HUB cycle of an idle step (log entry 1). -/

namespace Sys2Proof.Machine

/-! ### When the block works -/

/-- The block is out of reset. -/
def released (b : Block) : Bool := b.pwr.step != 0

/-- CLK_ROOT runs and the block is out of reset (R372). -/
def clocked (b : Block) : Bool := released b && !b.flt.clockLost

/-- The block works: out of reset, clocked, and not in stalemate (R370, R371). -/
def running (b : Block) : Bool := clocked b && !b.flt.stale

/-- HUB works: the block runs, start-up is over, and PD_HUB is ON (R30, R387). -/
def serving (b : Block) : Bool := running b && b.hub.blkUp && domOn b 1

/-! ### What ends every command -/

/-- The consequences of a command that follow at once inside HUB, DSP, SEQ, BAT, FAB, SEC and FLT: loops, collectives,
rebinds, releases and migrations go on, spans end, revocations, resets and teardowns that waited go on, and requests that
can be issued are issued. -/
def settleWork (b : Block) : Block :=
  settleImage (ksPump (admPump (settleParts (settlePools (settleResets (settleRevokes (settleSched
    (settleMosaics (settleColls (settleTurns b))))))))))

/-- The consequences of a command that follow at once. -/
def settle (b : Block) : Block :=
  if clocked b then settlePower (if serving b then settleWork b else b) else b

/-- What ends every command: its consequences, the replies of the admin commands that finished (R411), then the capture and the
FRESH HELLO of a stalemate entry. -/
def ending (b : Block) : Block := closing (admFlush (settle b))

/-! ### Time (R8, R20, R196, R322) -/

/-- CLK_ROOT cycles of one CLK_SEQ cycle for each divider step (R20). -/
def seqPeriod (k : Nat) : Nat := [4, 5, 6, 8, 12].getD k 12

/-- CLK_ROOT cycles after `r` and up to `s` in which a division by `p` has an edge. -/
def edgesIn (p r s : Nat) : Nat := s / p - r / p

/-- The first CLK_ROOT cycle at `r` or later in which divisions by `p` and `q` have an edge in common (R21). -/
def commonEdge (p q r : Nat) : Nat := ceilDiv r (Nat.lcm p q) * Nat.lcm p q

/-- CLK_SEQ edges of the CLK_HUB cycle that follows, and the division that is still the old one after it (R20, R21). -/
def edgesNext (t : Time) : Nat × Option Nat :=
  let q := seqPeriod t.divStep
  match t.oldStep with
  | none => (edgesIn q t.root (t.root + 8), none)
  | some k =>
    let p := seqPeriod k
    let c := commonEdge p q t.root
    if c ≤ t.root + 8 then (edgesIn p t.root c + edgesIn q c (t.root + 8), none)
    else (edgesIn p t.root (t.root + 8), some k)

/-- Time after one CLK_HUB cycle, which is eight CLK_ROOT cycles: what was noted of the cycle is over (R11). With CLK_ROOT lost
only CLK_REF goes on (R372). -/
def passTime (b : Block) : Block :=
  let t := b.time
  if b.flt.clockLost then { b with time := { t with lost := t.lost + 8 } }
  else { b with time := { t with
    root := t.root + 8, seq := t.seq + (edgesNext t).1, oldStep := (edgesNext t).2, notes := [] } }

/-- The hint of an instruction of the execute stream. -/
def hintOf (w : Nat) : Nat :=
  if majorOf w = 0x10 then (topOf w).hint else if majorOf w = 0x12 then fld w 0 10 else 0

/-- The execute stream of sequencer `n` stands at an instruction whose waits, its hint apart, have cleared: the edge in
which the last of them cleared is noted. Up to the hinted cycle a wait may arise again, and the note is taken back (R196). -/
def noteReady (n : Nat) (b : Block) : Block :=
  match viewOf b n with
  | none => b
  | some v =>
    match nextInstr v true with
    | none => b
    | some w =>
      let ready := v.pass.exe.ready
      if ready.isSome && decide (v.pass.exe.lastIss + hintOf w < b.time.seq) then b else
      let clear : Bool := (match gateOf b v true w with
        | .stall r _ => r == 7
        | _ => true)
      modPass n (modStream true (fun st => { st with ready := if clear then some (ready.getD b.time.seq) else none })) b

/-- What the commands of the cycle that ends have cleared is noted before the clock moves on. -/
def noteWaits (b : Block) : Block := (b.seq.seqrs.map (·.1)).foldl (fun b x => noteReady x b) b

/-- The jam count of sequencer `n` after `k` CLK_SEQ cycles (R182). -/
def countJam (k n : Nat) (b : Block) : Block :=
  match viewOf b n with
  | none => b
  | some v =>
    let j := jammed b v
    if j || v.pass.jam != 0 then modPass n (fun p => { p with jam := if j then p.jam + k else 0 }) b else b

/-- A chunk's descriptor has yet to issue. -/
def chunkWaits (s : Seqr) : Bool :=
  s.pass.any (fun p => p.kind == .chunk && p.fail.isNone && !p.abort && !p.ended && tget 0 p.cstep 0 == 0)

/-- A descriptor of slot `k` is held by the slot's regulator: an access stream stalls, or a chunk waits. -/
def bwHeld (b : Block) (k : Nat) : Bool :=
  !bwOpen b k && b.seq.seqrs.any (fun e => match e.2.active with
    | some x => x.slot == k && ((stallOf b e.1 false).1 == 5 || chunkWaits e.2)
    | none => false)

/-- HOLD of slot `k` after `n` CLK_SEQ cycles (R322). -/
def countHold (n k : Nat) (b : Block) : Block :=
  if bwHeld b k then modSch k (fun s => { s with hold := satAdd 32 s.hold n }) b else b

/-- The barrier timer of slot `k` does not count while a migration holds the mosaic (R248, R289). -/
def holdBarrier (k : Nat) (b : Block) : Block :=
  match (loopOf b k).dead with
  | some d => if (mosOf b k).held then modLoop k (fun l => { l with dead := some (d + 1) }) b else b
  | none => b

/-- What each unit does in one CLK_HUB cycle in which `n` CLK_SEQ edges fall. -/
def workCycle (n : Nat) (b : Block) : Block :=
  let b := wdTick (schTick b)
  let b := (b.seq.seqrs.map (·.1)).foldl (fun b x => countJam n x b) b
  let b := (b.sch.slots.map (·.1)).foldl (fun b k => countHold n k b) b
  let b := (b.bat.loops.map (·.1)).foldl (fun b k => holdBarrier k b) b
  pumpRings (batPump 64 b)

/-! ### The entry of a power domain (R382, R383) -/

/-- The PD_SET that asked for domain `d` is answered, unless the block has stopped. -/
def entryReply (i : Option Nat) (f : Nat → Block → Block) (b : Block) : Block :=
  match i with
  | some i => if running b then f i b else b
  | none => b

/-- What waited for domain `d` while its entry lasted goes on: the entry has been aborted. Accesses are answered in stalemate
too, with what R73 gives them. -/
def domBack (d : Nat) (b : Block) : Block :=
  if !clocked b then b else if d = 1 then replayMmio b else if d = 3 ∧ running b = true then replayRx b else b

/-- A refusal condition has arisen before the commit point: domain `d` is ON again (R383). -/
def entryAbort (d code : Nat) (b : Block) : Block :=
  let m := domOf b d
  let b := pdRefuse d code (modDom d (fun m => { m with st := .on, adms := [], entAdm := none, latched := none }) b)
  domBack d (entryReply m.entAdm (fun i b => admBad i .badState 16 b) (if running b then admFinals m.adms .ok b else b))

/-- The action of cycle `n` of the entry of domain `d`. -/
def entryAction (d n : Nat) (b : Block) : Block :=
  let m := domOf b d
  match n with
  | 2 => emit (.pdIso d true) b
  | 3 => if m.entOff then b else emit (.pdRet d true) b
  | 4 => emit (.pdSwitch d false) b
  | 5 =>
    let b := modDom d (fun m => { m with st := if m.entOff then .off else .ret, entAdm := none }) b
    let b := entryReply m.entAdm (fun i b => admFinal i .ok b) b
    if m.entOff then domLose d (admFlush b) else b
  | _ => b

/-- The actions that are due in the entry of domain `d`, `fuel` cycles at most. -/
def entrySteps (d : Nat) : Nat → Block → Block
  | 0, b => b
  | fuel + 1, b =>
    let m := domOf b d
    if m.st != .entering then b else
    let code := refuser b d m.entOff m.entAdm
    if m.entStep < 2 ∧ code ≠ 0 then entryAbort d code b
    else if refNow b ≤ m.entAt + m.entStep then b
    else entrySteps d fuel (entryAction d (m.entStep + 1) (modDom d (fun m => { m with entStep := m.entStep + 1 }) b))

/-- Domain `d` in a CLK_HUB cycle: its entry goes on, and a wake that met the entry begins the exit after cycle 5. -/
def domCycle (d : Nat) (b : Block) : Block :=
  let b := entrySteps d 6 b
  let m := domOf b d
  match m.latched with
  | some src =>
    if (m.st == .ret || m.st == .off) && decide (m.entAt + 5 < refNow b) then
      wake d src (modDom d (fun m => { m with latched := none }) b)
    else b
  | none => b

/-- Every power domain in a CLK_HUB cycle. -/
def domCycles (b : Block) : Block :=
  if released b then (b.pwr.doms.map (·.1)).foldl (fun b d => domCycle d b) b else b

/-- One CLK_HUB cycle in which no command comes. -/
def tick (b : Block) : Block :=
  let n := (edgesNext b.time).1
  let b := domCycles (passTime (if serving b then noteWaits b else b))
  ending (if serving b then workCycle n b else b)

end Sys2Proof.Machine
end

