-- ==== Sys2Proof/Machine/Answers.lean ====
section
/-! DEFINITION. Answers of host memory and of the DMA engines handed to what asked for them, and the two admin commands
that only read state. -/

namespace Sys2Proof.Machine

/-! ### Host memory (R51, R52, R65, R261, R416) -/

/-- The source buffer of command `i` has been read whole: the command goes on with its bytes. -/
def admSourceDone (i : Nat) (e data : List Byte) (b : Block) : Block :=
  match admOpc e with
  | 0x10 => createData i e data b
  | 0x12 => rebindData i e data b
  | 0x19 => boardData i e data b
  | 0x22 => attestData i e data b
  | 0x38 => imageData data b
  | _ => b

/-- A failed buffer access of command `i`, whose address field stands at byte `off` of the entry (R416). -/
def admXfail (i : Nat) (e : List Byte) (st : Status) (off : Nat) (b : Block) : Block :=
  if admOpc e = 0x38 then stageFail st off b else admBad i st off b

/-- A read response for the source buffer of command `i` (R416): the bytes join those read so far. -/
def admReadAnswer (i : Nat) (status : BitVec 2) (data : List Byte) (b : Block) : Block :=
  match admOf b i with
  | none => b
  | some c =>
    let s := admSource c.entry c.data
    if status ≠ 0 then admXfail i c.entry (respStatus (status.setWidth 3)) s.2.2 b else
    let k := piece (s.1 + c.next) (s.2.1 - c.next)
    let got := c.data ++ data.take k
    let next := c.next + k
    let b := modAdm i (fun c => { c with got := tset [] [] 0 got, next := next, out := 0 }) b
    let n := (admSource c.entry got).2.1
    if 2 ^ 64 < s.1 + n then admBad i .badExtent s.2.2 b
    else if n ≤ next then
      admSourceDone i c.entry got (modAdm i (fun c => { c with stage := 0 }) b)
    else b

/-- HOST_READ_RESPONSE: the read of identifier `id` is answered (R51, R71). An identifier not outstanding has no reader. -/
def readResponse (id : Nat) (status : BitVec 2) (data : List Byte) (b : Block) : Block :=
  let use := tget none b.hub.reads id
  let b := { b with hub := { b.hub with reads := tset none b.hub.reads id none } }
  match use with
  | some (.line q it lo) => lineResponse q it lo status data b
  | some (.adm i) => admReadAnswer i status data b
  | some .late => countLate b
  | some (.discard _) => b
  | none => b

/-- The destination buffer of command `i` has been written whole and acknowledged: the reply (R421, R423). -/
def admDestDone (i : Nat) (e data : List Byte) (b : Block) : Block :=
  match admOpc e with
  | 0x22 => admReply i .ok 0xFFFFFFFF [data.length] true b
  | 0x41 => admFinal i .ok b
  | _ => b

/-- A write response for the destination buffer of command `i` (R416). -/
def admWriteAnswer (i : Nat) (status : BitVec 2) (b : Block) : Block :=
  match admOf b i with
  | none => b
  | some c =>
    if status ≠ 0 then admBad i .xlatFault (admDest c.entry).2 b else
    let b := modAdm i (fun c => { c with out := 0 }) b
    if c.data.length ≤ c.next then admDestDone i c.entry c.data (modAdm i (fun c => { c with stage := 0 }) b) else b

/-- HOST_WRITE_RESPONSE: the write of identifier `id` is answered, whatever it was for. -/
def writeResponse (id : Nat) (status : BitVec 2) (b : Block) : Block :=
  match takeWrite id b with
  | (some (.record q sid), b) => recordAnswer q sid status b
  | (some (.token c _), b) => tokenAnswer c status b
  | (some (.adm i), b) => admWriteAnswer i status b
  | (some .late, b) => countLate b
  | (some (.discard _), b) => b
  | (none, b) => b

/-- What the write of an identifier is for. -/
def writeUse (b : Block) (id : Nat) : Option WriteUse := tget none b.hub.writes (id % 512)

/-- TOKEN_RECORD_RESPONSE: the answer of a token record's write (R261). -/
def tokenResponse (id : Nat) (status : BitVec 2) (b : Block) : Block :=
  match writeUse b id with
  | some (.token ..) | some .late | some (.discard _) => writeResponse id status b
  | _ => b

/-! ### DMA engines (R133, R203, R240) -/

/-- A descriptor of operation `oid` ended at address `addr`: one of a turn instance that failed inside a pool marks the pool
FAILED first, so that its turn has aborted when the operation hears of it (R240). -/
def turnFault (oid addr : Nat) (st : BitVec 3) (b : Block) : Block :=
  match opOf b oid with
  | some o => if o.inst = 0 then b else poolFault o.slot addr st b
  | none => b

/-- DD_COMPLETION: the descriptor of tag `tag` on port `n` has ended, and its owner goes on. -/
def ddCompletion (n tag : Nat) (status : BitVec 3) (b : Block) : Block :=
  match ddTake n tag status b with
  | (none, b) => b
  | (some (u, st), b) =>
    match u.owner with
    | .load .. | .store .. | .lds .. | .chunk _ | .comb _ =>
      let turn : Option Nat := (seqrOf b n).active.bind (fun k => if k.turn = 0 then none else some k.slot)
      let b := ddOfPass n u st b
      (match turn with
       | some k => poolFault k u.addr st b
       | none => b)
    | .pfetch gen off => pfetchDone n gen off u st b
    | .poll oid => pollAnswer oid st (BitVec.ofNat 64 (leNat (u.data.take 8))) (turnFault oid u.addr st b)
    | .atom oid | .markW oid => opAck oid st (turnFault oid u.addr st b)
    | .migCopy _ => migDd st b
    | .scrub k => scrubDone k b
    | .bat slot what => batAck slot what st b
    | .coll oid => collDd oid st (turnFault oid u.addr st b)
    | .orphan oid => if oid = 0 then ddStray n b else b

/-- MEMPOLL_RESPONSE: a memory flag's read returns with its value (R133, R134). A tag that is not outstanding is a stray
(R203); one that is no poll is not touched. -/
def mempollResponse (n tag : Nat) (status : BitVec 3) (v : W64) (b : Block) : Block :=
  match tget none (seqrOf b n).dd tag with
  | some u => (match u.owner with
    | .poll oid => (match ddTake n tag status b with
      | (some (_, st), b) => pollAnswer oid st v (turnFault oid u.addr st b)
      | (none, b) => b)
    | .orphan 0 => (match ddTake n tag status b with
      | (some _, b) => ddStray n b
      | (none, b) => b)
    | _ => b)
  | none => (ddTake n tag status b).2

/-! ### IDENTIFY and DUMP_READ (R421, R422) -/

/-- The hash of the device identity public key; a free value where there is no such key (log entry 29). -/
def idkHash (b : Block) : List Byte :=
  if b.sec.idkValid then sha384 b.sec.pub else leBytes (freeVal 384 b).toNat 48

/-- Result words of IDENTIFY, from reply word 4 on. -/
def identifyResult (b : Block) : List Nat :=
  let ready := b.fab.phase == 8
  words64 (glbId b) ++ words64 (glbIfrev b) ++ words64 (glbCap b)
  ++ [at_ (b2n ready) 31 + at_ b.pwr.img.recovery.toNat 30 + (if ready then b.fab.node else 0), 0]
  ++ (List.range 12).map (word (idkHash b)) ++ words64 b.fab.fru.serial

/-- IDENTIFY. -/
def identify (i : Nat) (_ : List Byte) (b : Block) : Block :=
  let ws := identifyResult b
  admReply i .ok 0xFFFFFFFF ws true (if b.sec.idkValid then b else useFree b)

/-- The bytes that a DUMP_READ of source `src` copies. -/
def dumpBytes (b : Block) (src off len : Nat) : List Byte :=
  ((List.range (len / 8)).map (fun k =>
    leBytes (if src = 0 then fltDump b (off / 8 + k) else fltLog b (off / 8 + k)) 8)).flatten

/-- DUMP_READ: the checks, then the copy begins. -/
def dumpRead (i : Nat) (e : List Byte) (b : Block) : Block :=
  let src := ef e 4 0 1
  let off := word e 5
  let len := word e 6
  if src = 0 ∧ b.flt.capDue.isSome then admBad i .badState 16 b
  else if off % 64 ≠ 0 then admBad i .badAlign 20 b
  else if len % 64 ≠ 0 then admBad i .badAlign 24 b
  else if len < 64 then admBad i .badLength 24 b
  else if (if src = 0 then 2 ^ 18 else 2 ^ 14) < off + len then admBad i .badExtent 20 b
  else match bufBad (dword e 8) len 64 with
  | some st => admBad i st 32 b
  | none => admWrite i (dumpBytes b src off len) b

end Sys2Proof.Machine
end

