-- ==== Sys2Proof/Machine/ExecBase.lean ====
section
/-! DEFINITION. How a command acts on the block: when it acts at all, and what ends it. Shared by the meanings of every
command. -/

namespace Sys2Proof.Machine

/-- A command with effect `f` on the block; its consequences end it. The queue of commands stays. -/
def effect (f : Block → Block) (s : State) : Host.Outcome State Fault Refusal :=
  .next { s with toBlock := ending (f s.toBlock) }

/-- `f` where `p` holds of the block, else nothing. -/
def guarded (p : Block → Bool) (f : Block → Block) (b : Block) : Block := if p b then f b else b

/-- A command of the always-on logic: it acts while the block is out of reset (R371, R372, R394). -/
def power (f : Block → Block) (s : State) : Host.Outcome State Fault Refusal := effect (guarded released f) s

/-- A command that acts in stalemate too, while CLK_ROOT runs. -/
def timed (f : Block → Block) (s : State) : Host.Outcome State Fault Refusal := effect (guarded clocked f) s

/-- A command that acts while the block works: out of reset, clocked, not in stalemate (R371). -/
def live (f : Block → Block) (s : State) : Host.Outcome State Fault Refusal := effect (guarded running f) s

/-- A command of the units behind HUB: it acts while the block works, start-up is over and PD_HUB is ON (R30, R381). -/
def work (f : Block → Block) (s : State) : Host.Outcome State Fault Refusal := effect (guarded serving f) s

/-- The unit that a command names exists in the configuration (R1, R26). -/
def atUnit (ok : Bool) (o : Host.Outcome State Fault Refusal) : Host.Outcome State Fault Refusal :=
  if ok then o else .fault .absentUnit

/-- The row of a BAR0 register: a write whose offset names a register that `p` selects. -/
def regRow (p : Reg → Bool) (a : MmioWrite) (b : Block) : Block :=
  match regAt b a.addr.toNat with
  | some r => if p r then mmio (.write false a) b else b
  | none => b

/-- The row of a doorbell: a write to BAR2 whose offset names one that `p` selects. -/
def bellRow (p : Bar2 → Bool) (a : MmioWrite) (b : Block) : Block :=
  match bar2At b a.addr.toNat with
  | some x => if p x then mmio (.write true a) b else b
  | none => b

/-- PGOOD_RISE; with PD_HUB the accesses that waited for it go on (R387). -/
def pgoodEvent (d : Nat) (b : Block) : Block := if d = 1 then replayMmio (pgoodRise d b) else pgoodRise d b

/-- PORT_UP_CHANGE: a change of `fm_port_up` wakes PD_FAB (R386). -/
def portEvent (port : Nat) (up : Bool) (b : Block) : Block :=
  wake 3 4 (portChange nodeDownOwn port up b)

/-- ROUTE_LOOKUP: answered by the tables; while a reset is asserted the port answers NOT_READY (R29); without CLK_ROOT there
is no next edge and no answer. -/
def lookupRow (port node chan tag mosaic : Nat) (b : Block) : Block :=
  if b.flt.clockLost then b else if !released b then emit (.route port .notReady) b
  else routeLookup port node chan tag mosaic b

/-- An instance of the key sideband: a memory path, or 64 and a link port (R343). -/
def ksInst (b : Block) (i : Nat) : Bool :=
  decide (i < nChannels b) || (decide (64 ≤ i) && decide (i - 64 < nPorts b))

/-- The wrapper holds instruction `k`. -/
def tapSelect (k : Nat) (b : Block) : Block := { b with flt := { b.flt with tapSel := k } }

/-- SCAN or MBIST is selected: stalemate with reason TEST, then the SRAMs are zeroed (R363). -/
def tapTest (b : Block) : Block := testZero (closing (enterStalemate 4 0 b))

end Sys2Proof.Machine
end

