-- ==== Sys2Proof/Machine/ExecAdmin.lean ====
section
/-! DEFINITION. Meanings of the commands: the admin commands, their answers and the image flash. One definition a command. -/

namespace Sys2Proof.Machine

/-- `ADMIN_COMMAND_TAKE` (R408). The block takes the command at HEAD when the limits of R411 allow, copies it and
advances HEAD. -/
def execAdminCommandTake (s : State) : Host.Outcome State Fault Refusal :=
  work adminTake s

/-- `IDENTIFY` (R422). The command returns the identity, revision, capability, node, IDK hash and serial. -/
def execIdentify (i : Nat) (s : State) : Host.Outcome State Fault Refusal :=
  atUnit (decide (i < 1024)) (work (adminRow 0x01 i identify) s)

/-- `CTX_CREATE` (R33). The command makes a FREE context ACTIVE with its tag, sends ENABLE on tr_ and replies after
tr_ack. -/
def execCtxCreate (i : Nat) (s : State) : Host.Outcome State Fault Refusal :=
  atUnit (decide (i < 1024)) (work (adminRow 0x02 i ctxCreate) s)

/-- `CTX_DESTROY` (R347). The command moves the context to TEARING_DOWN and runs the teardown steps. -/
def execCtxDestroy (i : Nat) (s : State) : Host.Outcome State Fault Refusal :=
  atUnit (decide (i < 1024)) (work (adminRow 0x03 i ctxDestroy) s)

/-- `QUEUE_CONFIG` (R36). The command configures, enables or disables a queue. -/
def execQueueConfig (i : Nat) (s : State) : Host.Outcome State Fault Refusal :=
  atUnit (decide (i < 1024)) (work (adminRow 0x04 i queueConfig) s)

/-- `QUEUE_RESET` (R67). The command aborts the queue's work, clears its indices and puts it in IDLE. -/
def execQueueReset (i : Nat) (s : State) : Host.Outcome State Fault Refusal :=
  atUnit (decide (i < 1024)) (work (adminRow 0x05 i queueReset) s)

/-- `MOSAIC_CREATE` (R271). The command sets up a mosaic slot in CREATED. -/
def execMosaicCreate (i : Nat) (s : State) : Host.Outcome State Fault Refusal :=
  atUnit (decide (i < 1024)) (work (adminRow 0x10 i mosaicCreate) s)

/-- `MOSAIC_BIND` (R272). The command binds this chip's tesserae, enters JOINING and sends MOSAIC_JOIN to the leader. -/
def execMosaicBind (i : Nat) (s : State) : Host.Outcome State Fault Refusal :=
  atUnit (decide (i < 1024)) (work (adminRow 0x11 i mosaicBind) s)

/-- `MOSAIC_REBIND` (R274). The command changes the cores, channels, links or members of a READY or BROKEN mosaic. -/
def execMosaicRebind (i : Nat) (s : State) : Host.Outcome State Fault Refusal :=
  atUnit (decide (i < 1024)) (work (adminRow 0x12 i mosaicRebind) s)

/-- `MOSAIC_RELEASE` (R275). The command unbinds, scrubs and zeroises a mosaic slot and returns it to FREE. -/
def execMosaicRelease (i : Nat) (s : State) : Host.Outcome State Fault Refusal :=
  atUnit (decide (i < 1024)) (work (adminRow 0x13 i mosaicRelease) s)

/-- `SHARES_SET` (R317). The command sets context shares, all entries in force in one cycle. -/
def execSharesSet (i : Nat) (s : State) : Host.Outcome State Fault Refusal :=
  atUnit (decide (i < 1024)) (work (adminRow 0x18 i sharesSet) s)

/-- `BOARD_LOAD` (R314). The command reads and checks a board image and installs it at the next square boundary. -/
def execBoardLoad (i : Nat) (s : State) : Host.Outcome State Fault Refusal :=
  atUnit (decide (i < 1024)) (work (adminRow 0x19 i boardLoad) s)

/-- `KEY_IMPORT` (R338). The command unwraps a key under the SPDM session and installs it in a key slot. -/
def execKeyImport (i : Nat) (s : State) : Host.Outcome State Fault Refusal :=
  atUnit (decide (i < 1024)) (work (adminRow 0x20 i keyImport) s)

/-- `KEY_REVOKE` (R346). The command suspends, drains and removes a key slot. -/
def execKeyRevoke (i : Nat) (s : State) : Host.Outcome State Fault Refusal :=
  atUnit (decide (i < 1024)) (work (adminRow 0x21 i keyRevoke) s)

/-- `ATTEST` (R331). The command carries one SPDM request to the responder and writes the response. -/
def execAttest (i : Nat) (s : State) : Host.Outcome State Fault Refusal :=
  atUnit (decide (i < 1024)) (work (adminRow 0x22 i attest) s)

/-- `POOL_CONFIG` (R237). The command configures or removes a state pool of a mosaic. -/
def execPoolConfig (i : Nat) (s : State) : Host.Outcome State Fault Refusal :=
  atUnit (decide (i < 1024)) (work (adminRow 0x28 i poolConfig) s)

/-- `PD_SET` (R382). The command moves a power domain to ON, RET or OFF, subject to the refusal conditions. -/
def execPdSet (i : Nat) (s : State) : Host.Outcome State Fault Refusal :=
  atUnit (decide (i < 1024)) (work (adminRow 0x30 i pdSet) s)

/-- `DVFS_SET` (R388). The command starts a DVFS sequence to a target step and voltage. -/
def execDvfsSet (i : Nat) (s : State) : Host.Outcome State Fault Refusal :=
  atUnit (decide (i < 1024)) (work (adminRow 0x31 i dvfsSet) s)

/-- `DUMP_READ` (R421). The command copies the crash dump or fault log to host memory. -/
def execDumpRead (i : Nat) (s : State) : Host.Outcome State Fault Refusal :=
  atUnit (decide (i < 1024)) (work (adminRow 0x41 i dumpRead) s)

/-- `PARTITION_RESET` (R368). The command starts, or merges with, a partition reset of a slot. -/
def execPartitionReset (i : Nat) (s : State) : Host.Outcome State Fault Refusal :=
  atUnit (decide (i < 1024)) (work (adminRow 0x48 i partitionReset) s)

/-- `LEASE_CONFIG` (R374). The command sets or disables the host lease period and restarts the counter. -/
def execLeaseConfig (i : Nat) (s : State) : Host.Outcome State Fault Refusal :=
  atUnit (decide (i < 1024)) (work (adminRow 0x49 i leaseConfig) s)

/-- `IMAGE_STAGE` (R400). The command erases, programs and verifies the inactive flash bank. -/
def execImageStage (i : Nat) (s : State) : Host.Outcome State Fault Refusal :=
  atUnit (decide (i < 1024)) (work (imageRow 0x38 i imageStage) s)

/-- `IMAGE_ACTIVATE` (R401). The command checks a staged image and activates it, cancels a pending activation, or defers
during an emergency. -/
def execImageActivate (i : Nat) (s : State) : Host.Outcome State Fault Refusal :=
  atUnit (decide (i < 1024)) (work (imageRow 0x39 i imageActivate) s)

/-- `DEFERRED_FINAL_REPLY` (R412). A deferred command later writes its one final reply with the outcome. -/
def execDeferredFinalReply (i : Nat) (s : State) : Host.Outcome State Fault Refusal :=
  atUnit (decide (i < 1024)) (work (deferredFinal i) s)

/-- `HOST_WRITE_RESPONSE` (R416). The controller answers an untagged DMA write of an admin command, such as the ATTEST
response or DUMP_READ data, and the command replies or fails with XLAT_FAULT. -/
def execHostWriteResponse (id : Nat) (status : BitVec 2) (s : State) : Host.Outcome State Fault Refusal :=
  work (writeResponse id status) s

/-- `FLASH_OPERATION_DONE` (R400). A flash erase, program, read-back or boot record write on fl_ completes, and
IMAGE_STAGE or IMAGE_ACTIVATE continues or replies. -/
def execFlashOperationDone (res : FlashResult) (s : State) : Host.Outcome State Fault Refusal :=
  live (flashDone res) s

/-- `ACTIVATION_SWITCH` (R402). At a packet boundary the new image's tables take force in one cycle. -/
def execActivationSwitch (s : State) : Host.Outcome State Fault Refusal :=
  work activationSwitch s

end Sys2Proof.Machine
end

