-- ==== Sys2Proof/Machine/ExecFabric.lean ====
section
/-! DEFINITION. Meanings of the commands: the fabric: lookups, epochs, ports, Serdo messages, discovery. One definition a command. -/

namespace Sys2Proof.Machine

/-- `ROUTE_LOOKUP` (R282). A route lookup is answered with a verdict in the next cycle. -/
def execRouteLookup (port node chan tag mosaic : Nat) (s : State) : Host.Outcome State Fault Refusal :=
  atUnit (decide (port < nPorts s.toBlock)) (effect (lookupRow port node chan tag mosaic) s)

/-- `EPOCH_APPLY` (R25). At the apply edge all banks switch their current epoch. -/
def execEpochApply (s : State) : Host.Outcome State Fault Refusal :=
  live epochApply s

/-- `EPOCH_DRAIN_DETECT` (R285). A DRAINING epoch is drained on this chip and EPOCH_DRAINED is sent once. -/
def execEpochDrainDetect (busy : List (BitVec 4)) (s : State) : Host.Outcome State Fault Refusal :=
  live (drainDetect busy) s

/-- `PORT_UP_CHANGE` (R307). A change of fm_port_up brings a port up or down. -/
def execPortUpChange (port : Nat) (up : Bool) (s : State) : Host.Outcome State Fault Refusal :=
  atUnit (decide (port < nPorts s.toBlock)) (live (portEvent port up) s)

/-- `WRITE_TRACK_REPORT` (R290). An engine reports a written granule, which is marked dirty. -/
def execWriteTrackReport (chan granule : Nat) (s : State) : Host.Outcome State Fault Refusal :=
  atUnit (decide (chan < nChannels s.toBlock)) (live (writeTrack chan granule) s)

/-- `SERDO_FORWARD` (R294). A message for another node is forwarded on its primary port, or dropped and counted. -/
def execSerdoForward (port : Nat) (m : SerdoMsg) (s : State) : Host.Outcome State Fault Refusal :=
  atUnit (decide (port < nPorts s.toBlock)) (live (forwardRow port m) s)

/-- `SERDO_UNLISTED_TYPE` (R294). A Serdo message of an unlisted type, or a version-1 message of type 0x30 or 0x31, is
received and discarded and counted. -/
def execSerdoUnlistedType (port : Nat) (m : SerdoMsg) (s : State) : Host.Outcome State Fault Refusal :=
  atUnit (decide (port < nPorts s.toBlock)) (live (unlistedRow port m) s)

/-- `HELLO` (R293). Receipt of HELLO completes the port's exchange and settles the version. -/
def execHello (port : Nat) (m : SerdoMsg) (s : State) : Host.Outcome State Fault Refusal :=
  atUnit (decide (port < nPorts s.toBlock)) (live (serdoRow 0x01 port m) s)

/-- `ELECT` (R302). Receipt of ELECT updates the election wave. -/
def execElect (port : Nat) (m : SerdoMsg) (s : State) : Host.Outcome State Fault Refusal :=
  atUnit (decide (port < nPorts s.toBlock)) (live (serdoRow 0x02 port m) s)

/-- `ECHO` (R302). Receipt of ECHO collects subtree counts and may finish the election. -/
def execEcho (port : Nat) (m : SerdoMsg) (s : State) : Host.Outcome State Fault Refusal :=
  atUnit (decide (port < nPorts s.toBlock)) (live (serdoRow 0x03 port m) s)

/-- `ASSIGN` (R303). Receipt of ASSIGN sets the node ID and passes bases to children. -/
def execAssign (port : Nat) (m : SerdoMsg) (s : State) : Host.Outcome State Fault Refusal :=
  atUnit (decide (port < nPorts s.toBlock)) (live (serdoRow 0x04 port m) s)

/-- `MAP` (R304). Receipt of a MAP record floods it and builds the map. -/
def execMapRec (port : Nat) (m : SerdoMsg) (s : State) : Host.Outcome State Fault Refusal :=
  atUnit (decide (port < nPorts s.toBlock)) (live (serdoRow 0x05 port m) s)

/-- `ROUTES_READY` (R300). Receipt of ROUTES_READY counts subtree nodes whose tables are loaded. -/
def execRoutesReady (port : Nat) (m : SerdoMsg) (s : State) : Host.Outcome State Fault Refusal :=
  atUnit (decide (port < nPorts s.toBlock)) (live (serdoRow 0x06 port m) s)

/-- `READY` (R300). Receipt of READY completes discovery on the block. -/
def execReady (port : Nat) (m : SerdoMsg) (s : State) : Host.Outcome State Fault Refusal :=
  atUnit (decide (port < nPorts s.toBlock)) (live (serdoRow 0x07 port m) s)

/-- `LINK_EVENT` (R286). The root receives a port event and starts an epoch change. -/
def execLinkEvent (port : Nat) (m : SerdoMsg) (s : State) : Host.Outcome State Fault Refusal :=
  atUnit (decide (port < nPorts s.toBlock)) (live (serdoRow 0x08 port m) s)

/-- `NODE_DOWN` (R307). Receipt of NODE_DOWN removes a node, breaks its mosaics and aborts turns. -/
def execNodeDown (port : Nat) (m : SerdoMsg) (s : State) : Host.Outcome State Fault Refusal :=
  atUnit (decide (port < nPorts s.toBlock)) (live (serdoRow 0x09 port m) s)

/-- `JOIN_REQUEST` (R306). The root receives a joining block's request and assigns it an ID. -/
def execJoinRequest (port : Nat) (m : SerdoMsg) (s : State) : Host.Outcome State Fault Refusal :=
  atUnit (decide (port < nPorts s.toBlock)) (live (serdoRow 0x0A port m) s)

/-- `MOSAIC_JOIN` (R273). The leader receives a member's join and enters KEYING when all have joined. -/
def execMosaicJoin (port : Nat) (m : SerdoMsg) (s : State) : Host.Outcome State Fault Refusal :=
  atUnit (decide (port < nPorts s.toBlock)) (live (serdoRow 0x10 port m) s)

/-- `MOSAIC_LEAVE` (R276). Receipt of MOSAIC_LEAVE breaks the mosaic. -/
def execMosaicLeave (port : Nat) (m : SerdoMsg) (s : State) : Host.Outcome State Fault Refusal :=
  atUnit (decide (port < nPorts s.toBlock)) (live (serdoRow 0x11 port m) s)

/-- `KEY_AGREE` (R295). Receipt of KEY_AGREE verifies the peer and unwraps or answers for the link key. -/
def execKeyAgree (port : Nat) (m : SerdoMsg) (s : State) : Host.Outcome State Fault Refusal :=
  atUnit (decide (port < nPorts s.toBlock)) (live (serdoRow 0x12 port m) s)

/-- `KEY_CONFIRM` (R295). The leader receives a member's key confirmation. -/
def execKeyConfirm (port : Nat) (m : SerdoMsg) (s : State) : Host.Outcome State Fault Refusal :=
  atUnit (decide (port < nPorts s.toBlock)) (live (serdoRow 0x13 port m) s)

/-- `MOSAIC_READY` (R273). Receipt of MOSAIC_READY enters READY, or returns to CREATED on failure. -/
def execMosaicReady (port : Nat) (m : SerdoMsg) (s : State) : Host.Outcome State Fault Refusal :=
  atUnit (decide (port < nPorts s.toBlock)) (live (serdoRow 0x14 port m) s)

/-- `EPOCH_PREPARE` (R286). Receipt of EPOCH_PREPARE loads the new epoch into all banks and answers EPOCH_ACK. -/
def execEpochPrepare (port : Nat) (m : SerdoMsg) (s : State) : Host.Outcome State Fault Refusal :=
  atUnit (decide (port < nPorts s.toBlock)) (live (serdoRow 0x18 port m) s)

/-- `EPOCH_ACK` (R286). The root receives a node's EPOCH_ACK. -/
def execEpochAck (port : Nat) (m : SerdoMsg) (s : State) : Host.Outcome State Fault Refusal :=
  atUnit (decide (port < nPorts s.toBlock)) (live (serdoRow 0x19 port m) s)

/-- `EPOCH_SWITCH` (R286). Receipt of EPOCH_SWITCH schedules the apply edge. -/
def execEpochSwitch (port : Nat) (m : SerdoMsg) (s : State) : Host.Outcome State Fault Refusal :=
  atUnit (decide (port < nPorts s.toBlock)) (live (serdoRow 0x1A port m) s)

/-- `EPOCH_DRAINED` (R286). The root receives a node's EPOCH_DRAINED. -/
def execEpochDrained (port : Nat) (m : SerdoMsg) (s : State) : Host.Outcome State Fault Refusal :=
  atUnit (decide (port < nPorts s.toBlock)) (live (serdoRow 0x1B port m) s)

/-- `EPOCH_FREE` (R284). Receipt of EPOCH_FREE frees the drained table slot. -/
def execEpochFree (port : Nat) (m : SerdoMsg) (s : State) : Host.Outcome State Fault Refusal :=
  atUnit (decide (port < nPorts s.toBlock)) (live (serdoRow 0x1C port m) s)

/-- `MIG_QUIESCE` (R289). A member stops placing pieces of the mosaic and sends MIG_HELD when its passes end. -/
def execMigQuiesce (port : Nat) (m : SerdoMsg) (s : State) : Host.Outcome State Fault Refusal :=
  atUnit (decide (port < nPorts s.toBlock)) (live (serdoRow 0x20 port m) s)

/-- `MIG_HELD` (R289). The source chip receives MIG_HELD and copies the last dirty granules once all members are held.
-/
def execMigHeld (port : Nat) (m : SerdoMsg) (s : State) : Host.Outcome State Fault Refusal :=
  atUnit (decide (port < nPorts s.toBlock)) (live (serdoRow 0x21 port m) s)

/-- `MIG_RESUME` (R289). A member resumes placement after a migration. -/
def execMigResume (port : Nat) (m : SerdoMsg) (s : State) : Host.Outcome State Fault Refusal :=
  atUnit (decide (port < nPorts s.toBlock)) (live (serdoRow 0x22 port m) s)

/-- `TURN_COMMIT` (R246). Receipt of TURN_COMMIT: the chip forwards it to its children and instantiates its template. -/
def execTurnCommit (port : Nat) (m : SerdoMsg) (s : State) : Host.Outcome State Fault Refusal :=
  atUnit (decide (port < nPorts s.toBlock)) (live (serdoRow 0x28 port m) s)

/-- `TURN_ARRIVE` (R246). Receipt of TURN_ARRIVE from a child. -/
def execTurnArrive (port : Nat) (m : SerdoMsg) (s : State) : Host.Outcome State Fault Refusal :=
  atUnit (decide (port < nPorts s.toBlock)) (live (serdoRow 0x29 port m) s)

/-- `TURN_ABORT` (R257). Receipt of TURN_ABORT aborts the turn. -/
def execTurnAbort (port : Nat) (m : SerdoMsg) (s : State) : Host.Outcome State Fault Refusal :=
  atUnit (decide (port < nPorts s.toBlock)) (live (serdoRow 0x2A port m) s)

/-- `TURN_TOKENS` (R255). The leader receives forwarded tokens and records them. -/
def execTurnTokens (port : Nat) (m : SerdoMsg) (s : State) : Host.Outcome State Fault Refusal :=
  atUnit (decide (port < nPorts s.toBlock)) (live (serdoRow 0x2B port m) s)

/-- `FLAG_SET` (R135). The target receives FLAG_SET and applies or refuses it. -/
def execFlagSet (port : Nat) (m : SerdoMsg) (s : State) : Host.Outcome State Fault Refusal :=
  atUnit (decide (port < nPorts s.toBlock)) (live (serdoRow 0x30 port m) s)

/-- `FLAG_REPLY` (R135). The signalling chip receives acceptance or refusal of its remote signal. -/
def execFlagReply (port : Nat) (m : SerdoMsg) (s : State) : Host.Outcome State Fault Refusal :=
  atUnit (decide (port < nPorts s.toBlock)) (live (serdoRow 0x31 port m) s)

/-- `COLL_STEP` (R308). Receipt of COLL_STEP advances a paired collective or fails it on a mismatch. -/
def execCollStep (port : Nat) (m : SerdoMsg) (s : State) : Host.Outcome State Fault Refusal :=
  atUnit (decide (port < nPorts s.toBlock)) (live (serdoRow 0x38 port m) s)

/-- `DISCOVERY_TRAINING_EXPIRY` (R301). The training wait expires and the election begins. -/
def execDiscoveryTrainingExpiry (s : State) : Host.Outcome State Fault Refusal :=
  live trainingExpiry s

/-- `HELLO_PHASE_EXPIRY` (R300). The HELLO phase bound after the last port up expires. -/
def execHelloPhaseExpiry (s : State) : Host.Outcome State Fault Refusal :=
  live helloExpiry s

/-- `DISCOVERY_WAVE_EXPIRY` (R305). A discovery wait expires and the block restarts from phase 3 with a FRESH HELLO. -/
def execDiscoveryWaveExpiry (s : State) : Host.Outcome State Fault Refusal :=
  live waveExpiry s

/-- `FRU_READ` (R297). The FRU read completes, or its bound expires, and the record is taken as valid or invalid. -/
def execFruRead (data : Option (List Byte)) (s : State) : Host.Outcome State Fault Refusal :=
  live (fruReadRow data) s

/-- `CMIS_READ` (R299). A module's CMIS read completes, or its bound expires and the module is taken as absent. -/
def execCmisRead (port : Nat) (data : Option (List Byte)) (s : State) : Host.Outcome State Fault Refusal :=
  atUnit (decide (port < nPorts s.toBlock)) (live (cmisRead port data) s)

end Sys2Proof.Machine
end

