-- ==== Sys2Proof/Machine/ExecGuard.lean ====
section
/-! DEFINITION. Meanings of the commands: security and faults. One definition a command. -/

namespace Sys2Proof.Machine

/-- `KEY_SIDEBAND_ACK` (R344). An inline engine pulses ks_ack for the operation in progress. -/
def execKeySidebandAck (inst : Nat) (s : State) : Host.Outcome State Fault Refusal :=
  atUnit (ksInst s.toBlock inst) (live (ksAck inst) s)

/-- `KEY_SIDEBAND_ACK_EXPIRY` (R344). An engine fails to acknowledge within 1,024 cycles and a fatal fault is reported.
-/
def execKeySidebandAckExpiry (inst : Nat) (s : State) : Host.Outcome State Fault Refusal :=
  atUnit (ksInst s.toBlock inst) (live (ksExpiry inst) s)

/-- `KS_DROP` (R344). An engine pulses ks_drop for a refused request, counted in SEC_TD_LATE. -/
def execKsDrop (inst : Nat) (s : State) : Host.Outcome State Fault Refusal :=
  atUnit (ksInst s.toBlock inst) (live ksDropRow s)

/-- `KS_DRAIN_ACK` (R347). A link instance pulses ks_df_ack for a drain fence. -/
def execKsDrainAck (port : Nat) (s : State) : Host.Outcome State Fault Refusal :=
  atUnit (decide (port < nPorts s.toBlock)) (live (ksDrainAck port) s)

/-- `TEARDOWN_STEP` (R347). The next teardown step begins when the previous one has ended. -/
def execTeardownStep (s : State) : Host.Outcome State Fault Refusal :=
  work teardownStep s

/-- `TEARDOWN_DRAIN_EXPIRY` (R348). The drain bound expires; pending ports are recorded and teardown continues. -/
def execTeardownDrainExpiry (s : State) : Host.Outcome State Fault Refusal :=
  work teardownDrainExpiry s

/-- `TR_ACK` (R349). The translation unit pulses tr_ack for a REVOKE or ENABLE. -/
def execTrAck (s : State) : Host.Outcome State Fault Refusal :=
  live trAck s

/-- `TR_ACK_EXPIRY` (R350). A tr_ack is not received within the drain bound; teardown is deferred or CTX_CREATE is
refused. -/
def execTrAckExpiry (s : State) : Host.Outcome State Fault Refusal :=
  live trAckExpiry s

/-- `ENTROPY_HEALTH_FAIL` (R328). The entropy source fails its health tests and a fatal fault is reported. -/
def execEntropyHealthFail (s : State) : Host.Outcome State Fault Refusal :=
  timed entropyFail s

/-- `QUIET_PERIOD_EXPIRY` (R359). A source's quiet timer expires and it returns to QUIET. -/
def execQuietPeriodExpiry (src : Nat) (s : State) : Host.Outcome State Fault Refusal :=
  atUnit (decide (src < 64)) (timed (quietExpiry src) s)

/-- `HANG_WATCHDOG_EXPIRY` (R366). A queue's watchdog expires and the queue halts with HANG. -/
def execHangWatchdogExpiry (q : Nat) (s : State) : Host.Outcome State Fault Refusal :=
  atUnit (decide (q < nQueues s.toBlock)) (work (hangExpiry q) s)

/-- `PART_RESET_STEP` (R367). The next partition reset step begins when the previous one has ended. -/
def execPartResetStep (slot : Nat) (s : State) : Host.Outcome State Fault Refusal :=
  atUnit (decide (slot < 64)) (work (partStep slot) s)

/-- `COLLECTOR_SELF_FAULT` (R364). A parity error in FLT state drives the block into stalemate by the hardwired path. -/
def execCollectorSelfFault (s : State) : Host.Outcome State Fault Refusal :=
  timed selfFault s

/-- `CLOCK_LOSS` (R372). The monitor detects clock loss and the AON logic lowers fault_fatal_n and hp_blk_up and clears
keys. -/
def execClockLoss (s : State) : Host.Outcome State Fault Refusal :=
  power clockLoss s

/-- `CLOCK_RETURN` (R372). The clock returns, the stalemate entry steps run and hp_blk_up rises again. -/
def execClockReturn (s : State) : Host.Outcome State Fault Refusal :=
  power clockReturn s

/-- `HOST_LEASE_EXPIRY` (R374). The lease expires and fetching and releases stop. -/
def execHostLeaseExpiry (s : State) : Host.Outcome State Fault Refusal :=
  live leaseExpiry s

/-- `BYPASS` (R363). The wrapper instruction selects the bypass register. -/
def execBypass (s : State) : Host.Outcome State Fault Refusal :=
  power (tapSelect 0) s

/-- `IDCODE` (R363). The wrapper instruction reports configuration and stepping. -/
def execIdcode (s : State) : Host.Outcome State Fault Refusal :=
  power (fun b => tapIdcode (tapSelect 1 b)) s

/-- `SCAN` (R363). The wrapper instruction enters stalemate with reason TEST, zeroes SRAMs, then gives scan access. -/
def execScan (s : State) : Host.Outcome State Fault Refusal :=
  power (fun b => tapTest (tapSelect 2 b)) s

/-- `MBIST` (R363). The wrapper instruction enters stalemate with reason TEST, zeroes SRAMs, then runs memory BIST. -/
def execMbist (s : State) : Host.Outcome State Fault Refusal :=
  power (fun b => tapTest (tapSelect 3 b)) s

/-- `UNLOCK` (R363). The wrapper instruction sets FLT_TEST.UNLOCK when TEST_LOCK is 0. -/
def execUnlock (s : State) : Host.Outcome State Fault Refusal :=
  power (fun b => tapUnlock (tapSelect 4 b)) s

end Sys2Proof.Machine
end

