-- ==== Sys2Proof/Machine/ExecHost.lean ====
section
/-! DEFINITION. Meanings of the commands: the reset inputs, start-up, and the accesses of the host on `hp_mr_`. One definition a command. -/

namespace Sys2Proof.Machine

/-- `POR_N_ASSERT` (R394). Assertion of por_n drives idle outputs, zeroises key slots, isolates domains and clears all
state including the fault log. -/
def execPorNAssert (s : State) : Host.Outcome State Fault Refusal :=
  effect porAssert s

/-- `HRST_N_ASSERT` (R394). hrst_n is taken when low at two consecutive CLK_REF edges; it resets every item except the
fault state that R377 keeps. -/
def execHrstNAssert (edges : Nat) (s : State) : Host.Outcome State Fault Refusal :=
  effect (hrstAssert edges) s

/-- `RESET_RELEASE` (R395). Release of por_n or hrst_n begins the block-local start-up sequence. -/
def execResetRelease (s : State) : Host.Outcome State Fault Refusal :=
  effect releaseReset s

/-- `STARTUP_STEP` (R395). The next start-up step begins once the previous one ends: fuse read, domain power-up, IDK
derivation, ROM verify, DVFS, discovery, and the rise of hp_blk_up. -/
def execStartupStep (input : StartInput) (s : State) : Host.Outcome State Fault Refusal :=
  live (startupStep input) s

/-- `TAIL_DOORBELL` (R42). An accepted tail doorbell write replaces TAIL and sets PENDING; an invalid write is discarded
and counted. -/
def execTailDoorbell (a : MmioWrite) (s : State) : Host.Outcome State Fault Refusal :=
  effect (bellRow (fun x => match x with | .tail _ => true | _ => false) a) s

/-- `CQ_HEAD_DOORBELL` (R42). An accepted completion-ring head doorbell write replaces CQ_HEAD. -/
def execCqHeadDoorbell (a : MmioWrite) (s : State) : Host.Outcome State Fault Refusal :=
  effect (bellRow (fun x => match x with | .cqHead _ => true | _ => false) a) s

/-- `RENEW` (R374). Writing 1 to HUB_HOST_LEASE.RENEW restarts the lease counter, clears EXPIRED and LEASE_STOP, and
resumes the queues. -/
def execRenew (a : MmioWrite) (s : State) : Host.Outcome State Fault Refusal :=
  effect (regRow (fun r => match r with | .hubHostLease => true | _ => false) a) s

/-- `ADM_CMD_TAIL` (R408). A full 64-bit write below 1,024 replaces the admin command tail; any other write is dropped
and counted. -/
def execAdmCmdTail (a : MmioWrite) (s : State) : Host.Outcome State Fault Refusal :=
  effect (regRow (fun r => match r with | .admCmdTail => true | _ => false) a) s

/-- `ADM_RPL_HEAD` (R411). The driver reports consumption of admin replies; a partial write is dropped and counted. -/
def execAdmRplHead (a : MmioWrite) (s : State) : Host.Outcome State Fault Refusal :=
  effect (regRow (fun r => match r with | .admRplHead => true | _ => false) a) s

/-- `SEQ_PCACHE_INV` (R177). A write invalidates the program cache entries of one context, or of all contexts, in every
sequencer. -/
def execSeqPcacheInv (a : MmioWrite) (s : State) : Host.Outcome State Fault Refusal :=
  effect (regRow (fun r => match r with | .seqPcacheInv => true | _ => false) a) s

/-- `FLT_FORCE` (R362). Writing GO injects one error of the selected source, or refuses the force and counts it. -/
def execFltForce (a : MmioWrite) (s : State) : Host.Outcome State Fault Refusal :=
  effect (regRow (fun r => match r with | .fltForce => true | _ => false) a) s

/-- `DUMP_UNLOCK` (R376). Writing 1 to FLT_DUMP_STATUS.UNLOCK clears LOCKED. -/
def execDumpUnlock (a : MmioWrite) (s : State) : Host.Outcome State Fault Refusal :=
  effect (regRow (fun r => match r with | .fltDumpStatus => true | _ => false) a) s

/-- `FLT_SUMMARY_CLEAR` (R360). A W1C write clears class bits, which are set again in the next cycle if a source of that
class is still ACTIVE. -/
def execFltSummaryClear (a : MmioWrite) (s : State) : Host.Outcome State Fault Refusal :=
  effect (regRow (fun r => match r with | .fltSummary => true | _ => false) a) s

/-- `RESCAN` (R310). Writing FAB_ID_CFG.RESCAN repeats the CMIS reads on every bus. -/
def execRescan (a : MmioWrite) (s : State) : Host.Outcome State Fault Refusal :=
  effect (regRow (fun r => match r with | .fabIdCfg => true | _ => false) a) s

/-- `BAT_CTX_TR_CFG` (R259). A write configures the context token ring; ENABLE = 1 resets HEAD, TAIL, PHASE and
UNDELIVERABLE. -/
def execBatCtxTrCfg (a : MmioWrite) (s : State) : Host.Outcome State Fault Refusal :=
  effect (regRow (fun r => match r with | .batCtxTrCfg _ => true | _ => false) a) s

/-- `BAT_CTX_TR_HEAD` (R259). The driver reports token ring consumption; an out-of-range value is discarded. -/
def execBatCtxTrHead (a : MmioWrite) (s : State) : Host.Outcome State Fault Refusal :=
  effect (regRow (fun r => match r with | .batCtxTrHead _ => true | _ => false) a) s

/-- `DSP_CORE_FAILED` (R165). Writing 1 to a DSP_CORE_FAILED bit returns the core to placement. -/
def execDspCoreFailed (a : MmioWrite) (s : State) : Host.Outcome State Fault Refusal :=
  effect (regRow (fun r => match r with | .dspCoreFailed _ => true | _ => false) a) s

/-- `SCH_BW_CFG` (R326). A write reconfigures the slot's token bucket at the next refill edge, and fills the bucket when
ENABLE goes from 0 to 1. -/
def execSchBwCfg (a : MmioWrite) (s : State) : Host.Outcome State Fault Refusal :=
  effect (regRow (fun r => match r with | .schBwCfg => true | _ => false) a) s

/-- `REGISTER_WRITE` (R430). A BAR0 write to a register with no row of its own updates only its writable fields. -/
def execRegisterWrite (a : MmioWrite) (s : State) : Host.Outcome State Fault Refusal :=
  effect (mmio (.write false a)) s

/-- `ADMIN_WINDOW_WRITE` (R406). A BAR2 write to the admin window stores into the command ring, or is discarded and
counted in ADM_DROP when it targets the reply ring. -/
def execAdminWindowWrite (a : MmioWrite) (s : State) : Host.Outcome State Fault Refusal :=
  effect (mmio (.write true a)) s

/-- `REGISTER_READ` (R430). A BAR0 or BAR2 read is answered; it clears the RC fields it reads, returns zero or hp_ms_err
as the region and state require, and wakes PD_HUB when that domain is not ON. -/
def execRegisterRead (bar2 : Bool) (addr : BitVec 24) (fn : Bool) (id : BitVec 3) (s : State) : Host.Outcome State Fault Refusal :=
  effect (mmio (.read bar2 addr fn id)) s

end Sys2Proof.Machine
end

