-- ==== Sys2Proof/Machine/ExecPacket.lean ====
section
/-! DEFINITION. Meanings of the commands: command packets, flags, folds and the wait-cycle detector. One definition a command. -/

namespace Sys2Proof.Machine

/-- `LAUNCH` (R93). A released LAUNCH is split into pieces and dispatched. -/
def execLaunch (p : PktRef) (s : State) : Host.Outcome State Fault Refusal :=
  atUnit (decide (p.q < nQueues s.toBlock)) (work (packetRow .launch relLaunch p) s)

/-- `LAUNCH_TURN` (R96). A released LAUNCH_TURN starts the mosaic's turn loop with its template. -/
def execLaunchTurn (p : PktRef) (s : State) : Host.Outcome State Fault Refusal :=
  atUnit (decide (p.q < nQueues s.toBlock)) (work (packetRow .launchTurn relTurn p) s)

/-- `COPY` (R99). A released COPY runs as DMA chunks. -/
def execCopyPkt (p : PktRef) (s : State) : Host.Outcome State Fault Refusal :=
  atUnit (decide (p.q < nQueues s.toBlock)) (work (packetRow .copy relCopy p) s)

/-- `FILL` (R100). A released FILL writes a pattern by DMA chunks. -/
def execFillPkt (p : PktRef) (s : State) : Host.Outcome State Fault Refusal :=
  atUnit (decide (p.q < nQueues s.toBlock)) (work (packetRow .fill relFill p) s)

/-- `COLLECTIVE` (R101). A released COLLECTIVE is paired across chips and run over the mosaic. -/
def execCollective (p : PktRef) (s : State) : Host.Outcome State Fault Refusal :=
  atUnit (decide (p.q < nQueues s.toBlock)) (work (packetRow .collective relCollective p) s)

/-- `WAIT_FLAG` (R128). A released WAIT_FLAG takes a wait-list entry or starts memory polling. -/
def execWaitFlag (p : PktRef) (s : State) : Host.Outcome State Fault Refusal :=
  atUnit (decide (p.q < nQueues s.toBlock)) (work (packetRow .waitFlag relWait p) s)

/-- `SIGNAL_FLAG` (R129). A released SIGNAL_FLAG updates an on-block, memory or remote flag. -/
def execSignalFlag (p : PktRef) (s : State) : Host.Outcome State Fault Refusal :=
  atUnit (decide (p.q < nQueues s.toBlock)) (work (packetRow .signalFlag relSignal p) s)

/-- `PATCH_FROM_FLAG` (R109). At release, the flag value is written into the interpreter's copy of the buffer and
decoding resumes. -/
def execPatchFromFlag (p : PktRef) (s : State) : Host.Outcome State Fault Refusal :=
  atUnit (decide (p.q < nQueues s.toBlock)) (work (packetRow .patchFromFlag relPatch p) s)

/-- `SEQ_ADMIT` (R241). The packet admits a sequence to JOINING. -/
def execSeqAdmit (p : PktRef) (s : State) : Host.Outcome State Fault Refusal :=
  atUnit (decide (p.q < nQueues s.toBlock)) (work (packetRow .seqAdmit relAdmit p) s)

/-- `SEQ_RETIRE` (R242). The packet sets RETIRE on a sequence. -/
def execSeqRetire (p : PktRef) (s : State) : Host.Outcome State Fault Refusal :=
  atUnit (decide (p.q < nQueues s.toBlock)) (work (packetRow .seqRetire relRetire p) s)

/-- `KV_RESERVE` (R243). The packet reserves pages ahead for a sequence. -/
def execKvReserve (p : PktRef) (s : State) : Host.Outcome State Fault Refusal :=
  atUnit (decide (p.q < nQueues s.toBlock)) (work (packetRow .kvReserve relReserve p) s)

/-- `KEY_BIND` (R340). The packet adds or removes a sealed-range binding at every engine and sequencer. -/
def execKeyBind (p : PktRef) (s : State) : Host.Outcome State Fault Refusal :=
  atUnit (decide (p.q < nQueues s.toBlock)) (work (packetRow .keyBind relBind p) s)

/-- `TRANSCRIPT_MARK` (R114). The packet writes the transcript chain value and fold count to memory. -/
def execTranscriptMark (p : PktRef) (s : State) : Host.Outcome State Fault Refusal :=
  atUnit (decide (p.q < nQueues s.toBlock)) (work (packetRow .transcriptMark relMark p) s)

/-- `RNG_SEED` (R115). The packet replaces the context's sampling key. -/
def execRngSeed (p : PktRef) (s : State) : Host.Outcome State Fault Refusal :=
  atUnit (decide (p.q < nQueues s.toBlock)) (work (packetRow .rngSeed relSeed p) s)

/-- `NOP` (R105). The NOP packet is launched and folded and does nothing. -/
def execNop (p : PktRef) (s : State) : Host.Outcome State Fault Refusal :=
  atUnit (decide (p.q < nQueues s.toBlock)) (work (controlRow .nop p) s)

/-- `FENCE` (R137). A FENCE holds later packets of the buffer until its scope's condition is met. -/
def execFence (p : PktRef) (s : State) : Host.Outcome State Fault Refusal :=
  atUnit (decide (p.q < nQueues s.toBlock)) (work (controlRow .fence p) s)

/-- `ATOMIC_BEGIN` (R106). The packet opens an atomic section. -/
def execAtomicBegin (p : PktRef) (s : State) : Host.Outcome State Fault Refusal :=
  atUnit (decide (p.q < nQueues s.toBlock)) (work (controlRow .atomicBegin p) s)

/-- `ATOMIC_END` (R106). The packet closes an atomic section. -/
def execAtomicEnd (p : PktRef) (s : State) : Host.Outcome State Fault Refusal :=
  atUnit (decide (p.q < nQueues s.toBlock)) (work (controlRow .atomicEnd p) s)

/-- `END` (R84). The END packet ends interpretation of the buffer. -/
def execEndPkt (p : PktRef) (s : State) : Host.Outcome State Fault Refusal :=
  atUnit (decide (p.q < nQueues s.toBlock)) (work (controlRow .endP p) s)

/-- `FOLD` (R336). A hash engine folds a pending record into a context's transcript chain. -/
def execFold (c : Nat) (s : State) : Host.Outcome State Fault Refusal :=
  atUnit (decide (c < nContexts s.toBlock)) (work (foldNext c) s)

/-- `WAIT_COMPLETE` (R130). After a flag change, satisfied on-block waits complete within the bound. -/
def execWaitComplete (flag : Nat) (s : State) : Host.Outcome State Fault Refusal :=
  atUnit (decide (flag < 65536)) (work (waitComplete flag) s)

/-- `MEMPOLL_INTERVAL_EXPIRY` (R133). The poll interval expires and DEP reads a memory flag again. -/
def execMempollIntervalExpiry (op : Nat) (s : State) : Host.Outcome State Fault Refusal :=
  work (mempollExpiry op) s

/-- `MEMPOLL_RESPONSE` (R133). A memory flag read returns; the wait completes if its compare holds, or the submission
fails on an error. -/
def execMempollResponse (n tag : Nat) (status : BitVec 3) (value : W64) (s : State) : Host.Outcome State Fault Refusal :=
  atUnit (decide (n < nSeqrs s.toBlock) && decide (tag < 256)) (work (mempollResponse n tag status value) s)

/-- `WCD_PASS` (R142). A wait-cycle detector pass computes the candidate set D. -/
def execWcdPass (s : State) : Host.Outcome State Fault Refusal :=
  work wcdPass s

/-- `WCD_SETTLE_EXPIRY` (R142). The settle delay expires and the second pass runs. -/
def execWcdSettleExpiry (s : State) : Host.Outcome State Fault Refusal :=
  work wcdSettle s

end Sys2Proof.Machine
end

