-- ==== Sys2Proof/Machine/ExecPower.lean ====
section
/-! DEFINITION. Meanings of the commands: power, clocks and emergencies. One definition a command. -/

namespace Sys2Proof.Machine

/-- `PGOOD_RISE` (R382). pm_pgood rises and the domain completes its exit to ON. -/
def execPgoodRise (d : Nat) (s : State) : Host.Outcome State Fault Refusal :=
  atUnit (decide (1 ≤ d) && decide (d < 5 + nSeqrs s.toBlock / 8)) (power (pgoodEvent d) s)

/-- `DOMAIN_IDLE_EXPIRY` (R385). A domain's idle timer expires and entry to its target starts. -/
def execDomainIdleExpiry (d : Nat) (s : State) : Host.Outcome State Fault Refusal :=
  atUnit (decide (1 ≤ d) && decide (d < 5 + nSeqrs s.toBlock / 8)) (power (idleExpiry d) s)

/-- `AVS_READVOUT` (R389). A ReadVout frame completes and may confirm the voltage of a DVFS sequence. -/
def execAvsReadvout (mv : Nat) (s : State) : Host.Outcome State Fault Refusal :=
  power (avsReadvout mv) s

/-- `DIV_ACK` (R389). The followers pulse pm_div_ack after a divider change. -/
def execDivAck (s : State) : Host.Outcome State Fault Refusal :=
  power divAck s

/-- `DVFS_SETTLE_EXPIRY` (R389). A voltage confirmation wait expires and the sequence fails. -/
def execDvfsSettleExpiry (s : State) : Host.Outcome State Fault Refusal :=
  power settleExpiry s

/-- `DIV_ACK_EXPIRY` (R389). The divider acknowledgement wait expires and the sequence fails. -/
def execDivAckExpiry (s : State) : Host.Outcome State Fault Refusal :=
  power divAckExpiry s

/-- `POWER_SAMPLE` (R391). Every 1 ms chip power is sampled and the governor steps CLK_SEQ. -/
def execPowerSample (rails : List Nat) (s : State) : Host.Outcome State Fault Refusal :=
  power (powerSample rails) s

/-- `EMERGENCY_ENTRY` (R392). A fall of the thermal trip or alert input switches to DIV12 and holds launches. -/
def execEmergencyEntry (pin : EmergPin) (s : State) : Host.Outcome State Fault Refusal :=
  power (emergencyEntry pin) s

/-- `EMERGENCY_CLEAR_EXPIRY` (R393). Both inputs stay high for the hold period; the emergency ends and DVFS and
activation resume. -/
def execEmergencyClearExpiry (s : State) : Host.Outcome State Fault Refusal :=
  power emergencyClear s

/-- `AVS_TARGET_WRITE_DONE` (R389). A TargetRailVoltage frame on AVSBus completes, and the DVFS sequencer begins polling
ReadVout or proceeds with the sequence. -/
def execAvsTargetWriteDone (s : State) : Host.Outcome State Fault Refusal :=
  power avsWriteDone s

/-- `EMERGENCY_INPUT_RISE` (R393). pm_therm_trip_n or pm_alert_n rises, updating PWR_EMERG and, once both inputs are
high, starting the clear hold count. -/
def execEmergencyInputRise (pin : EmergPin) (s : State) : Host.Outcome State Fault Refusal :=
  power (emergencyRise pin) s

end Sys2Proof.Machine
end

