-- ==== Sys2Proof/Machine/ExecQueue.lean ====
section
/-! DEFINITION. Meanings of the commands: queues: fetch, checks, start and completion of submissions. One definition a command. -/

namespace Sys2Proof.Machine

/-- `QUEUE_WAKE` (R43). An IDLE queue with PENDING set becomes ACTIVE in the next cycle. -/
def execQueueWake (q : Nat) (s : State) : Host.Outcome State Fault Refusal :=
  atUnit (decide (q < nQueues s.toBlock)) (work (queueWake q) s)

/-- `FETCHER_ARM` (R43). With HEAD at the captured tail, the fetcher arms. -/
def execFetcherArm (q : Nat) (s : State) : Host.Outcome State Fault Refusal :=
  atUnit (decide (q < nQueues s.toBlock)) (work (fetcherArm q) s)

/-- `FETCHER_CAPTURE` (R43). The fetcher captures TAIL and clears PENDING, then continues fetching, captures again, or
goes IDLE. -/
def execFetcherCapture (q : Nat) (s : State) : Host.Outcome State Fault Refusal :=
  atUnit (decide (q < nQueues s.toBlock)) (work (fetcherCapture q) s)

/-- `FETCH_ENTRY` (R43). The fetcher takes the entry at HEAD and advances HEAD. -/
def execFetchEntry (q : Nat) (s : State) : Host.Outcome State Fault Refusal :=
  atUnit (decide (q < nQueues s.toBlock)) (work (fetchEntry q) s)

/-- `PREFETCH_READ` (R50). The fetch engine issues a demand or prefetch host read of one 512-byte line. -/
def execPrefetchRead (s : State) : Host.Outcome State Fault Refusal :=
  work prefetchRead s

/-- `HOST_READ_RESPONSE` (R51). A host DMA read response arrives and is reassembled; a failure is recorded for later
reporting. -/
def execHostReadResponse (id : Nat) (status : BitVec 2) (data : List Byte) (s : State) : Host.Outcome State Fault Refusal :=
  work (readResponse id status data) s

/-- `SUBMISSION_CHECK` (R56). Once its bytes are available, an entry and its patch list are checked in order. -/
def execSubmissionCheck (q : Nat) (s : State) : Host.Outcome State Fault Refusal :=
  atUnit (decide (q < nQueues s.toBlock)) (work (submissionCheck q) s)

/-- `CHECK_PASS` (R89). The interpreter checks one packet of the patched buffer in the check pass. -/
def execCheckPass (q : Nat) (s : State) : Host.Outcome State Fault Refusal :=
  atUnit (decide (q < nQueues s.toBlock)) (work (checkPass q) s)

/-- `SUBMISSION_START` (R125). A submission that may start has its inline waits evaluated and its flag pages tested. -/
def execSubmissionStart (q : Nat) (s : State) : Host.Outcome State Fault Refusal :=
  atUnit (decide (q < nQueues s.toBlock)) (work (submissionStart q) s)

/-- `COMPLETION_RECORD_WRITE` (R60). Once the submission's writes are acknowledged and ring space allows, HUB issues its
completion record. -/
def execCompletionRecordWrite (q : Nat) (s : State) : Host.Outcome State Fault Refusal :=
  atUnit (decide (q < nQueues s.toBlock)) (work (completionRecord q) s)

/-- `MSIX_REFUSED` (R64). The controller refuses a vector request; MSI_ERR is set and the event is reported. -/
def execMsixRefused (vec : Nat) (s : State) : Host.Outcome State Fault Refusal :=
  work (msixRefused vec) s

/-- `COMPLETION_WRITE_RESPONSE` (R65). The record write response retires the submission and performs its inline signal,
or halts the queue as undeliverable. -/
def execCompletionWriteResponse (id : Nat) (status : BitVec 2) (s : State) : Host.Outcome State Fault Refusal :=
  work (completionResponse id status) s

end Sys2Proof.Machine
end

