-- ==== Sys2Proof/Machine/ExecTile.lean ====
section
/-! DEFINITION. Meanings of the commands: dispatch, passes, tile program instructions, lanes and DMA ports. One definition a command. -/

namespace Sys2Proof.Machine

/-- `DESCRIPTOR_ISSUE` (R152). Each cycle DSP places pieces or chunks and issues one launch descriptor. -/
def execDescriptorIssue (s : State) : Host.Outcome State Fault Refusal :=
  work descriptorIssue s

/-- `PASS_END_REPORT` (R165). DSP receives a pass end with per-lane status, frees the cores, readies combines and
re-places faulted pieces. -/
def execPassEndReport (n : Nat) (s : State) : Host.Outcome State Fault Refusal :=
  atUnit (decide (n < nSeqrs s.toBlock)) (work (passEndReport n) s)

/-- `BANK_TRANSFER_COMPLETE` (R155). The shadow bank is complete and its program resident; the sequencer swaps banks and
starts the pass. -/
def execBankTransferComplete (n : Nat) (s : State) : Host.Outcome State Fault Refusal :=
  atUnit (decide (n < nSeqrs s.toBlock)) (work (bankTransfer n) s)

/-- `PASS_START` (R180). A pass starts, its state is zeroed and both streams begin issuing. -/
def execPassStart (n : Nat) (s : State) : Host.Outcome State Fault Refusal :=
  atUnit (decide (n < nSeqrs s.toBlock)) (work (passStart n) s)

/-- `PASS_END` (R181). Both streams have ended and nothing is outstanding; the sequencer checks its queues and reports
the pass end. -/
def execPassEnd (n : Nat) (s : State) : Host.Outcome State Fault Refusal :=
  atUnit (decide (n < nSeqrs s.toBlock)) (work (passEnd n) s)

/-- `STREAM_JAM_EXPIRY` (R182). After 16 jammed cycles the pass fails with BAD_STATE. -/
def execStreamJamExpiry (n : Nat) (s : State) : Host.Outcome State Fault Refusal :=
  atUnit (decide (n < nSeqrs s.toBlock)) (work (jamExpiry n) s)

/-- `COMBINE_PASS` (R199). A sequencer runs the fixed combine sequence over two scratch slots. -/
def execCombinePass (n : Nat) (s : State) : Host.Outcome State Fault Refusal :=
  atUnit (decide (n < nSeqrs s.toBlock)) (work (combinePass n) s)

/-- `CHUNK_PASS` (R199). A sequencer issues one COPY or FILL descriptor for a chunk. -/
def execChunkPass (n : Nat) (s : State) : Host.Outcome State Fault Refusal :=
  atUnit (decide (n < nSeqrs s.toBlock)) (work (chunkPass n) s)

/-- `PROGRAM_FETCH` (R178). A non-resident program is allocated blocks and read by PFETCH descriptors. -/
def execProgramFetch (n : Nat) (s : State) : Host.Outcome State Fault Refusal :=
  atUnit (decide (n < nSeqrs s.toBlock)) (work (programFetch n) s)

/-- `LOOP` (R186). The instruction opens a loop level with a count. -/
def execLoopI (n : Nat) (st : StreamSel) (s : State) : Host.Outcome State Fault Refusal :=
  atUnit (decide (n < nSeqrs s.toBlock)) (work (instrRow n (StreamSel.exe st) 0x01 (loopEff n (StreamSel.exe st))) s)

/-- `ENDL` (R187). The instruction advances or exits a loop level, applying increments or rewinding. -/
def execEndl (n : Nat) (st : StreamSel) (s : State) : Host.Outcome State Fault Refusal :=
  atUnit (decide (n < nSeqrs s.toBlock)) (work (instrRow n (StreamSel.exe st) 0x02 (endlEff n (StreamSel.exe st))) s)

/-- `AINC` (R189). The instruction sets a loop increment for an a-register. -/
def execAInc (n : Nat) (s : State) : Host.Outcome State Fault Refusal :=
  atUnit (decide (n < nSeqrs s.toBlock)) (work (instrRow n false 0x03 (aincEff n)) s)

/-- `SMOV` (R188). The instruction moves an immediate into a register. -/
def execSMov (n : Nat) (st : StreamSel) (s : State) : Host.Outcome State Fault Refusal :=
  atUnit (decide (n < nSeqrs s.toBlock)) (work (instrRow n (StreamSel.exe st) 0x04 (smovEff n (StreamSel.exe st))) s)

/-- `SALU` (R188). The instruction performs a 64-bit scalar ALU function. -/
def execSAlu (n : Nat) (st : StreamSel) (s : State) : Host.Outcome State Fault Refusal :=
  atUnit (decide (n < nSeqrs s.toBlock)) (work (instrRow n (StreamSel.exe st) 0x05 (saluEff n (StreamSel.exe st))) s)

/-- `RDP` (R180). The instruction copies a pass value into a register. -/
def execRdp (n : Nat) (st : StreamSel) (s : State) : Host.Outcome State Fault Refusal :=
  atUnit (decide (n < nSeqrs s.toBlock)) (work (instrRow n (StreamSel.exe st) 0x06 (rdpEff n (StreamSel.exe st))) s)

/-- `DROP` (R184). The instruction pops a queue head whatever its readiness. -/
def execDrop (n : Nat) (st : StreamSel) (s : State) : Host.Outcome State Fault Refusal :=
  atUnit (decide (n < nSeqrs s.toBlock)) (work (instrRow n (StreamSel.exe st) 0x07 (dropEff n (StreamSel.exe st))) s)

/-- `LOAD` (R189). The instruction loads a shape into a tile by descriptors and pushes its handle. -/
def execLoad (n : Nat) (s : State) : Host.Outcome State Fault Refusal :=
  atUnit (decide (n < nSeqrs s.toBlock)) (work (instrRow n false 0x08 (loadEff n)) s)

/-- `STORE` (R189). The instruction pops a tile and writes it to memory. -/
def execStore (n : Nat) (s : State) : Host.Outcome State Fault Refusal :=
  atUnit (decide (n < nSeqrs s.toBlock)) (work (instrRow n false 0x09 (storeEff n)) s)

/-- `SHAPE` (R189). The instruction sets a shape slot. -/
def execShape (n : Nat) (s : State) : Host.Outcome State Fault Refusal :=
  atUnit (decide (n < nSeqrs s.toBlock)) (work (instrRow n false 0x0A (shapeEff n)) s)

/-- `ALLOC` (R189). The instruction pushes a tile handle without transfer. -/
def execAlloc (n : Nat) (s : State) : Host.Outcome State Fault Refusal :=
  atUnit (decide (n < nSeqrs s.toBlock)) (work (instrRow n false 0x0B (allocEff n)) s)

/-- `SLD` (R189). The instruction loads the root scratch slot in an EPILOGUE pass. -/
def execSld (n : Nat) (s : State) : Host.Outcome State Fault Refusal :=
  atUnit (decide (n < nSeqrs s.toBlock)) (work (instrRow n false 0x0C (sldEff n)) s)

/-- `SST` (R189). The instruction stores a tile to the piece's scratch slot in a PARTIAL pass. -/
def execSst (n : Nat) (s : State) : Host.Outcome State Fault Refusal :=
  atUnit (decide (n < nSeqrs s.toBlock)) (work (instrRow n false 0x0D (sstEff n)) s)

/-- `LDS` (R189). The instruction loads 8 bytes into an s-register. -/
def execLds (n : Nat) (s : State) : Host.Outcome State Fault Refusal :=
  atUnit (decide (n < nSeqrs s.toBlock)) (work (instrRow n false 0x0E (ldsEff n)) s)

/-- `PUSHS` (R189). The instruction pushes an s-register to the scalar queue. -/
def execPushs (n : Nat) (s : State) : Host.Outcome State Fault Refusal :=
  atUnit (decide (n < nSeqrs s.toBlock)) (work (instrRow n false 0x0F (pushsEff n)) s)

/-- `TOP` (R192). The instruction pops operand handles and issues a tile operation to every active lane. -/
def execTop (n : Nat) (s : State) : Host.Outcome State Fault Refusal :=
  atUnit (decide (n < nSeqrs s.toBlock)) (work (instrRow n true 0x10 (topEff n)) s)

/-- `TSHAPE` (R191). The instruction sets the tile shape and the X and IMM selection. -/
def execTshape (n : Nat) (s : State) : Host.Outcome State Fault Refusal :=
  atUnit (decide (n < nSeqrs s.toBlock)) (work (instrRow n true 0x11 (tshapeEff n)) s)

/-- `SAMPLE` (R194). The instruction pops a logits tile and issues a SAMPLE tile operation with its generator value. -/
def execSample (n : Nat) (s : State) : Host.Outcome State Fault Refusal :=
  atUnit (decide (n < nSeqrs s.toBlock)) (work (instrRow n true 0x12 (sampleEff n)) s)

/-- `POPS` (R191). The instruction pops the scalar queue into an s-register. -/
def execPops (n : Nat) (s : State) : Host.Outcome State Fault Refusal :=
  atUnit (decide (n < nSeqrs s.toBlock)) (work (instrRow n true 0x13 (popsEff n)) s)

/-- `STREAM_NOP` (R188). The sequencer NOP instruction does nothing. -/
def execStreamNop (n : Nat) (st : StreamSel) (s : State) : Host.Outcome State Fault Refusal :=
  atUnit (decide (n < nSeqrs s.toBlock)) (work (instrRow n (StreamSel.exe st) 0x3E (nopEff n (StreamSel.exe st))) s)

/-- `STREAM_END` (R181). The END instruction ends its stream. -/
def execStreamEnd (n : Nat) (st : StreamSel) (s : State) : Host.Outcome State Fault Refusal :=
  atUnit (decide (n < nSeqrs s.toBlock)) (work (instrRow n (StreamSel.exe st) 0x3F (endEff n (StreamSel.exe st))) s)

/-- `LANE_OP_TRANSFER` (R163). A core takes the tile operation at the head of a lane's issue buffer. -/
def execLaneOpTransfer (n l : Nat) (s : State) : Host.Outcome State Fault Refusal :=
  atUnit (decide (n < nSeqrs s.toBlock) && decide (l < 8)) (work (laneTransfer n l) s)

/-- `LANE_COMPLETION` (R164). A core returns an operation completion on a lane; a stray one is counted and reported. -/
def execLaneCompletion (n l : Nat) (id : BitVec 8) (status : BitVec 3) (s : State) : Host.Outcome State Fault Refusal :=
  atUnit (decide (n < nSeqrs s.toBlock) && decide (l < 8)) (work (laneCompletion n l id status) s)

/-- `LANE_ABORT_ACK` (R166). A core pulses cl_ab_ack, ending the lane's abort handshake. -/
def execLaneAbortAck (n l : Nat) (s : State) : Host.Outcome State Fault Refusal :=
  atUnit (decide (n < nSeqrs s.toBlock) && decide (l < 8)) (work (laneAck n l) s)

/-- `ABORT_BOUND_EXPIRY` (R167). An unacknowledged abort expires; the core is marked failed and a partition reset is
requested. -/
def execAbortBoundExpiry (n l : Nat) (s : State) : Host.Outcome State Fault Refusal :=
  atUnit (decide (n < nSeqrs s.toBlock) && decide (l < 8)) (work (abortBound n l) s)

/-- `LANE_TOKEN` (R168). A core returns a sampled token, which is forwarded to BAT. -/
def execLaneToken (n l : Nat) (seq : BitVec 14) (draft : BitVec 3) (token : Word) (s : State) : Host.Outcome State Fault Refusal :=
  atUnit (decide (n < nSeqrs s.toBlock) && decide (l < 8)) (work (laneToken n l seq.toNat draft.toNat token.toNat) s)

/-- `DD_COMPLETION` (R203). A DMA engine returns a descriptor completion with its status. -/
def execDdCompletion (n tag : Nat) (status : BitVec 3) (s : State) : Host.Outcome State Fault Refusal :=
  atUnit (decide (n < nSeqrs s.toBlock) && decide (tag < 256)) (work (ddCompletion n tag status) s)

/-- `DD_READ_BEAT` (R203). A DMA engine returns a read data beat. -/
def execDdReadBeat (n tag : Nat) (data : Beat) (s : State) : Host.Outcome State Fault Refusal :=
  atUnit (decide (n < nSeqrs s.toBlock) && decide (tag < 256)) (work (ddBeat n tag data) s)

/-- `DD_DRAIN_ACK` (R204). A DMA engine pulses dd_df_ack for a drain fence. -/
def execDdDrainAck (n : Nat) (s : State) : Host.Outcome State Fault Refusal :=
  atUnit (decide (n < nSeqrs s.toBlock)) (work (ddDrainAck n) s)

end Sys2Proof.Machine
end

