-- ==== Sys2Proof/Machine/ExecTurn.lean ====
section
/-! DEFINITION. Meanings of the commands: batching and scheduling. One definition a command. -/

namespace Sys2Proof.Machine

/-- `TURN_FORMATION` (R249). The leader forms the next turn, writes the index tables and sends TURN_COMMIT. -/
def execTurnFormation (slot : Nat) (s : State) : Host.Outcome State Fault Refusal :=
  atUnit (decide (slot < 64)) (work (turnFormation slot) s)

/-- `ARRIVE_SEND` (R246). A non-leader chip sends TURN_ARRIVE once its instantiation, token forwarding and children are
done. -/
def execArriveSend (slot : Nat) (s : State) : Host.Outcome State Fault Refusal :=
  atUnit (decide (slot < 64)) (work (arriveSend slot) s)

/-- `COMMIT` (R256). The leader commits the turn, applies rows, writes token records and advances N. -/
def execCommit (slot : Nat) (s : State) : Host.Outcome State Fault Refusal :=
  atUnit (decide (slot < 64)) (work (commitTurn slot) s)

/-- `TURN_BARRIER_TIMEOUT` (R248). The barrier timer expires and the chip aborts the turn. -/
def execTurnBarrierTimeout (slot : Nat) (s : State) : Host.Outcome State Fault Refusal :=
  atUnit (decide (slot < 64)) (work (barrierTimeout slot) s)

/-- `TOKEN_RECORD_RESPONSE` (R261). A token record write response arrives; UR or CA stops the context's records. -/
def execTokenRecordResponse (id : Nat) (status : BitVec 2) (s : State) : Host.Outcome State Fault Refusal :=
  work (tokenResponse id status) s

/-- `SQUARE_BOUNDARY` (R313). A square ends and the next begins, changing entitlement and repaying debt. -/
def execSquareBoundary (slot : Nat) (s : State) : Host.Outcome State Fault Refusal :=
  atUnit (decide (slot < 64)) (work (squareBoundary slot) s)

/-- `HEAD_ADVANCE` (R317). The head's deficit reaches 0 or its work runs out, and the next context becomes head. -/
def execHeadAdvance (slot : Nat) (s : State) : Host.Outcome State Fault Refusal :=
  atUnit (decide (slot < 64)) (work (headAdvance slot) s)

/-- `OVERRUN_LIMIT_EXPIRY` (R321). A span's overrun reaches its limit and its queue halts with OVERRUN_LIMIT. -/
def execOverrunLimitExpiry (q : Nat) (s : State) : Host.Outcome State Fault Refusal :=
  atUnit (decide (q < nQueues s.toBlock)) (work (overrunExpiry q) s)

/-- `BUCKET_REFILL` (R322). Every 1,024th CLK_SEQ edge the bandwidth bucket gains RATE units, up to BURST. -/
def execBucketRefill (slot : Nat) (s : State) : Host.Outcome State Fault Refusal :=
  atUnit (decide (slot < 64)) (work (bucketRefill slot) s)

/-- `UPDATE_POINT` (R324). At an update point the tenant CNT counters are copied and coarsened. -/
def execUpdatePoint (c : Nat) (s : State) : Host.Outcome State Fault Refusal :=
  atUnit (decide (c < nContexts s.toBlock)) (work (updatePoint c) s)

/-- `POWER_WINDOW` (R324). A 100 ms window ends and CNT_POWER is updated. -/
def execPowerWindow (s : State) : Host.Outcome State Fault Refusal :=
  work powerWindow s

end Sys2Proof.Machine
end

