-- ==== Sys2Proof/Machine/Dispatch.lean ====
section
/-! DEFINITION. Every command to its meaning. -/

namespace Sys2Proof.Machine

def exec (i : Instr) (s : State) : Host.Outcome State Fault Refusal :=
  match i with
  | .porNAssert => Sys2Proof.Machine.execPorNAssert s
  | .hrstNAssert edges => Sys2Proof.Machine.execHrstNAssert edges s
  | .resetRelease => Sys2Proof.Machine.execResetRelease s
  | .startupStep input => Sys2Proof.Machine.execStartupStep input s
  | .tailDoorbell a => Sys2Proof.Machine.execTailDoorbell a s
  | .cqHeadDoorbell a => Sys2Proof.Machine.execCqHeadDoorbell a s
  | .renew a => Sys2Proof.Machine.execRenew a s
  | .admCmdTail a => Sys2Proof.Machine.execAdmCmdTail a s
  | .admRplHead a => Sys2Proof.Machine.execAdmRplHead a s
  | .seqPcacheInv a => Sys2Proof.Machine.execSeqPcacheInv a s
  | .fltForce a => Sys2Proof.Machine.execFltForce a s
  | .dumpUnlock a => Sys2Proof.Machine.execDumpUnlock a s
  | .fltSummaryClear a => Sys2Proof.Machine.execFltSummaryClear a s
  | .rescan a => Sys2Proof.Machine.execRescan a s
  | .batCtxTrCfg a => Sys2Proof.Machine.execBatCtxTrCfg a s
  | .batCtxTrHead a => Sys2Proof.Machine.execBatCtxTrHead a s
  | .dspCoreFailed a => Sys2Proof.Machine.execDspCoreFailed a s
  | .schBwCfg a => Sys2Proof.Machine.execSchBwCfg a s
  | .registerWrite a => Sys2Proof.Machine.execRegisterWrite a s
  | .adminCommandTake => Sys2Proof.Machine.execAdminCommandTake s
  | .identify idx => Sys2Proof.Machine.execIdentify idx s
  | .ctxCreate idx => Sys2Proof.Machine.execCtxCreate idx s
  | .ctxDestroy idx => Sys2Proof.Machine.execCtxDestroy idx s
  | .queueConfig idx => Sys2Proof.Machine.execQueueConfig idx s
  | .queueReset idx => Sys2Proof.Machine.execQueueReset idx s
  | .mosaicCreate idx => Sys2Proof.Machine.execMosaicCreate idx s
  | .mosaicBind idx => Sys2Proof.Machine.execMosaicBind idx s
  | .mosaicRebind idx => Sys2Proof.Machine.execMosaicRebind idx s
  | .mosaicRelease idx => Sys2Proof.Machine.execMosaicRelease idx s
  | .sharesSet idx => Sys2Proof.Machine.execSharesSet idx s
  | .boardLoad idx => Sys2Proof.Machine.execBoardLoad idx s
  | .keyImport idx => Sys2Proof.Machine.execKeyImport idx s
  | .keyRevoke idx => Sys2Proof.Machine.execKeyRevoke idx s
  | .attest idx => Sys2Proof.Machine.execAttest idx s
  | .poolConfig idx => Sys2Proof.Machine.execPoolConfig idx s
  | .pdSet idx => Sys2Proof.Machine.execPdSet idx s
  | .dvfsSet idx => Sys2Proof.Machine.execDvfsSet idx s
  | .imageStage idx => Sys2Proof.Machine.execImageStage idx s
  | .imageActivate idx => Sys2Proof.Machine.execImageActivate idx s
  | .dumpRead idx => Sys2Proof.Machine.execDumpRead idx s
  | .partitionReset idx => Sys2Proof.Machine.execPartitionReset idx s
  | .leaseConfig idx => Sys2Proof.Machine.execLeaseConfig idx s
  | .deferredFinalReply idx => Sys2Proof.Machine.execDeferredFinalReply idx s
  | .queueWake q => Sys2Proof.Machine.execQueueWake q s
  | .fetcherArm q => Sys2Proof.Machine.execFetcherArm q s
  | .fetcherCapture q => Sys2Proof.Machine.execFetcherCapture q s
  | .fetchEntry q => Sys2Proof.Machine.execFetchEntry q s
  | .prefetchRead => Sys2Proof.Machine.execPrefetchRead s
  | .hostReadResponse id status data => Sys2Proof.Machine.execHostReadResponse id status data s
  | .submissionCheck q => Sys2Proof.Machine.execSubmissionCheck q s
  | .checkPass q => Sys2Proof.Machine.execCheckPass q s
  | .submissionStart q => Sys2Proof.Machine.execSubmissionStart q s
  | .nop p => Sys2Proof.Machine.execNop p s
  | .launch p => Sys2Proof.Machine.execLaunch p s
  | .launchTurn p => Sys2Proof.Machine.execLaunchTurn p s
  | .copyPkt p => Sys2Proof.Machine.execCopyPkt p s
  | .fillPkt p => Sys2Proof.Machine.execFillPkt p s
  | .collective p => Sys2Proof.Machine.execCollective p s
  | .waitFlag p => Sys2Proof.Machine.execWaitFlag p s
  | .signalFlag p => Sys2Proof.Machine.execSignalFlag p s
  | .fence p => Sys2Proof.Machine.execFence p s
  | .patchFromFlag p => Sys2Proof.Machine.execPatchFromFlag p s
  | .seqAdmit p => Sys2Proof.Machine.execSeqAdmit p s
  | .seqRetire p => Sys2Proof.Machine.execSeqRetire p s
  | .kvReserve p => Sys2Proof.Machine.execKvReserve p s
  | .keyBind p => Sys2Proof.Machine.execKeyBind p s
  | .transcriptMark p => Sys2Proof.Machine.execTranscriptMark p s
  | .atomicBegin p => Sys2Proof.Machine.execAtomicBegin p s
  | .atomicEnd p => Sys2Proof.Machine.execAtomicEnd p s
  | .rngSeed p => Sys2Proof.Machine.execRngSeed p s
  | .endPkt p => Sys2Proof.Machine.execEndPkt p s
  | .fold c => Sys2Proof.Machine.execFold c s
  | .waitComplete flag => Sys2Proof.Machine.execWaitComplete flag s
  | .mempollIntervalExpiry op => Sys2Proof.Machine.execMempollIntervalExpiry op s
  | .mempollResponse n tag status value => Sys2Proof.Machine.execMempollResponse n tag status value s
  | .wcdPass => Sys2Proof.Machine.execWcdPass s
  | .wcdSettleExpiry => Sys2Proof.Machine.execWcdSettleExpiry s
  | .completionRecordWrite q => Sys2Proof.Machine.execCompletionRecordWrite q s
  | .msixRefused vec => Sys2Proof.Machine.execMsixRefused vec s
  | .completionWriteResponse id status => Sys2Proof.Machine.execCompletionWriteResponse id status s
  | .descriptorIssue => Sys2Proof.Machine.execDescriptorIssue s
  | .passEndReport n => Sys2Proof.Machine.execPassEndReport n s
  | .bankTransferComplete n => Sys2Proof.Machine.execBankTransferComplete n s
  | .passStart n => Sys2Proof.Machine.execPassStart n s
  | .passEnd n => Sys2Proof.Machine.execPassEnd n s
  | .streamJamExpiry n => Sys2Proof.Machine.execStreamJamExpiry n s
  | .combinePass n => Sys2Proof.Machine.execCombinePass n s
  | .chunkPass n => Sys2Proof.Machine.execChunkPass n s
  | .programFetch n => Sys2Proof.Machine.execProgramFetch n s
  | .loopI n st => Sys2Proof.Machine.execLoopI n st s
  | .endl n st => Sys2Proof.Machine.execEndl n st s
  | .aInc n => Sys2Proof.Machine.execAInc n s
  | .sMov n st => Sys2Proof.Machine.execSMov n st s
  | .sAlu n st => Sys2Proof.Machine.execSAlu n st s
  | .rdp n st => Sys2Proof.Machine.execRdp n st s
  | .drop n st => Sys2Proof.Machine.execDrop n st s
  | .load n => Sys2Proof.Machine.execLoad n s
  | .store n => Sys2Proof.Machine.execStore n s
  | .shape n => Sys2Proof.Machine.execShape n s
  | .alloc n => Sys2Proof.Machine.execAlloc n s
  | .sld n => Sys2Proof.Machine.execSld n s
  | .sst n => Sys2Proof.Machine.execSst n s
  | .lds n => Sys2Proof.Machine.execLds n s
  | .pushs n => Sys2Proof.Machine.execPushs n s
  | .top n => Sys2Proof.Machine.execTop n s
  | .tshape n => Sys2Proof.Machine.execTshape n s
  | .sample n => Sys2Proof.Machine.execSample n s
  | .pops n => Sys2Proof.Machine.execPops n s
  | .streamNop n st => Sys2Proof.Machine.execStreamNop n st s
  | .streamEnd n st => Sys2Proof.Machine.execStreamEnd n st s
  | .laneOpTransfer n l => Sys2Proof.Machine.execLaneOpTransfer n l s
  | .laneCompletion n l id status => Sys2Proof.Machine.execLaneCompletion n l id status s
  | .laneAbortAck n l => Sys2Proof.Machine.execLaneAbortAck n l s
  | .abortBoundExpiry n l => Sys2Proof.Machine.execAbortBoundExpiry n l s
  | .laneToken n l seq draft token => Sys2Proof.Machine.execLaneToken n l seq draft token s
  | .ddCompletion n tag status => Sys2Proof.Machine.execDdCompletion n tag status s
  | .ddReadBeat n tag data => Sys2Proof.Machine.execDdReadBeat n tag data s
  | .ddDrainAck n => Sys2Proof.Machine.execDdDrainAck n s
  | .turnFormation slot => Sys2Proof.Machine.execTurnFormation slot s
  | .turnCommit port m => Sys2Proof.Machine.execTurnCommit port m s
  | .arriveSend slot => Sys2Proof.Machine.execArriveSend slot s
  | .turnArrive port m => Sys2Proof.Machine.execTurnArrive port m s
  | .turnTokens port m => Sys2Proof.Machine.execTurnTokens port m s
  | .turnAbort port m => Sys2Proof.Machine.execTurnAbort port m s
  | .commit slot => Sys2Proof.Machine.execCommit slot s
  | .turnBarrierTimeout slot => Sys2Proof.Machine.execTurnBarrierTimeout slot s
  | .tokenRecordResponse id status => Sys2Proof.Machine.execTokenRecordResponse id status s
  | .routeLookup port node chan tag mosaic => Sys2Proof.Machine.execRouteLookup port node chan tag mosaic s
  | .pgoodRise d => Sys2Proof.Machine.execPgoodRise d s
  | .domainIdleExpiry d => Sys2Proof.Machine.execDomainIdleExpiry d s
  | .epochApply => Sys2Proof.Machine.execEpochApply s
  | .epochDrainDetect busy => Sys2Proof.Machine.execEpochDrainDetect busy s
  | .portUpChange port up => Sys2Proof.Machine.execPortUpChange port up s
  | .serdoForward port m => Sys2Proof.Machine.execSerdoForward port m s
  | .hello port m => Sys2Proof.Machine.execHello port m s
  | .elect port m => Sys2Proof.Machine.execElect port m s
  | .echo port m => Sys2Proof.Machine.execEcho port m s
  | .assign port m => Sys2Proof.Machine.execAssign port m s
  | .mapRec port m => Sys2Proof.Machine.execMapRec port m s
  | .routesReady port m => Sys2Proof.Machine.execRoutesReady port m s
  | .ready port m => Sys2Proof.Machine.execReady port m s
  | .linkEvent port m => Sys2Proof.Machine.execLinkEvent port m s
  | .nodeDown port m => Sys2Proof.Machine.execNodeDown port m s
  | .joinRequest port m => Sys2Proof.Machine.execJoinRequest port m s
  | .mosaicJoin port m => Sys2Proof.Machine.execMosaicJoin port m s
  | .mosaicLeave port m => Sys2Proof.Machine.execMosaicLeave port m s
  | .keyAgree port m => Sys2Proof.Machine.execKeyAgree port m s
  | .keyConfirm port m => Sys2Proof.Machine.execKeyConfirm port m s
  | .mosaicReady port m => Sys2Proof.Machine.execMosaicReady port m s
  | .epochPrepare port m => Sys2Proof.Machine.execEpochPrepare port m s
  | .epochAck port m => Sys2Proof.Machine.execEpochAck port m s
  | .epochSwitch port m => Sys2Proof.Machine.execEpochSwitch port m s
  | .epochDrained port m => Sys2Proof.Machine.execEpochDrained port m s
  | .epochFree port m => Sys2Proof.Machine.execEpochFree port m s
  | .migQuiesce port m => Sys2Proof.Machine.execMigQuiesce port m s
  | .migHeld port m => Sys2Proof.Machine.execMigHeld port m s
  | .migResume port m => Sys2Proof.Machine.execMigResume port m s
  | .writeTrackReport chan granule => Sys2Proof.Machine.execWriteTrackReport chan granule s
  | .flagSet port m => Sys2Proof.Machine.execFlagSet port m s
  | .flagReply port m => Sys2Proof.Machine.execFlagReply port m s
  | .collStep port m => Sys2Proof.Machine.execCollStep port m s
  | .discoveryTrainingExpiry => Sys2Proof.Machine.execDiscoveryTrainingExpiry s
  | .helloPhaseExpiry => Sys2Proof.Machine.execHelloPhaseExpiry s
  | .discoveryWaveExpiry => Sys2Proof.Machine.execDiscoveryWaveExpiry s
  | .fruRead data => Sys2Proof.Machine.execFruRead data s
  | .cmisRead port data => Sys2Proof.Machine.execCmisRead port data s
  | .squareBoundary slot => Sys2Proof.Machine.execSquareBoundary slot s
  | .headAdvance slot => Sys2Proof.Machine.execHeadAdvance slot s
  | .overrunLimitExpiry q => Sys2Proof.Machine.execOverrunLimitExpiry q s
  | .bucketRefill slot => Sys2Proof.Machine.execBucketRefill slot s
  | .updatePoint c => Sys2Proof.Machine.execUpdatePoint c s
  | .powerWindow => Sys2Proof.Machine.execPowerWindow s
  | .keySidebandAck inst => Sys2Proof.Machine.execKeySidebandAck inst s
  | .keySidebandAckExpiry inst => Sys2Proof.Machine.execKeySidebandAckExpiry inst s
  | .ksDrop inst => Sys2Proof.Machine.execKsDrop inst s
  | .ksDrainAck port => Sys2Proof.Machine.execKsDrainAck port s
  | .teardownStep => Sys2Proof.Machine.execTeardownStep s
  | .teardownDrainExpiry => Sys2Proof.Machine.execTeardownDrainExpiry s
  | .trAck => Sys2Proof.Machine.execTrAck s
  | .trAckExpiry => Sys2Proof.Machine.execTrAckExpiry s
  | .entropyHealthFail => Sys2Proof.Machine.execEntropyHealthFail s
  | .quietPeriodExpiry src => Sys2Proof.Machine.execQuietPeriodExpiry src s
  | .hangWatchdogExpiry q => Sys2Proof.Machine.execHangWatchdogExpiry q s
  | .partResetStep slot => Sys2Proof.Machine.execPartResetStep slot s
  | .collectorSelfFault => Sys2Proof.Machine.execCollectorSelfFault s
  | .clockLoss => Sys2Proof.Machine.execClockLoss s
  | .clockReturn => Sys2Proof.Machine.execClockReturn s
  | .hostLeaseExpiry => Sys2Proof.Machine.execHostLeaseExpiry s
  | .bypass => Sys2Proof.Machine.execBypass s
  | .idcode => Sys2Proof.Machine.execIdcode s
  | .scan => Sys2Proof.Machine.execScan s
  | .mbist => Sys2Proof.Machine.execMbist s
  | .unlock => Sys2Proof.Machine.execUnlock s
  | .avsReadvout mv => Sys2Proof.Machine.execAvsReadvout mv s
  | .divAck => Sys2Proof.Machine.execDivAck s
  | .dvfsSettleExpiry => Sys2Proof.Machine.execDvfsSettleExpiry s
  | .divAckExpiry => Sys2Proof.Machine.execDivAckExpiry s
  | .powerSample rails => Sys2Proof.Machine.execPowerSample rails s
  | .emergencyEntry pin => Sys2Proof.Machine.execEmergencyEntry pin s
  | .emergencyClearExpiry => Sys2Proof.Machine.execEmergencyClearExpiry s
  | .activationSwitch => Sys2Proof.Machine.execActivationSwitch s
  | .registerRead bar2 addr fn id => Sys2Proof.Machine.execRegisterRead bar2 addr fn id s
  | .adminWindowWrite a => Sys2Proof.Machine.execAdminWindowWrite a s
  | .hostWriteResponse id status => Sys2Proof.Machine.execHostWriteResponse id status s
  | .avsTargetWriteDone => Sys2Proof.Machine.execAvsTargetWriteDone s
  | .flashOperationDone res => Sys2Proof.Machine.execFlashOperationDone res s
  | .emergencyInputRise pin => Sys2Proof.Machine.execEmergencyInputRise pin s
  | .serdoUnlistedType port m => Sys2Proof.Machine.execSerdoUnlistedType port m s

end Sys2Proof.Machine
end

