-- ==== Sys2Proof/Machine/Step.lean ====
section
/-! DEFINITION. One step: the command at the front of the queue, or a CLK_HUB cycle while none waits. -/

namespace Sys2Proof.Machine

/-- One step of the block. DESIGN CHOICE, log entry 1: with no command waiting, one CLK_HUB cycle passes. -/
def step (s : State) : Host.Outcome State Fault Refusal :=
  match s.pending with
  | [] => .next { s with toBlock := tick s.toBlock }
  | c :: cs => exec c { s with pending := cs }

/-- The command that a word spells goes to the front of the queue; `s` where it spells none. -/
def State.withFetchWord (s : State) (nbits w : Nat) : State :=
  match decodeTableWord nbits w with
  | some c => { s with pending := c :: s.pending }
  | none => s

end Sys2Proof.Machine
end

