-- ==== Sys2Proof/WellFormed.lean ====
section
/-! DEFINITION. Well-formed commands of a configuration: the unit that a command names exists, and a Serdo message's fields
fit the header's (R1, R26, R292). -/

namespace Sys2Proof

/-- An instance of the key sideband: a memory path, or 64 and a link port (R343). -/
def ChipConfig.ksInst (c : ChipConfig) (i : Nat) : Bool :=
  decide (i < c.channels) || (decide (64 ≤ i) && decide (i - 64 < c.ports))

/-- The fields of a message fit its header (R292). -/
def serdoOk (m : SerdoMsg) : Bool :=
  decide (m.ver < 16) && decide (m.typ < 256) && decide (m.src < 2 ^ 14) && decide (m.dst < 2 ^ 14)
  && decide (m.mosaic < 2 ^ 16) && decide (m.hops < 256) && decide (m.epoch < 8) && decide (m.seq < 2 ^ 64)
  && decide (m.body.length ≤ if m.ver = 1 then 240 else 464)

/-- The unit that command `i` names exists in configuration `cfg`. -/
def unitExists (cfg : ChipConfig) (i : Instr) : Bool :=
  match i with
  | .porNAssert => true
  | .hrstNAssert _ => true
  | .resetRelease => true
  | .startupStep _ => true
  | .tailDoorbell _ => true
  | .cqHeadDoorbell _ => true
  | .renew _ => true
  | .admCmdTail _ => true
  | .admRplHead _ => true
  | .seqPcacheInv _ => true
  | .fltForce _ => true
  | .dumpUnlock _ => true
  | .fltSummaryClear _ => true
  | .rescan _ => true
  | .batCtxTrCfg _ => true
  | .batCtxTrHead _ => true
  | .dspCoreFailed _ => true
  | .schBwCfg _ => true
  | .registerWrite _ => true
  | .adminCommandTake => true
  | .identify idx => decide (idx < 1024)
  | .ctxCreate idx => decide (idx < 1024)
  | .ctxDestroy idx => decide (idx < 1024)
  | .queueConfig idx => decide (idx < 1024)
  | .queueReset idx => decide (idx < 1024)
  | .mosaicCreate idx => decide (idx < 1024)
  | .mosaicBind idx => decide (idx < 1024)
  | .mosaicRebind idx => decide (idx < 1024)
  | .mosaicRelease idx => decide (idx < 1024)
  | .sharesSet idx => decide (idx < 1024)
  | .boardLoad idx => decide (idx < 1024)
  | .keyImport idx => decide (idx < 1024)
  | .keyRevoke idx => decide (idx < 1024)
  | .attest idx => decide (idx < 1024)
  | .poolConfig idx => decide (idx < 1024)
  | .pdSet idx => decide (idx < 1024)
  | .dvfsSet idx => decide (idx < 1024)
  | .imageStage idx => decide (idx < 1024)
  | .imageActivate idx => decide (idx < 1024)
  | .dumpRead idx => decide (idx < 1024)
  | .partitionReset idx => decide (idx < 1024)
  | .leaseConfig idx => decide (idx < 1024)
  | .deferredFinalReply idx => decide (idx < 1024)
  | .queueWake q => decide (q < cfg.queues)
  | .fetcherArm q => decide (q < cfg.queues)
  | .fetcherCapture q => decide (q < cfg.queues)
  | .fetchEntry q => decide (q < cfg.queues)
  | .prefetchRead => true
  | .hostReadResponse _ _ _ => true
  | .submissionCheck q => decide (q < cfg.queues)
  | .checkPass q => decide (q < cfg.queues)
  | .submissionStart q => decide (q < cfg.queues)
  | .nop p => decide (p.q < cfg.queues)
  | .launch p => decide (p.q < cfg.queues)
  | .launchTurn p => decide (p.q < cfg.queues)
  | .copyPkt p => decide (p.q < cfg.queues)
  | .fillPkt p => decide (p.q < cfg.queues)
  | .collective p => decide (p.q < cfg.queues)
  | .waitFlag p => decide (p.q < cfg.queues)
  | .signalFlag p => decide (p.q < cfg.queues)
  | .fence p => decide (p.q < cfg.queues)
  | .patchFromFlag p => decide (p.q < cfg.queues)
  | .seqAdmit p => decide (p.q < cfg.queues)
  | .seqRetire p => decide (p.q < cfg.queues)
  | .kvReserve p => decide (p.q < cfg.queues)
  | .keyBind p => decide (p.q < cfg.queues)
  | .transcriptMark p => decide (p.q < cfg.queues)
  | .atomicBegin p => decide (p.q < cfg.queues)
  | .atomicEnd p => decide (p.q < cfg.queues)
  | .rngSeed p => decide (p.q < cfg.queues)
  | .endPkt p => decide (p.q < cfg.queues)
  | .fold c => decide (c < cfg.contexts)
  | .waitComplete flag => decide (flag < 65536)
  | .mempollIntervalExpiry _ => true
  | .mempollResponse n tag _ _ => decide (n < cfg.sequencers) && decide (tag < 256)
  | .wcdPass => true
  | .wcdSettleExpiry => true
  | .completionRecordWrite q => decide (q < cfg.queues)
  | .msixRefused _ => true
  | .completionWriteResponse _ _ => true
  | .descriptorIssue => true
  | .passEndReport n => decide (n < cfg.sequencers)
  | .bankTransferComplete n => decide (n < cfg.sequencers)
  | .passStart n => decide (n < cfg.sequencers)
  | .passEnd n => decide (n < cfg.sequencers)
  | .streamJamExpiry n => decide (n < cfg.sequencers)
  | .combinePass n => decide (n < cfg.sequencers)
  | .chunkPass n => decide (n < cfg.sequencers)
  | .programFetch n => decide (n < cfg.sequencers)
  | .loopI n _ => decide (n < cfg.sequencers)
  | .endl n _ => decide (n < cfg.sequencers)
  | .aInc n => decide (n < cfg.sequencers)
  | .sMov n _ => decide (n < cfg.sequencers)
  | .sAlu n _ => decide (n < cfg.sequencers)
  | .rdp n _ => decide (n < cfg.sequencers)
  | .drop n _ => decide (n < cfg.sequencers)
  | .load n => decide (n < cfg.sequencers)
  | .store n => decide (n < cfg.sequencers)
  | .shape n => decide (n < cfg.sequencers)
  | .alloc n => decide (n < cfg.sequencers)
  | .sld n => decide (n < cfg.sequencers)
  | .sst n => decide (n < cfg.sequencers)
  | .lds n => decide (n < cfg.sequencers)
  | .pushs n => decide (n < cfg.sequencers)
  | .top n => decide (n < cfg.sequencers)
  | .tshape n => decide (n < cfg.sequencers)
  | .sample n => decide (n < cfg.sequencers)
  | .pops n => decide (n < cfg.sequencers)
  | .streamNop n _ => decide (n < cfg.sequencers)
  | .streamEnd n _ => decide (n < cfg.sequencers)
  | .laneOpTransfer n l => decide (n < cfg.sequencers) && decide (l < 8)
  | .laneCompletion n l _ _ => decide (n < cfg.sequencers) && decide (l < 8)
  | .laneAbortAck n l => decide (n < cfg.sequencers) && decide (l < 8)
  | .abortBoundExpiry n l => decide (n < cfg.sequencers) && decide (l < 8)
  | .laneToken n l _ _ _ => decide (n < cfg.sequencers) && decide (l < 8)
  | .ddCompletion n tag _ => decide (n < cfg.sequencers) && decide (tag < 256)
  | .ddReadBeat n tag _ => decide (n < cfg.sequencers) && decide (tag < 256)
  | .ddDrainAck n => decide (n < cfg.sequencers)
  | .turnFormation slot => decide (slot < 64)
  | .turnCommit port _ => decide (port < cfg.ports)
  | .arriveSend slot => decide (slot < 64)
  | .turnArrive port _ => decide (port < cfg.ports)
  | .turnTokens port _ => decide (port < cfg.ports)
  | .turnAbort port _ => decide (port < cfg.ports)
  | .commit slot => decide (slot < 64)
  | .turnBarrierTimeout slot => decide (slot < 64)
  | .tokenRecordResponse _ _ => true
  | .routeLookup port _ _ _ _ => decide (port < cfg.ports)
  | .pgoodRise d => decide (1 ≤ d) && decide (d < 5 + cfg.sequencers / 8)
  | .domainIdleExpiry d => decide (1 ≤ d) && decide (d < 5 + cfg.sequencers / 8)
  | .epochApply => true
  | .epochDrainDetect _ => true
  | .portUpChange port _ => decide (port < cfg.ports)
  | .serdoForward port _ => decide (port < cfg.ports)
  | .hello port _ => decide (port < cfg.ports)
  | .elect port _ => decide (port < cfg.ports)
  | .echo port _ => decide (port < cfg.ports)
  | .assign port _ => decide (port < cfg.ports)
  | .mapRec port _ => decide (port < cfg.ports)
  | .routesReady port _ => decide (port < cfg.ports)
  | .ready port _ => decide (port < cfg.ports)
  | .linkEvent port _ => decide (port < cfg.ports)
  | .nodeDown port _ => decide (port < cfg.ports)
  | .joinRequest port _ => decide (port < cfg.ports)
  | .mosaicJoin port _ => decide (port < cfg.ports)
  | .mosaicLeave port _ => decide (port < cfg.ports)
  | .keyAgree port _ => decide (port < cfg.ports)
  | .keyConfirm port _ => decide (port < cfg.ports)
  | .mosaicReady port _ => decide (port < cfg.ports)
  | .epochPrepare port _ => decide (port < cfg.ports)
  | .epochAck port _ => decide (port < cfg.ports)
  | .epochSwitch port _ => decide (port < cfg.ports)
  | .epochDrained port _ => decide (port < cfg.ports)
  | .epochFree port _ => decide (port < cfg.ports)
  | .migQuiesce port _ => decide (port < cfg.ports)
  | .migHeld port _ => decide (port < cfg.ports)
  | .migResume port _ => decide (port < cfg.ports)
  | .writeTrackReport chan _ => decide (chan < cfg.channels)
  | .flagSet port _ => decide (port < cfg.ports)
  | .flagReply port _ => decide (port < cfg.ports)
  | .collStep port _ => decide (port < cfg.ports)
  | .discoveryTrainingExpiry => true
  | .helloPhaseExpiry => true
  | .discoveryWaveExpiry => true
  | .fruRead _ => true
  | .cmisRead port _ => decide (port < cfg.ports)
  | .squareBoundary slot => decide (slot < 64)
  | .headAdvance slot => decide (slot < 64)
  | .overrunLimitExpiry q => decide (q < cfg.queues)
  | .bucketRefill slot => decide (slot < 64)
  | .updatePoint c => decide (c < cfg.contexts)
  | .powerWindow => true
  | .keySidebandAck inst => cfg.ksInst inst
  | .keySidebandAckExpiry inst => cfg.ksInst inst
  | .ksDrop inst => cfg.ksInst inst
  | .ksDrainAck port => decide (port < cfg.ports)
  | .teardownStep => true
  | .teardownDrainExpiry => true
  | .trAck => true
  | .trAckExpiry => true
  | .entropyHealthFail => true
  | .quietPeriodExpiry src => decide (src < 64)
  | .hangWatchdogExpiry q => decide (q < cfg.queues)
  | .partResetStep slot => decide (slot < 64)
  | .collectorSelfFault => true
  | .clockLoss => true
  | .clockReturn => true
  | .hostLeaseExpiry => true
  | .bypass => true
  | .idcode => true
  | .scan => true
  | .mbist => true
  | .unlock => true
  | .avsReadvout _ => true
  | .divAck => true
  | .dvfsSettleExpiry => true
  | .divAckExpiry => true
  | .powerSample _ => true
  | .emergencyEntry _ => true
  | .emergencyClearExpiry => true
  | .activationSwitch => true
  | .registerRead _ _ _ _ => true
  | .adminWindowWrite _ => true
  | .hostWriteResponse _ _ => true
  | .avsTargetWriteDone => true
  | .flashOperationDone _ => true
  | .emergencyInputRise _ => true
  | .serdoUnlistedType port _ => decide (port < cfg.ports)

/-- What a command carries fits the fields that carry it. -/
def payloadOk (i : Instr) : Bool :=
  match i with
  | .porNAssert => true
  | .hrstNAssert _ => true
  | .resetRelease => true
  | .startupStep _ => true
  | .tailDoorbell _ => true
  | .cqHeadDoorbell _ => true
  | .renew _ => true
  | .admCmdTail _ => true
  | .admRplHead _ => true
  | .seqPcacheInv _ => true
  | .fltForce _ => true
  | .dumpUnlock _ => true
  | .fltSummaryClear _ => true
  | .rescan _ => true
  | .batCtxTrCfg _ => true
  | .batCtxTrHead _ => true
  | .dspCoreFailed _ => true
  | .schBwCfg _ => true
  | .registerWrite _ => true
  | .adminCommandTake => true
  | .identify _ => true
  | .ctxCreate _ => true
  | .ctxDestroy _ => true
  | .queueConfig _ => true
  | .queueReset _ => true
  | .mosaicCreate _ => true
  | .mosaicBind _ => true
  | .mosaicRebind _ => true
  | .mosaicRelease _ => true
  | .sharesSet _ => true
  | .boardLoad _ => true
  | .keyImport _ => true
  | .keyRevoke _ => true
  | .attest _ => true
  | .poolConfig _ => true
  | .pdSet _ => true
  | .dvfsSet _ => true
  | .imageStage _ => true
  | .imageActivate _ => true
  | .dumpRead _ => true
  | .partitionReset _ => true
  | .leaseConfig _ => true
  | .deferredFinalReply _ => true
  | .queueWake _ => true
  | .fetcherArm _ => true
  | .fetcherCapture _ => true
  | .fetchEntry _ => true
  | .prefetchRead => true
  | .hostReadResponse _ _ _ => true
  | .submissionCheck _ => true
  | .checkPass _ => true
  | .submissionStart _ => true
  | .nop _ => true
  | .launch _ => true
  | .launchTurn _ => true
  | .copyPkt _ => true
  | .fillPkt _ => true
  | .collective _ => true
  | .waitFlag _ => true
  | .signalFlag _ => true
  | .fence _ => true
  | .patchFromFlag _ => true
  | .seqAdmit _ => true
  | .seqRetire _ => true
  | .kvReserve _ => true
  | .keyBind _ => true
  | .transcriptMark _ => true
  | .atomicBegin _ => true
  | .atomicEnd _ => true
  | .rngSeed _ => true
  | .endPkt _ => true
  | .fold _ => true
  | .waitComplete _ => true
  | .mempollIntervalExpiry _ => true
  | .mempollResponse _ _ _ _ => true
  | .wcdPass => true
  | .wcdSettleExpiry => true
  | .completionRecordWrite _ => true
  | .msixRefused _ => true
  | .completionWriteResponse _ _ => true
  | .descriptorIssue => true
  | .passEndReport _ => true
  | .bankTransferComplete _ => true
  | .passStart _ => true
  | .passEnd _ => true
  | .streamJamExpiry _ => true
  | .combinePass _ => true
  | .chunkPass _ => true
  | .programFetch _ => true
  | .loopI _ _ => true
  | .endl _ _ => true
  | .aInc _ => true
  | .sMov _ _ => true
  | .sAlu _ _ => true
  | .rdp _ _ => true
  | .drop _ _ => true
  | .load _ => true
  | .store _ => true
  | .shape _ => true
  | .alloc _ => true
  | .sld _ => true
  | .sst _ => true
  | .lds _ => true
  | .pushs _ => true
  | .top _ => true
  | .tshape _ => true
  | .sample _ => true
  | .pops _ => true
  | .streamNop _ _ => true
  | .streamEnd _ _ => true
  | .laneOpTransfer _ _ => true
  | .laneCompletion _ _ _ _ => true
  | .laneAbortAck _ _ => true
  | .abortBoundExpiry _ _ => true
  | .laneToken _ _ _ _ _ => true
  | .ddCompletion _ _ _ => true
  | .ddReadBeat _ _ _ => true
  | .ddDrainAck _ => true
  | .turnFormation _ => true
  | .turnCommit _ m => serdoOk m
  | .arriveSend _ => true
  | .turnArrive _ m => serdoOk m
  | .turnTokens _ m => serdoOk m
  | .turnAbort _ m => serdoOk m
  | .commit _ => true
  | .turnBarrierTimeout _ => true
  | .tokenRecordResponse _ _ => true
  | .routeLookup _ _ _ _ _ => true
  | .pgoodRise _ => true
  | .domainIdleExpiry _ => true
  | .epochApply => true
  | .epochDrainDetect _ => true
  | .portUpChange _ _ => true
  | .serdoForward _ m => serdoOk m
  | .hello _ m => serdoOk m
  | .elect _ m => serdoOk m
  | .echo _ m => serdoOk m
  | .assign _ m => serdoOk m
  | .mapRec _ m => serdoOk m
  | .routesReady _ m => serdoOk m
  | .ready _ m => serdoOk m
  | .linkEvent _ m => serdoOk m
  | .nodeDown _ m => serdoOk m
  | .joinRequest _ m => serdoOk m
  | .mosaicJoin _ m => serdoOk m
  | .mosaicLeave _ m => serdoOk m
  | .keyAgree _ m => serdoOk m
  | .keyConfirm _ m => serdoOk m
  | .mosaicReady _ m => serdoOk m
  | .epochPrepare _ m => serdoOk m
  | .epochAck _ m => serdoOk m
  | .epochSwitch _ m => serdoOk m
  | .epochDrained _ m => serdoOk m
  | .epochFree _ m => serdoOk m
  | .migQuiesce _ m => serdoOk m
  | .migHeld _ m => serdoOk m
  | .migResume _ m => serdoOk m
  | .writeTrackReport _ _ => true
  | .flagSet _ m => serdoOk m
  | .flagReply _ m => serdoOk m
  | .collStep _ m => serdoOk m
  | .discoveryTrainingExpiry => true
  | .helloPhaseExpiry => true
  | .discoveryWaveExpiry => true
  | .fruRead _ => true
  | .cmisRead _ _ => true
  | .squareBoundary _ => true
  | .headAdvance _ => true
  | .overrunLimitExpiry _ => true
  | .bucketRefill _ => true
  | .updatePoint _ => true
  | .powerWindow => true
  | .keySidebandAck _ => true
  | .keySidebandAckExpiry _ => true
  | .ksDrop _ => true
  | .ksDrainAck _ => true
  | .teardownStep => true
  | .teardownDrainExpiry => true
  | .trAck => true
  | .trAckExpiry => true
  | .entropyHealthFail => true
  | .quietPeriodExpiry _ => true
  | .hangWatchdogExpiry _ => true
  | .partResetStep _ => true
  | .collectorSelfFault => true
  | .clockLoss => true
  | .clockReturn => true
  | .hostLeaseExpiry => true
  | .bypass => true
  | .idcode => true
  | .scan => true
  | .mbist => true
  | .unlock => true
  | .avsReadvout _ => true
  | .divAck => true
  | .dvfsSettleExpiry => true
  | .divAckExpiry => true
  | .powerSample _ => true
  | .emergencyEntry _ => true
  | .emergencyClearExpiry => true
  | .activationSwitch => true
  | .registerRead _ _ _ _ => true
  | .adminWindowWrite _ => true
  | .hostWriteResponse _ _ => true
  | .avsTargetWriteDone => true
  | .flashOperationDone _ => true
  | .emergencyInputRise _ => true
  | .serdoUnlistedType _ m => serdoOk m

/-- A command that the surroundings can send to a block of configuration `cfg`. -/
def wellFormed (cfg : ChipConfig) (i : Instr) : Bool := unitExists cfg i && payloadOk i

end Sys2Proof
end

