-- ==== Sys2Proof/Safety.lean ====
section
/-! DEFINITION. What a safe run of the block is, in the terms that statements use. -/

namespace Sys2Proof.Machine

/-- Every waiting command is one that the surroundings can send: the next step then does not stop. -/
def State.safe (s : State) : Bool := s.pending.all (wellFormed s.fuses.config)

/-- No work of the block waits that the end of a command would carry on: no turn loop, pool, collective, mosaic, migration,
board, span, revocation, sideband job, partition reset, taken admin command or reply to write, no idle timer, no governor step and no
activation; and no capture or FRESH HELLO is due. What ends a command then leaves the block as the command's own effect made
it. -/
def quiet (b : Block) : Bool :=
  b.bat.loops.isEmpty && b.bat.pools.isEmpty && b.fab.colls.isEmpty && b.fab.slots.isEmpty && b.fab.mig.isNone
  && b.sch.slots.isEmpty && b.sch.spans.isEmpty && b.sec.revokes.isEmpty && b.sec.jobs.isEmpty && b.flt.parts.isEmpty
  && b.adm.cmds.isEmpty && b.adm.due.isEmpty && b.pwr.dvfs.gov == 0 && b.pwr.doms.all (fun e => !e.2.idleEn && e.2.idleAt.isNone)
  && b.pwr.img.pendingAct.isNone && b.pwr.img.actPhase != 5 && b.pwr.img.actPhase != 4 && b.flt.capDue.isNone && !b.flt.freshDue

/-- The state after a command whose own effect makes the block `b`: what ends every command has followed, and the commands
still waiting are `cs`. -/
def nextAfter (b : Block) (cs : List Instr) : Host.Outcome State Fault Refusal :=
  .next { toBlock := ending b, pending := cs }

/-- The state after a command that came by an access to BAR0 or BAR2, which is an event of PD_HUB: the idle count of the domain
restarts (R385, R386). -/
def afterAccess (b : Block) (cs : List Instr) : Host.Outcome State Fault Refusal := nextAfter (wake 1 2 b) cs

/-- The state after a Serdo message or a change of `fm_port_up`, which is an event of PD_FAB (R385, R386). -/
def afterBeat (b : Block) (cs : List Instr) : Host.Outcome State Fault Refusal := nextAfter (wake 3 4 b) cs

/-- HUB takes an MMIO access at once: `hp_blk_up` is high, PD_HUB is ON, nothing waits before it, and the block is not in
stalemate. -/
def hubOpen (b : Block) : Bool := b.hub.blkUp && domOn b 1 && b.hub.held.isEmpty && !b.flt.stale

/-- A write of the owning function reaches register `r`: HUB takes it, its offset names `r`, and the domain that holds `r`
is ON. -/
def reaches (b : Block) (a : MmioWrite) (r : Reg) : Bool :=
  hubOpen b && !a.fn && domOn b (regDomain a.addr.toNat) && regAt b a.addr.toNat == some r

/-- A register that R438 gives the access code RC for a field of it: a read clears that field. -/
def rcReg (r : Reg) : Bool :=
  match r with
  | .hubCtxDbDrop _ | .dspLaneStray | .dspRedispatch | .seqTimingSlip _ | .seqDdStray _ | .seqPasses _ | .batMosStatus
  | .batTokenStray | .batCtxTrStatus _ | .fabDiscStatus | .fabEpochStray | .fabSerdoDrop | .schSqOverrun | .schBwStatus
  | .secTdLate | .secAuthFail | .fltTest | .pwrDvfsStatus | .pwrEmerg | .pwrPdRec _ | .admDrop | .hubDbStray
  | .depRemoteDrop | .depWcdCount => true
  | _ => false

/-- The command of number `i` is the one that its row of opcode `opc` starts: taken with entry `e`, not started, free to
start; and it passes the common checks of R415. -/
def admReady (b : Block) (i opc : Nat) (e : List Byte) : Bool :=
  serving b && (match admAt b opc (i % 1024) with
    | some c => c.idx == i && c.entry == e && (commonCheck c).isNone
    | none => false)

/-- The block with the command of number `i` started. -/
def admStarted (i : Nat) (b : Block) : Block := modAdm i (fun c => { c with started := true }) b

/-- DEP releases operation `o` of a packet row of opcode `k` at `p`: it meets R120, a wait has its entry (R131, R134), and it
passes the release-time tests of R91. -/
def relReady (b : Block) (k : Opc) (p : PktRef) (o : Op) : Bool :=
  serving b && decide (p.q < nQueues b) && releaseOf b k p == some o && !waitFull b o && (releaseTest b o).isNone

/-- The launch pass of queue `p.q` stands, in submission `s`, at packet `k` of bytes `bs`, which its checks pass; no
operation of its row may be released in its place. -/
def launchReady (b : Block) (p : PktRef) (s : Sub) (k : Packet) (bs : List Byte) : Bool :=
  serving b && decide (p.q < nQueues b) && !p.tpl && (releaseOf b k.opc p).isNone
  && launching (queueOf b p.q) p.off == some s && mayDecode b (p.q / 6) s.sid 0
  && launchChecked b (p.q / 6) (queueOf b p.q) s == .pass k bs

/-- Sequencer `n` runs a program pass, and instruction `w` is the next of its access or execute (`exe`) stream with nothing
to wait for. -/
def instrReady (b : Block) (n : Nat) (exe : Bool) (v : View) (w : Nat) : Bool :=
  serving b && decide (n < nSeqrs b) && viewOf b n == some v && nextInstr v exe == some w && gateOf b v exe w == .go

/-- A Serdo message of type `t` for this block arrives without error and with HOPS left on a port it has, after start-up step 7 and
with PD_FAB ON, in a version that its type and its mosaic allow. -/
def serdoReady (b : Block) (port t : Nat) (m : SerdoMsg) : Bool :=
  running b && decide (7 ≤ b.pwr.step) && decide (port < nPorts b) && domOn b 3 && !m.err && m.hops != 0 && forMe b m
  && m.typ == t && listedType t && !(m.ver == 1 && (m.mosaic != 0 || mosaicType t))

/-- A mosaic message of type `t` for this block passes R293 for slot `k`, which leaves the block `b'`. -/
def mosaicReady (b : Block) (port t : Nat) (m : SerdoMsg) (k : Nat) (b' : Block) : Bool :=
  serdoReady b port t m && mosaicAccept m b == (some k, b')

/-- An output that stalemate forbids: DMA requests and vectors on the host port, tile operations, descriptors, sideband
operations, translation requests and flash operations (R370, R371). -/
def Output.isWork : Output → Bool
  | .hostRead .. | .hostWrite .. | .msix .. | .dd .. | .laneOp .. | .ks .. | .tr .. | .flash .. => true
  | _ => false

/-- The keys are gone and no operation on them stands: what SEC holds in stalemate (R351, R371). -/
def keysGone (b : Block) : Bool :=
  b.sec.kinv && b.sec.slots.isEmpty && b.sec.bindings.isEmpty && b.sec.sessions.isEmpty && b.sec.chains.isEmpty
  && b.sec.skey.isEmpty && b.sec.jobs.isEmpty && b.sec.revokes.isEmpty && b.sec.tr.isNone

/-- What the entry into stalemate answers an MMIO access that waits: a read fails, a write gets no answer (R73, R371). -/
def heldAnswer (m : Mmio) : Option Output :=
  match m with
  | .read _ _ _ id => some (.mmioResp id.toNat 0 true)
  | .write _ _ => none

/-- The command at the front of the queue leaves stalemate: a reset (R373). -/
def leavesStalemate (s : State) : Bool :=
  match s.pending with
  | .porNAssert :: _ => true
  | .hrstNAssert edges :: _ => decide (2 ≤ edges)
  | _ => false

end Sys2Proof.Machine
end

