-- ==== Sys2Proof/Certificates/Slice0/Obligations.lean ====
section
/-! DEFINITION. The statements about the block, for the provers. `nextAfter b cs` is the next state of a command whose own
effect makes the block `b`; what ends every command follows it, and `EndingQuiet` says when that is nothing. -/

open Sys2Proof Sys2Proof.Machine

/-! ### Reset and start-up (R394, R395) -/

/-- R377, R394: `por_n` puts everything in its reset value, drives the idle levels and raises every domain's `pm_iso`.
`hrst_n` low at two edges or more does the same but for the fault state that R377 keeps, the mark of a warm reset and the
edges that the free-running counters go on from; at fewer edges it is ignored. The model's choice is that what was driven before stays in
the trace (log entry 4), that the place of the fresh values is kept (log entry 2), and every reset value in `blockReset` that
no rule gives (log entry 3). -/
def Obligations.Resets : Prop :=
  (∀ (b : Block) (cs : List Instr),
    exec .porNAssert ⟨b, cs⟩ = .next ⟨{ blockReset with
      out := ((domOrder b).map (Output.pdRet · false)).reverse ++ ((domOrder b).map (Output.pdIso · true)).reverse
        ++ [.avs b.fuses.vsafeMv.toNat, .divStep 4, .faultFatal false, .blkUp false, .ksInvalid true] ++ b.out,
      fresh := b.fresh }, cs⟩) ∧
  (∀ (edges : Nat) (b : Block) (cs : List Instr), 2 ≤ edges →
    exec (.hrstNAssert edges) ⟨b, cs⟩ = .next ⟨{ blockReset with
      time := { timeReset with root := b.time.root, lost := b.time.lost }
      sch := { schReset with powDue := (b.time.root + b.time.lost) / 192 + 2500000, edges := b.time.seq / 1024 }
      pwr := { pwrReset with warm := true }
      flt := { fltReset with
        logRecs := b.flt.logRecs, written := b.flt.written, dump := b.flt.dump, dumpValid := b.flt.dumpValid
        dumpLocked := b.flt.dumpLocked, dumpReason := b.flt.dumpReason, captures := b.flt.captures
        warm := satAdd 16 b.flt.warm 1, stalemates := b.flt.stalemates, partResets := b.flt.partResets
        expiries := b.flt.expiries, unlock := b.flt.unlock }
      out := ((domOrder b).map (Output.pdRet · false)).reverse ++ ((domOrder b).map (Output.pdIso · true)).reverse
        ++ [.avs b.fuses.vsafeMv.toNat, .divStep 4, .faultFatal false, .blkUp false, .ksInvalid true] ++ b.out
      fresh := b.fresh }, cs⟩) ∧
  (∀ (edges : Nat) (b : Block) (cs : List Instr), edges < 2 →
    exec (.hrstNAssert edges) ⟨b, cs⟩ = nextAfter b cs)

/-- R395, R399: the release begins step 1; each step of start-up begins when the one before it has ended: the clock is seen,
the fuses are read and the domains switched on in order, the identity key derived, the ROM boots from flash, the operating
point is taken, the identity reads and discovery run, and `hp_blk_up` rises. It is the model's choice that the domains are
switched on one after another and that step 6 begins the DVFS sequence on its entry (log entry 44), and that the boot step is
held within the fuse limits and the first power sample is due 25,000 cycles of CLK_REF after step 6 (log entry 25). -/
def Obligations.StartUp : Prop :=
  (∀ (b : Block) (cs : List Instr), b.pwr.step = 0 →
    exec .resetRelease ⟨b, cs⟩
      = nextAfter { b with pwr := { b.pwr with step := 1, relAt := (b.time.root + b.time.lost) / 192 } } cs) ∧
  (∀ (b : Block) (cs : List Instr) (l : List Nat), running b = true → b.pwr.step = 1 → 16 ≤ l.length →
    (∀ n ∈ l.drop (l.length - 16), 22 ≤ n ∧ n ≤ 26) →
    exec (.startupStep (.clockEdges l)) ⟨b, cs⟩
      = nextAfter { b with pwr := { b.pwr with step := 2 }, out := .fuseRead :: b.out } cs) ∧
  (∀ (b : Block) (cs : List Instr) (f : Fuses), running b = true → b.pwr.step = 2 →
    exec (.startupStep (.fuses f)) ⟨b, cs⟩ =
      let r : Block := { b with fuses := f, pwr := { b.pwr with step := 3, dvfs := { b.pwr.dvfs with volt := f.vsafeMv.toNat, wrote := f.vsafeMv.toNat } } }
      nextAfter (startDomain ((domOrder r).foldl (fun b d => modDom d (fun m => { m with st := .off }) b) r)) cs) ∧
  (∀ (b : Block) (d : Nat), (domOrder b).find? (fun d => (domOf b d).st == .off) = some d →
    startDomain b = emit (.pdSwitch d true) (modDom d (fun m => { m with st := .leaving }) b)) ∧
  (∀ (b : Block), (domOrder b).all (fun d => (domOf b d).st != .off) = true →
    startDomain b = { b with pwr := { b.pwr with step := 4 } }) ∧
  (∀ (b : Block) (cs : List Instr), running b = true → b.pwr.step = 4 → allZero b.fuses.seed = false →
    exec (.startupStep .idle) ⟨b, cs⟩ =
      let k := idkScalar b.fuses.seed 255 1
      nextAfter { b with
        pwr := { b.pwr with step := 5 }
        sec := { b.sec with idkValid := true, scalar := k, pub := ecPublic k, kinv := false }
        fab := { b.fab with tie := beNat ((sha384 (ecPublic k)).take 8) }
        out := .ksInvalid false :: b.out } cs) ∧
  (∀ (b : Block) (cs : List Instr) (v : FlashView), running b = true → b.pwr.step = 5 →
    exec (.startupStep (.flash v)) ⟨b, cs⟩ =
      let r := acceptChain (romBoot v b)
      nextAfter (bootDvfs { r with pwr := { r.pwr with step := 6 } }) cs) ∧
  (∀ (b : Block) (im : Image), b.pwr.img.active = some im → b.pwr.emerg.active = false → im.rails = [] →
    bootDvfs b =
      let t := min 4 (max im.boot b.fuses.stepMin.toNat)
      let r : Block := { b with pwr := { b.pwr with dvfs := { b.pwr.dvfs with target := t, tVolt := 0 } } }
      startSeq t (oppVolt r t) none r) ∧
  (∀ (b : Block) (cs : List Instr), running b = true → b.pwr.step = 6 → b.pwr.dvfs.phase = .idle →
    exec (.startupStep .idle) ⟨b, cs⟩ = nextAfter { b with
      pwr := { b.pwr with step := 7, sampleDue := (b.time.root + b.time.lost) / 192 + 25000 }
      fab := { b.fab with
        phase := 0, fruDead := some (b.time.root / 96 + 2 ^ 18), cmisLeft := List.range (nPorts b)
        trainUse := b.fab.train, waveUse := b.fab.waveLog2 }
      out := .idRead 0 0x50 0 8 :: .idSelect 0 0x1F :: b.out } cs) ∧
  (∀ (b : Block) (cs : List Instr) (x : StartInput), running b = true → b.pwr.step = 9 →
    exec (.startupStep x) ⟨b, cs⟩ = nextAfter b cs) ∧
  (∀ (b : Block) (cs : List Instr), running b = true → b.pwr.step = 7 → b.fab.phase = 8 ∨ b.fab.phase = 9 →
    b.flt.leaseOff = false →
    exec (.startupStep .idle) ⟨b, cs⟩ = nextAfter { b with
      hub := { b.hub with blkUp := true }
      pwr := { b.pwr with step := 9, startCycles := min ((b.time.root + b.time.lost) / 192 - b.pwr.relAt) (2 ^ 32 - 1) }
      flt := { b.flt with leaseDead := some ((b.time.root + b.time.lost) / 192 + 2 ^ b.flt.leaseLog2) }
      out := .blkUp true :: b.out } cs)

/-- R30, R433: while `hp_blk_up` is low no access reaches the block; while PD_HUB is not ON an access waits and wakes it. -/
def Obligations.MmioHeld : Prop :=
  (∀ (b : Block) (cs : List Instr) (a : MmioWrite), b.hub.blkUp = false →
    exec (.registerWrite a) ⟨b, cs⟩ = nextAfter b cs ∧ exec (.adminWindowWrite a) ⟨b, cs⟩ = nextAfter b cs) ∧
  (∀ (b : Block) (cs : List Instr) (bar2 fn : Bool) (a : BitVec 24) (id : BitVec 3), b.hub.blkUp = false →
    exec (.registerRead bar2 a fn id) ⟨b, cs⟩ = nextAfter b cs) ∧
  (∀ (b : Block) (cs : List Instr) (a : MmioWrite), b.hub.blkUp = true → domOn b 1 = false →
    exec (.registerWrite a) ⟨b, cs⟩
      = afterAccess { b with hub := { b.hub with held := b.hub.held ++ [.write false a] } } cs ∧
    exec (.adminWindowWrite a) ⟨b, cs⟩
      = afterAccess { b with hub := { b.hub with held := b.hub.held ++ [.write true a] } } cs) ∧
  (∀ (b : Block) (cs : List Instr) (bar2 fn : Bool) (a : BitVec 24) (id : BitVec 3), b.hub.blkUp = true → domOn b 1 = false →
    exec (.registerRead bar2 a fn id) ⟨b, cs⟩
      = afterAccess { b with hub := { b.hub with held := b.hub.held ++ [.read bar2 a fn id] } } cs)

/-! ### Doorbells (R41, R42, R69) -/

/-- R41, R42, R67: a full tail write of a value that the ring has, to a queue of an ACTIVE context that is neither DISABLED nor
being reset, replaces TAIL and sets PENDING, such a head write replaces CQ_HEAD, and nothing else; any other write in the
context's doorbell page is discarded and counted in its DB_DROP. -/
def Obligations.Doorbells : Prop :=
  (∀ (b : Block) (cs : List Instr) (a : MmioWrite) (q : Nat), hubOpen b = true → (a.fn = true → svcOwns b q = true) →
    bar2At b a.addr.toNat = some (.tail q) → a.be = 0xFF → a.data.toNat < 2 ^ 16 →
    a.data.toNat < 2 ^ (queueOf b q).ringLog2 → (ctxOf b (q / 6)).state = .active → (queueOf b q).state ≠ .disabled →
    (queueOf b q).resetting = false →
    exec (.tailDoorbell a) ⟨b, cs⟩ = afterAccess (modQueue q (fun r => { r with tail := a.data.toNat, pending := true }) b) cs) ∧
  (∀ (b : Block) (cs : List Instr) (a : MmioWrite) (q : Nat), hubOpen b = true → (a.fn = true → svcOwns b q = true) →
    bar2At b a.addr.toNat = some (.cqHead q) → a.be = 0xFF → a.data.toNat < 2 ^ 16 →
    a.data.toNat < 2 ^ (queueOf b q).cqLog2 → (ctxOf b (q / 6)).state = .active → (queueOf b q).state ≠ .disabled →
    (queueOf b q).resetting = false →
    exec (.cqHeadDoorbell a) ⟨b, cs⟩ = afterAccess (modQueue q (fun r => { r with cqHead := a.data.toNat }) b) cs) ∧
  (∀ (b : Block) (cs : List Instr) (a : MmioWrite) (q : Nat), hubOpen b = true → (a.fn = true → svcOwns b q = true) →
    bar2At b a.addr.toNat = some (.tail q) →
    exec (.tailDoorbell a) ⟨b, cs⟩ =
      if a.be = 0xFF ∧ a.data.toNat < 2 ^ 16 ∧ a.data.toNat < 2 ^ (queueOf b q).ringLog2
          ∧ (ctxOf b (q / 6)).state = .active ∧ (queueOf b q).state ≠ .disabled ∧ (queueOf b q).resetting = false then
        afterAccess (modQueue q (fun r => { r with tail := a.data.toNat, pending := true }) b) cs
      else afterAccess (modCtx (q / 6) (fun r => { r with dbDrop := satAdd 32 r.dbDrop 1 }) b) cs) ∧
  (∀ (b : Block) (cs : List Instr) (a : MmioWrite) (q : Nat), hubOpen b = true → (a.fn = true → svcOwns b q = true) →
    bar2At b a.addr.toNat = some (.cqHead q) →
    exec (.cqHeadDoorbell a) ⟨b, cs⟩ =
      if a.be = 0xFF ∧ a.data.toNat < 2 ^ 16 ∧ a.data.toNat < 2 ^ (queueOf b q).cqLog2
          ∧ (ctxOf b (q / 6)).state = .active ∧ (queueOf b q).state ≠ .disabled ∧ (queueOf b q).resetting = false then
        afterAccess (modQueue q (fun r => { r with cqHead := a.data.toNat }) b) cs
      else afterAccess (modCtx (q / 6) (fun r => { r with dbDrop := satAdd 32 r.dbDrop 1 }) b) cs) ∧
  (∀ (b : Block) (cs : List Instr) (a : MmioWrite), hubOpen b = true → a.fn = false → bar2At b a.addr.toNat = none →
    a.addr.toNat / 0x1000 < nContexts b → exec (.adminWindowWrite a) ⟨b, cs⟩
      = afterAccess (modCtx (a.addr.toNat / 0x1000) (fun c => { c with dbDrop := satAdd 32 c.dbDrop 1 }) b) cs)

/-- R69: an access of the service function to anything but the two doorbells of the service context's enabled queue is
discarded and counted when a write, and answered with `hp_ms_err` when a read. -/
def Obligations.ServiceFunction : Prop :=
  (∀ (b : Block) (cs : List Instr) (a : MmioWrite), hubOpen b = true → a.fn = true →
    exec (.registerWrite a) ⟨b, cs⟩
      = afterAccess { b with hub := { b.hub with dbStray := satAdd 32 b.hub.dbStray 1 } } cs) ∧
  (∀ (b : Block) (cs : List Instr) (a : MmioWrite), hubOpen b = true → a.fn = true →
    svcReads b true a.addr.toNat = false →
    exec (.adminWindowWrite a) ⟨b, cs⟩
      = afterAccess { b with hub := { b.hub with dbStray := satAdd 32 b.hub.dbStray 1 } } cs) ∧
  (∀ (b : Block) (cs : List Instr) (bar2 : Bool) (a : BitVec 24) (id : BitVec 3), hubOpen b = true →
    svcReads b bar2 a.toNat = false →
    exec (.registerRead bar2 a true id) ⟨b, cs⟩ = afterAccess { b with out := .mmioResp id.toNat 0 true :: b.out } cs)

/-! ### Registers (R426, R430, R431, R436) -/

/-- R431: a read of a reserved offset returns zero, a write to it is discarded and raises no error and no fault; in a doorbell
page it is counted as R41 says. -/
def Obligations.ReservedOffsets : Prop :=
  (∀ (b : Block) (cs : List Instr) (a : BitVec 24) (id : BitVec 3), hubOpen b = true → regAt b a.toNat = none →
    exec (.registerRead false a false id) ⟨b, cs⟩ = afterAccess { b with out := .mmioResp id.toNat 0 false :: b.out } cs) ∧
  (∀ (b : Block) (cs : List Instr) (a : MmioWrite), hubOpen b = true → a.fn = false →
    regAt b a.addr.toNat = none → exec (.registerWrite a) ⟨b, cs⟩ = afterAccess b cs) ∧
  (∀ (b : Block) (cs : List Instr) (a : BitVec 24) (id : BitVec 3), hubOpen b = true → bar2At b a.toNat = none →
    exec (.registerRead true a false id) ⟨b, cs⟩ = afterAccess { b with out := .mmioResp id.toNat 0 false :: b.out } cs) ∧
  (∀ (b : Block) (cs : List Instr) (a : MmioWrite), hubOpen b = true → a.fn = false → bar2At b a.addr.toNat = none →
    exec (.adminWindowWrite a) ⟨b, cs⟩ = afterAccess (if a.addr.toNat / 0x1000 < nContexts b then
      modCtx (a.addr.toNat / 0x1000) (fun c => { c with dbDrop := satAdd 32 c.dbDrop 1 }) b else b) cs)

/-- R430, R436: a read that HUB takes of a register whose domain is ON completes: it answers the register's value and
clears its RC fields alone. Those of HUB_CTX_DB_DROP, FAB_SERDO_DROP, DEP_WCD_COUNT, ADM_DROP and HUB_DB_STRAY, to which R438 gives
the access code RC, are cleared whole; a register with no RC field is left as it is. With the register's domain not ON the read
answers zero and clears nothing; in stalemate one that may still be read answers its value and clears nothing, any other is
answered with `hp_ms_err`. A read of HUB's queue configuration, the detector's configuration and the admin ring indices answers
the fields that R74, R146 and R426 give. -/
def Obligations.RegisterReads : Prop :=
  (∀ (b : Block) (cs : List Instr) (a : BitVec 24) (id : BitVec 3) (r : Reg), hubOpen b = true →
    domOn b (regDomain a.toNat) = true → regAt b a.toNat = some r →
    exec (.registerRead false a false id) ⟨b, cs⟩ =
      let c := regClear r b
      afterAccess { c with out := .mmioResp id.toNat (BitVec.ofNat 64 (regVal b r)) false :: c.out } cs) ∧
  (∀ (b : Block) (r : Reg), rcReg r = false → regClear r b = b) ∧
  (∀ (b : Block) (c : Nat), regVal b (.hubCtxDbDrop c) = (ctxOf b c).dbDrop ∧
    regClear (.hubCtxDbDrop c) b = modCtx c (fun x => { x with dbDrop := 0 }) b) ∧
  (∀ (b : Block), regVal b .fabSerdoDrop
      = b.fab.dropAuth * 2 ^ 48 + b.fab.dropReplay * 2 ^ 32 + b.fab.dropNoroute * 2 ^ 16 + b.fab.dropOverflow ∧
    regClear .fabSerdoDrop b
      = { b with fab := { b.fab with dropAuth := 0, dropReplay := 0, dropNoroute := 0, dropOverflow := 0 } }) ∧
  (∀ (b : Block),
    (regVal b .depWcdCount = b.dep.wcdCount ∧ regClear .depWcdCount b = { b with dep := { b.dep with wcdCount := 0 } }) ∧
    (regVal b .admDrop = b.adm.drop ∧ regClear .admDrop b = { b with adm := { b.adm with drop := 0 } }) ∧
    (regVal b .hubDbStray = b.hub.dbStray ∧ regClear .hubDbStray b = { b with hub := { b.hub with dbStray := 0 } }) ∧
    (∀ q, regVal b (.hubQTail q)
      = (if (queueOf b q).pending then 2 ^ 32 else 0) + (queueOf b q).cqHead * 2 ^ 16 + (queueOf b q).tail) ∧
    regVal b .depWcdCfg = (if b.dep.wcdEnable then 2 ^ 16 else 0) + b.dep.wcdSettle ∧
    regVal b .admCmdTail = b.adm.cmdTail ∧ regVal b .admCmdHead = b.adm.cmdHead ∧
    regVal b .admRplTail = (if b.adm.phase then 2 ^ 10 else 0) + b.adm.rplTail) ∧
  (∀ (b : Block) (cs : List Instr) (a : BitVec 24) (id : BitVec 3), hubOpen b = true →
    domOn b (regDomain a.toNat) = false →
    exec (.registerRead false a false id) ⟨b, cs⟩ = afterAccess { b with out := .mmioResp id.toNat 0 false :: b.out } cs) ∧
  (∀ (b : Block) (cs : List Instr) (a : BitVec 24) (id : BitVec 3), b.hub.blkUp = true → domOn b 1 = true → b.hub.held = [] →
    b.flt.stale = true →
    (staleReadable a.toNat = false → exec (.registerRead false a false id) ⟨b, cs⟩
      = afterAccess { b with out := .mmioResp id.toNat 0 true :: b.out } cs) ∧
    (∀ r, staleReadable a.toNat = true → domOn b (regDomain a.toNat) = true → regAt b a.toNat = some r →
      exec (.registerRead false a false id) ⟨b, cs⟩
        = afterAccess { b with out := .mmioResp id.toNat (BitVec.ofNat 64 (regVal b r)) false :: b.out } cs))

/-- R426, R430: writes of the admin ring indices, of the dump's LOCKED bit, of a slot's bandwidth, of the deadlock detector's
configuration and of the fetch configuration change their writable fields alone, a bit that hardware sets in the same cycle
staying set (R11); a write of fewer than eight byte enables to
any register of BAR0 is discarded, and on the two ring indices counted. -/
def Obligations.RegisterWrites : Prop :=
  (∀ (b : Block) (cs : List Instr) (a : MmioWrite), reaches b a .admCmdTail = true → a.be = 0xFF →
    exec (.admCmdTail a) ⟨b, cs⟩ = afterAccess { b with adm :=
      if a.data.toNat < 1024 then { b.adm with cmdTail := a.data.toNat }
      else { b.adm with drop := satAdd 32 b.adm.drop 1 } } cs) ∧
  (∀ (b : Block) (cs : List Instr) (a : MmioWrite), reaches b a .admRplHead = true → a.be = 0xFF →
    exec (.admRplHead a) ⟨b, cs⟩ = afterAccess { b with adm := { b.adm with rplHead := a.data.toNat % 1024 } } cs) ∧
  (∀ (b : Block) (cs : List Instr) (a : MmioWrite), a.be ≠ 0xFF →
    (reaches b a .admCmdTail = true → exec (.admCmdTail a) ⟨b, cs⟩
      = afterAccess { b with adm := { b.adm with drop := satAdd 32 b.adm.drop 1 } } cs) ∧
    (reaches b a .admRplHead = true → exec (.admRplHead a) ⟨b, cs⟩
      = afterAccess { b with adm := { b.adm with drop := satAdd 32 b.adm.drop 1 } } cs)) ∧
  (∀ (b : Block) (cs : List Instr) (a : MmioWrite), reaches b a .fltDumpStatus = true → a.be = 0xFF →
    exec (.dumpUnlock a) ⟨b, cs⟩
      = afterAccess { b with flt := { b.flt with dumpLocked := b.flt.dumpLocked && (!a.data.getLsbD 0 || b.time.notes.contains .dumpLocked) } } cs) ∧
  (∀ (b : Block) (cs : List Instr) (a : MmioWrite), reaches b a .schBwCfg = true → a.be = 0xFF →
    exec (.schBwCfg a) ⟨b, cs⟩ = afterAccess (modSch b.sch.slotSel (fun s => { s with bwNext := {
      en := a.data.getLsbD 63
      burst := if a.data.toNat / 2 ^ 32 % 2 ^ 24 = 0 then s.bwNext.burst else a.data.toNat / 2 ^ 32 % 2 ^ 24
      rate := if a.data.toNat % 2 ^ 24 = 0 then s.bwNext.rate else a.data.toNat % 2 ^ 24 } }) b) cs) ∧
  (∀ (b : Block) (cs : List Instr) (a : MmioWrite), reaches b a .depWcdCfg = true → a.be = 0xFF →
    exec (.registerWrite a) ⟨b, cs⟩ = afterAccess { b with dep := { b.dep with
      wcdEnable := a.data.getLsbD 16
      wcdSettle := if a.data.toNat % 2 ^ 16 < 0x40 then b.dep.wcdSettle else a.data.toNat % 2 ^ 16 } } cs) ∧
  (∀ (b : Block) (cs : List Instr) (a : MmioWrite), reaches b a .hubFetchCfg = true → a.be = 0xFF →
    exec (.registerWrite a) ⟨b, cs⟩ = afterAccess { b with hub := { b.hub with
      maxReads := if 1 ≤ a.data.toNat % 2 ^ 10 ∧ a.data.toNat % 2 ^ 10 ≤ 512 then a.data.toNat % 2 ^ 10
        else b.hub.maxReads } } cs) ∧
  (∀ (b : Block) (cs : List Instr) (a : MmioWrite) (r : Reg), reaches b a r = true → a.be ≠ 0xFF →
    r ≠ .admCmdTail → r ≠ .admRplHead →
    exec (.registerWrite a) ⟨b, cs⟩ = afterAccess b cs ∧
    (r = .fltDumpStatus → exec (.dumpUnlock a) ⟨b, cs⟩ = afterAccess b cs) ∧
    (r = .schBwCfg → exec (.schBwCfg a) ⟨b, cs⟩ = afterAccess b cs) ∧
    (∀ i, r = .dspCoreFailed i → exec (.dspCoreFailed a) ⟨b, cs⟩ = afterAccess b cs) ∧
    (r = .seqPcacheInv → exec (.seqPcacheInv a) ⟨b, cs⟩ = afterAccess b cs) ∧
    (∀ c, r = .batCtxTrCfg c → exec (.batCtxTrCfg a) ⟨b, cs⟩ = afterAccess b cs) ∧
    (∀ c, r = .batCtxTrHead c → exec (.batCtxTrHead a) ⟨b, cs⟩ = afterAccess b cs) ∧
    (r = .fabIdCfg → exec (.rescan a) ⟨b, cs⟩ = afterAccess b cs) ∧
    (r = .hubHostLease → exec (.renew a) ⟨b, cs⟩ = afterAccess b cs) ∧
    (r = .fltSummary → exec (.fltSummaryClear a) ⟨b, cs⟩ = afterAccess b cs) ∧
    (r = .fltForce → exec (.fltForce a) ⟨b, cs⟩ = afterAccess b cs))

/-- R11, R165, R177, R259, R310: a write returns failed cores to placement, invalidates program cache entries, configures a token
ring and takes its HEAD (a write that the hardware's own clearing in the same cycle does not undo, `noteCycle`), or begins a rescan of the modules. -/
def Obligations.RegisterActions : Prop :=
  (∀ (b : Block) (cs : List Instr) (a : MmioWrite) (i : Nat), reaches b a (.dspCoreFailed i) = true → a.be = 0xFF →
    exec (.dspCoreFailed a) ⟨b, cs⟩ = afterAccess (((bitsOf a.data.toNat 64).filter
      (fun j => (coreOf b (64 * i + j)).failed && !b.time.notes.contains (.coreFailed (64 * i + j)))).foldl
        (fun b j => modCore (64 * i + j) (fun r => { r with failed := false }) b) b) cs) ∧
  (∀ (b : Block) (cs : List Instr) (a : MmioWrite), reaches b a .seqPcacheInv = true → a.be = 0xFF →
    exec (.seqPcacheInv a) ⟨b, cs⟩ = afterAccess (invalidate
      (fun c => a.data.getLsbD 8 || c == a.data.toNat % 256) b) cs) ∧
  (∀ (b : Block) (cs : List Instr) (a : MmioWrite) (c : Nat), reaches b a (.batCtxTrCfg c) = true → a.be = 0xFF →
    4 ≤ a.data.toNat / 256 % 32 → a.data.toNat / 256 % 32 ≤ 20 →
    exec (.batCtxTrCfg a) ⟨b, cs⟩ =
      if a.data.getLsbD 0 then afterAccess (leaveOfCtx c (noteCycle (.trCfg c) (modRing c (fun r => { r with
        log2 := a.data.toNat / 256 % 32, en := true, head := 0, tail := 0, phase := true, undel := false, recs := [] }) b))) cs
      else afterAccess (noteCycle (.trCfg c) (modRing c (fun r => { r with log2 := a.data.toNat / 256 % 32, en := false }) b)) cs) ∧
  (∀ (b : Block) (cs : List Instr) (a : MmioWrite) (c : Nat), reaches b a (.batCtxTrHead c) = true → a.be = 0xFF →
    exec (.batCtxTrHead a) ⟨b, cs⟩ =
      if 2 ^ (ringOf b c).log2 ≤ a.data.toNat % 2 ^ 20 then afterAccess b cs
      else afterAccess (leaveOfCtx c (noteCycle (.trHead c) (modRing c (fun r => { r with head := a.data.toNat % 2 ^ 20 }) b))) cs) ∧
  (∀ (b : Block) (cs : List Instr) (a : MmioWrite), reaches b a .fabIdCfg = true → a.be = 0xFF →
    a.data.getLsbD 8 = true → b.fab.rescan = [] →
    exec (.rescan a) ⟨b, cs⟩ = afterAccess (startModules { b with fab := { b.fab with
      idMode := a.data.toNat % 256, rescan := List.range (nPorts b) } }) cs)

/-- R360, R362, R374: RENEW restarts the lease, lets every queue go on that its expiry stopped, and every turn loop that it held; a
write of FLT_SUMMARY clears its class bits, one whose class is still ACTIVE being set again, which requests vector 1,025 for
UCC; FLT_FORCE takes its fields, and GO injects the error
or refuses it and counts the refusal. -/
def Obligations.FaultWrites : Prop :=
  (∀ (b : Block) (cs : List Instr) (a : MmioWrite), reaches b a .hubHostLease = true → a.be = 0xFF →
    a.data.getLsbD 0 = true → b.flt.leaseOff = false →
    exec (.renew a) ⟨b, cs⟩ =
      let renewed : Block := { b with
        hub := { b.hub with
          leaseExpired := false, queues := tmap queueZero b.hub.queues (fun _ r => { r with leaseStop := false }) }
        flt := { b.flt with leaseDead := some ((b.time.root + b.time.lost) / 192 + 2 ^ b.flt.leaseLog2) } }
      afterAccess ((b.bat.loops.map (·.1)).foldl
        (fun b k => loopEvent k (modLoop k (fun l => { l with leaseHeld := false }) b)) renewed) cs) ∧
  (∀ (b : Block) (cs : List Instr) (a : MmioWrite), reaches b a .fltSummary = true → a.be = 0xFF →
    let ce := a.data.getLsbD 0
    let ucc := a.data.getLsbD 1
    let now (c : Cls) : Bool := b.flt.srcs.any (fun e => e.2.active && e.2.cls == c)
    (ucc && now .ucc) = false → (ce && now .ce && b.flt.ceIrq) = false →
    exec (.fltSummaryClear a) ⟨b, cs⟩ = afterAccess { b with flt := { b.flt with
      sumCe := (b.flt.sumCe && !ce) || (ce && now .ce), sumUcc := b.flt.sumUcc && !ucc } } cs) ∧
  (∀ (b : Block) (cs : List Instr) (a : MmioWrite), reaches b a .fltSummary = true → a.be = 0xFF →
    a.data.getLsbD 0 = false → a.data.getLsbD 1 = true → b.flt.srcs.any (fun e => e.2.active && e.2.cls == .ucc) = true →
    exec (.fltSummaryClear a) ⟨b, cs⟩
      = afterAccess (msix 1025 { b with flt := { b.flt with sumUcc := true } }) cs) ∧
  (∀ (b : Block) (cs : List Instr) (a : MmioWrite), reaches b a .fltForce = true → a.be = 0xFF →
    let src := a.data.toNat / 2 ^ 32 % 2 ^ 6
    let target := a.data.toNat % 2 ^ 30
    let ue := a.data.getLsbD 38
    let taken : Block := { b with flt := { b.flt with fUe := ue, fSrc := src, fTarget := target } }
    (a.data.getLsbD 63 = false → exec (.fltForce a) ⟨b, cs⟩ = afterAccess taken cs) ∧
    (a.data.getLsbD 63 = true → srcForm src ue = none →
      exec (.fltForce a) ⟨b, cs⟩
        = afterAccess { taken with flt := { taken.flt with refused := satAdd 16 b.flt.refused 1 } } cs) ∧
    (∀ (cls : Cls) (scope : Nat), a.data.getLsbD 63 = true → srcForm src ue = some (cls, scope) →
      (cls = .ftl ∧ b.flt.unlock = false) ∨ memberExists taken scope target = false →
      exec (.fltForce a) ⟨b, cs⟩
        = afterAccess { taken with flt := { taken.flt with refused := satAdd 16 b.flt.refused 1 } } cs) ∧
    (∀ (cls : Cls) (scope : Nat), a.data.getLsbD 63 = true → srcForm src ue = some (cls, scope) →
      (cls = .ftl → b.flt.unlock = true) → memberExists taken scope target = true →
      exec (.fltForce a) ⟨b, cs⟩ =
        let marked : Block := { taken with flt := { taken.flt with forcing := src + 1 } }
        let done := if isSram src then forceSram src target ue marked else forceOther src target marked
        afterAccess { done with flt := { done.flt with forcing := 0 } } cs))

/-- R406: a write to the command ring is stored; one to the reply ring is discarded and counted; a read of a word of either ring
answers what it holds. That a write of fewer than eight byte enables stores the enabled bytes alone is the model's choice (log
entry 30). -/
def Obligations.AdminWindow : Prop :=
  (∀ (b : Block) (cs : List Instr) (a : MmioWrite) (w : Nat), hubOpen b = true → a.fn = false →
    bar2At b a.addr.toNat = some (.cmd w) →
    exec (.adminWindowWrite a) ⟨b, cs⟩ = afterAccess { b with adm := { b.adm with
      cmd := tmod 0 b.adm.cmd w (fun x => mergeBe x a.data.toNat a.be) } } cs) ∧
  (∀ (b : Block) (cs : List Instr) (a : MmioWrite) (w : Nat), hubOpen b = true → a.fn = false →
    bar2At b a.addr.toNat = some (.rpl w) →
    exec (.adminWindowWrite a) ⟨b, cs⟩
      = afterAccess { b with adm := { b.adm with drop := satAdd 32 b.adm.drop 1 } } cs) ∧
  (∀ (b : Block) (cs : List Instr) (a : BitVec 24) (id : BitVec 3) (w : Nat), hubOpen b = true →
    (bar2At b a.toNat = some (.cmd w) →
      exec (.registerRead true a false id) ⟨b, cs⟩
        = afterAccess { b with out := .mmioResp id.toNat (BitVec.ofNat 64 (tget 0 b.adm.cmd w)) false :: b.out } cs) ∧
    (bar2At b a.toNat = some (.rpl w) →
      exec (.registerRead true a false id) ⟨b, cs⟩
        = afterAccess { b with out := .mmioResp id.toNat (BitVec.ofNat 64 (tget 0 b.adm.rpl w)) false :: b.out } cs))

/-! ### The admin interface (R408 to R426) -/

/-- R408, R411: with the ring not empty, room for a reply and the last taking two cycles past, the block takes the entry at
HEAD and advances HEAD; an opcode of no admin table is answered BAD_OPCODE at once, and an entry of the ring that is beyond
correction with MEM_UNCORRECTED (R356). The command keeps whether the block was in recovery and the major revision in force
when it was taken (R402). -/
def Obligations.AdminTake : Prop :=
  ∀ (b : Block) (cs : List Instr), serving b = true → b.adm.cmdHead ≠ b.adm.cmdTail → admRoom b = true →
    (∀ t, b.adm.takenAt = some t → t + 2 ≤ hubNow b) →
    let i := b.adm.cmdHead
    let n := 1024 * b.adm.laps + i
    let e := entryAt b i
    let taken : Block := { b with
      adm := { b.adm with
        cmds := b.adm.cmds ++ [{ idx := n, entry := e, recov := b.pwr.img.recovery, major := b.pwr.ifrev / 256, started := false, replied := false, finalDue := none, stage := 0
                                 got := [], next := 0, out := 0, bad := none }]
        cmdHead := (i + 1) % 1024, takenAt := some (hubNow b)
        laps := if i = 1023 then b.adm.laps + 1 else b.adm.laps, bad := b.adm.bad.filter (· != i) }
      flt := { b.flt with admLog := (e.take 32 :: b.flt.admLog).take 64 } }
    exec .adminCommandTake ⟨b, cs⟩
      = nextAfter (if b.adm.bad.contains i then admReply n .memUncorrected 0xFFFFFFFF [] true taken
          else if admListed (admOpc e) then taken else admReply n .badOpcode 0 [] true taken) cs

/-- R410, R411, R413: a reply is written at TAIL with its words, TAIL advances and PHASE toggles on the wrap; a final reply
ends the command, a first one leaves it awaiting; vector 1,024 is requested unless `ADM_CFG.IRQ_EN` is 0. Of two commands that
end together the one of the lower INDEX is answered first. -/
def Obligations.AdminReply : Prop :=
  (∀ (b : Block) (i : Nat) (c : AdmCmd) (st : Status) (detail : Nat) (result : List Nat) (final : Bool),
    admOf b i = some c → b.flt.stale = false → b.flt.clockLost = false → b.adm.due = [] →
    admFlush (admReply i st detail result final b) =
      let t := (b.adm.rplTail + 1) % 1024
      let w0 := st.code % 256 * 2 ^ 24 + admOpc c.entry * 2 ^ 16 + (if b.adm.phase then 2 ^ 15 else 0)
        + (if final then 2 ^ 14 else 0) + i % 1024
      { b with
        adm := { b.adm with
          rpl := putEntry b.adm.rpl b.adm.rplTail ([w0, word c.entry 1, detail, 0] ++ result), rplTail := t
          phase := if t = 0 then !b.adm.phase else b.adm.phase
          cmds := if final then b.adm.cmds.filter (·.idx != i)
            else modFirst (·.idx == i) (fun c => { c with replied := true }) b.adm.cmds }
        out := if b.adm.irqEn then .msix 1024 :: b.out else b.out }) ∧
  (∀ (b : Block) (i j : Nat) (c d : AdmCmd) (st st' : Status), i % 1024 < j % 1024 → admOf b i = some c → admOf b j = some d →
    b.adm.due = [] →
    admFlush (admReply i st 0xFFFFFFFF [] true (admReply j st' 0xFFFFFFFF [] true b))
      = admFlush (admReply j st' 0xFFFFFFFF [] true (admReply i st 0xFFFFFFFF [] true b)))

/-- R412, R415, R416: a deferred command's final reply carries its outcome; a common check that fails ends a command with
its status and performs nothing of it; a failed write of a command's buffer ends it with XLAT_FAULT and its address
field's offset. -/
def Obligations.AdminOutcomes : Prop :=
  (∀ (b : Block) (cs : List Instr) (i : Nat) (c : AdmCmd) (st : Status) (res : List Byte), serving b = true → i < 1024 →
    admDueAt b i = some c → c.finalDue = some (st, res) →
    exec (.deferredFinalReply i) ⟨b, cs⟩
      = nextAfter (admReply c.idx st 0xFFFFFFFF ((List.range (res.length / 4)).map (word res)) true b) cs) ∧
  (∀ (b : Block) (cs : List Instr) (i : Nat) (c : AdmCmd) (st : Status) (off : Nat), serving b = true → i < 1024 →
    commonCheck c = some (st, off) →
    (admAt b 0x49 i = some c →
      exec (.leaseConfig i) ⟨b, cs⟩ = nextAfter (admReply c.idx st off [] true (admStarted c.idx b)) cs) ∧
    (admAt b 0x02 i = some c →
      exec (.ctxCreate i) ⟨b, cs⟩ = nextAfter (admReply c.idx st off [] true (admStarted c.idx b)) cs)) ∧
  (∀ (b : Block) (cs : List Instr) (id i : Nat) (c : AdmCmd) (status : BitVec 2), serving b = true →
    tget none b.hub.writes (id % 512) = some (.adm i) → admOf b i = some c → status ≠ 0 →
    exec (.hostWriteResponse id status) ⟨b, cs⟩
      = nextAfter (admReply i .xlatFault (admDest c.entry).2 [] true
          { b with hub := { b.hub with writes := tset none b.hub.writes (id % 512) none } }) cs) ∧
  (∀ (b : Block) (cs : List Instr) (id i : Nat) (c : AdmCmd), serving b = true →
    tget none b.hub.writes (id % 512) = some (.adm i) → admOf b i = some c → c.data.length ≤ c.next →
    admOpc c.entry = 0x41 →
    exec (.hostWriteResponse id 0) ⟨b, cs⟩
      = nextAfter (admReply i .ok 0xFFFFFFFF [] true
          (modAdm i (fun c => { c with stage := 0 }) (modAdm i (fun c => { c with out := 0 })
            { b with hub := { b.hub with writes := tset none b.hub.writes (id % 512) none } }))) cs)

/-- R33, R34, R39, R347, R349: CTX_CREATE of a FREE context raises ENABLE of its tag; CTX_DESTROY moves an ACTIVE context to
TEARING_DOWN, disables its queues, the service queue among them, and begins its teardown. Both are events of PD_SEC (R387). The
model's choice is that the PENDING of the queues is cleared here (log entry 47) and the place of the service queue freed (log
entry 43). -/
def Obligations.ContextCommands : Prop :=
  (∀ (b : Block) (cs : List Instr) (i : Nat) (e : List Byte), admReady b i 0x02 e = true →
    ef e 4 0 8 < nContexts b → (ctxOf b (ef e 4 0 8)).state = .free → ef e 5 0 20 ≠ 0 → tagHeld b (ef e 5 0 20) = false →
    (ef e 4 8 1 = 1 → b.hub.svcValid = false) → domOn b 4 = true → b.sec.tr = none →
    exec (.ctxCreate (i % 1024)) ⟨b, cs⟩ =
      let s := admStarted i b
      nextAfter (wake 4 7 { s with
        sec := { s.sec with tr := some { op := 1, ast := ef e 5 0 20, dead := hubNow b + drainBound b
                                         use := .create (ef e 4 0 8) i, expired := false } }
        out := .tr 1 (ef e 5 0 20) :: s.out }) cs) ∧
  (∀ (b : Block) (cs : List Instr) (i : Nat) (e : List Byte), admReady b i 0x03 e = true →
    ef e 4 0 8 < nContexts b → (ctxOf b (ef e 4 0 8)).state = .active → domOn b 4 = true →
    exec (.ctxDestroy (i % 1024)) ⟨b, cs⟩ =
      let c := ef e 4 0 8
      let d := (queuesOf c).foldl (fun b q => modQueue q (fun r => { r with
        state := .disabled, resetting := true, armed := false, pending := false }) b)
          (modCtx c (fun r => { r with state := .tearingDown }) (admStarted i b))
      nextAfter (wake 4 7 { d with
        hub := { d.hub with svcQueue := if b.hub.svcValid && b.hub.svcCtx == c then none else d.hub.svcQueue }
        sec := { d.sec with tds := d.sec.tds ++
        [{ ctx := c, step := 0, adm := i, start := 0, dead := 0, scrubEnd := 0, slots := [], deferred := false }] } }) cs)

/-- R34, R410, R415: a CTX_CREATE of a FREE context that names the reserved tag, or a tag that a context not FREE holds, is answered
BAD_PARAM with its tag field's offset and performs nothing else. -/
def Obligations.TagRejected : Prop :=
  ∀ (b : Block) (cs : List Instr) (i : Nat) (e : List Byte), admReady b i 0x02 e = true →
    ef e 4 0 8 < nContexts b → (ctxOf b (ef e 4 0 8)).state = .free →
    (ef e 5 0 20 = 0 ∨ ∃ c r, (c, r) ∈ b.hub.ctxs ∧ r.state ≠ .free ∧ r.ast = ef e 5 0 20) →
    exec (.ctxCreate (i % 1024)) ⟨b, cs⟩ = nextAfter (admReply i .badParam 20 [] true (admStarted i b)) cs

/-- R36, R67, R421: QUEUE_CONFIG with ENABLE = 1 sets the queue's fields and puts it in IDLE with PENDING clear; with
ENABLE = 0, and in QUEUE_RESET, the queue begins its reset: fetching stops and every operation of it is aborted. -/
def Obligations.QueueCommands : Prop :=
  (∀ (b : Block) (cs : List Instr) (i : Nat) (e : List Byte), admReady b i 0x04 e = true →
    let q := 6 * ef e 4 0 8 + ef e 4 8 3
    let s := admStarted i b
    queueCheck s e q = none → ef e 4 16 1 = 1 → (ctxOf b (q / 6)).service = false →
    exec (.queueConfig (i % 1024)) ⟨b, cs⟩ = nextAfter (admReply i .ok 0xFFFFFFFF [] true
      (modQueue q (fun r => { r with
        state := .idle, pending := false, gen2 := ef e 4 17 1 == 1, ringLog2 := ef e 5 0 5, cqLog2 := ef e 5 8 5
        pfLines := ef e 5 16 8, ringBase := dword e 6, cqBase := dword e 8 }) s)) cs) ∧
  (∀ (b : Block) (cs : List Instr) (i : Nat) (e : List Byte), admReady b i 0x04 e = true →
    let q := 6 * ef e 4 0 8 + ef e 4 8 3
    let s := admStarted i b
    queueCheck s e q = none → ef e 4 16 1 = 0 →
    exec (.queueConfig (i % 1024)) ⟨b, cs⟩ = nextAfter (abortOps ((b.dep.ops.filter (fun o => o.q == q)).map (·.oid))
      (modQueue q (fun r => { r with resetting := true, armed := false }) s)) cs) ∧
  (∀ (b : Block) (cs : List Instr) (i : Nat) (e : List Byte), admReady b i 0x05 e = true →
    let q := 6 * ef e 4 0 8 + ef e 4 8 3
    ef e 4 0 8 < nContexts b → (ctxOf b (ef e 4 0 8)).state = .active → ef e 4 8 3 ≤ 5 →
    (queueOf b q).state ≠ .disabled →
    exec (.queueReset (i % 1024)) ⟨b, cs⟩ = nextAfter (abortOps ((b.dep.ops.filter (fun o => o.q == q)).map (·.oid))
      (modQueue q (fun r => { r with resetting := true, armed := false }) (admStarted i b))) cs)

/-- R271 to R275: MOSAIC_CREATE begins to read its member list; MOSAIC_BIND takes the tesserae, and once its link masks are in
force in the current epoch it enters JOINING and joins; MOSAIC_REBIND of a READY slot begins the change; MOSAIC_RELEASE ends a bind, a rebind or a migration in progress, tells the members, stops the
board, unbinds and enters RELEASING. -/
def Obligations.MosaicCommands : Prop :=
  (∀ (b : Block) (cs : List Instr) (i : Nat) (e : List Byte), admReady b i 0x10 e = true → b.fab.phase = 8 →
    (mosOf b (ef e 4 0 6)).state = .free → ef e 4 16 16 ≠ 0 → slotOfId b (ef e 4 16 16) = none →
    ef e 5 0 15 ≠ 0 → ef e 5 0 15 ≤ 16384 → bufBad (dword e 6) (64 * ef e 5 0 15) 64 = none →
    exec (.mosaicCreate (i % 1024)) ⟨b, cs⟩ = nextAfter (modAdm i (fun c => { c with
      stage := 1, got := [], next := 0, out := 0, bad := none }) (admStarted i b)) cs) ∧
  (∀ (b : Block) (cs : List Instr) (i : Nat) (e : List Byte), admReady b i 0x11 e = true →
    let k := ef e 4 0 6
    let s := admStarted i b
    (mosOf b k).state = .created → (mosOf b k).bind = none →
    addCheck s (entrySets e).1 (entrySets e).2.1 (entrySets e).2.2 = none →
    scratchOn s (mosOf b k) (entrySets e).2.1 = true →
    let t := setLinks k (entrySets e).2.2
      (modMos k (fun m => { m with bind := some i, cores := (entrySets e).1, chans := (entrySets e).2.1 }) s)
    exec (.mosaicBind (i % 1024)) ⟨b, cs⟩ = nextAfter (bindRun k t) cs) ∧
  (∀ (b : Block) (k i : Nat), (mosOf b k).bind = some i → bindRun k b =
    if tget 0 (epochOf b (b.fab.epoch % 4)).masks k = (mosOf b k).links then
      admReply i .ok 0xFFFFFFFF [] true (sendJoin k (modMos k (fun m => { m with state := .joining, bind := none }) b))
    else b) ∧
  (∀ (b : Block) (cs : List Instr) (i : Nat) (e : List Byte), admReady b i 0x12 e = true →
    let k := ef e 4 0 6
    let s := admStarted i b
    (mosOf b k).state = .ready → (mosOf b k).rebind = none → ef e 4 8 1 = 0 → rebindCheck s k e = none →
    exec (.mosaicRebind (i % 1024)) ⟨b, cs⟩ = nextAfter (modMos k (fun m => { m with
      rebind := some { adm := i, step := 2, cores := (entrySets e).1, chans := (entrySets e).2.1
                       links := (entrySets e).2.2, members := none, move := entryMove e, waits := false }
      state := if m.state == .ready then .rebinding else m.state }) s) cs) ∧
  (∀ (b : Block) (cs : List Instr) (i : Nat) (e : List Byte), admReady b i 0x13 e = true →
    let k := ef e 4 0 6
    let s := admStarted i b
    (mosOf b k).state ≠ .free → (mosOf b k).state ≠ .releasing → releaseHeld s k = false →
    exec (.mosaicRelease (i % 1024)) ⟨b, cs⟩ =
      let f := releaseEnds k s
      let r := modMos k (fun m => { m with
        state := .releasing, chans := 0
        rel := some { adm := i, step := 1, ranges := scrubRanges f k, out := 0, chans := (mosOf f k).chans
                      links := portsHeld f k } }) (schStop k (sendMembers 0x11 [0] k f))
      let r : Block := { r with fab := { r.fab with
        redirects := r.fab.redirects.filter (fun x => tget 0 r.fab.redirOwner x.1 != k + 1) } }
      nextAfter (setLinks k 0 (unbindCores k (mosOf r k).cores r)) cs)

/-- R237, R314, R317, R368, R374: POOL_CONFIG records the pool, at the leader once the writes of its structures that it begins have
ended, SHARES_SET sets every share, BOARD_LOAD begins to read its
image, PARTITION_RESET starts the reset, LEASE_CONFIG sets the lease. -/
def Obligations.SchedulingCommands : Prop :=
  (∀ (b : Block) (cs : List Instr) (i : Nat) (e : List Byte), admReady b i 0x28 e = true →
    let s := admStarted i b
    poolCheck s e = none → ef e 4 24 1 = 0 → leads b (ef e 4 8 6) = false →
    exec (.poolConfig (i % 1024)) ⟨b, cs⟩ = nextAfter (admReply i .ok 0xFFFFFFFF (poolResult s e) true
      (loopEvent (ef e 4 8 6) (modPool (ef e 4 0 6) (fun _ => { poolZero with
        cfgd := true, slot := ef e 4 8 6, ctx := ef e 4 16 8, base := dword e 8, pageLog2 := ef e 5 0 5
        pageTok := ef e 6 0 17, pages := word e 7, cached := min 128 (word e 7) }) (forgetPages (ef e 4 0 6) s)))) cs) ∧
  (∀ (b : Block) (cs : List Instr) (i : Nat) (e : List Byte), admReady b i 0x28 e = true →
    let s := admStarted i b
    poolCheck s e = none → ef e 4 24 1 = 0 → leads b (ef e 4 8 6) = true →
    exec (.poolConfig (i % 1024)) ⟨b, cs⟩ = nextAfter (batPump 64
      (loopEvent (ef e 4 8 6) (modPool (ef e 4 0 6) (fun _ => { poolZero with
        cfgd := true, slot := ef e 4 8 6, ctx := ef e 4 16 8, base := dword e 8, pageLog2 := ef e 5 0 5
        pageTok := ef e 6 0 17, pages := word e 7, cached := min 128 (word e 7)
        initEnd := 8 * nSequences b + (word e 7 + 1) / 2, adm := some i }) (forgetPages (ef e 4 0 6) s)))) cs) ∧
  (∀ (b : Block) (cs : List Instr) (i : Nat) (e : List Byte), admReady b i 0x28 e = true →
    let s := admStarted i b
    poolCheck s e = none → ef e 4 24 1 = 1 →
    exec (.poolConfig (i % 1024)) ⟨b, cs⟩ = nextAfter (admReply i .ok 0xFFFFFFFF (poolResult s e) true
      (modPool (ef e 4 0 6) (fun r => { r with removed := r.cfgd }) (failPool (ef e 4 0 6) s))) cs) ∧
  (∀ (b : Block) (cs : List Instr) (i : Nat) (e : List Byte), admReady b i 0x18 e = true →
    let n := ef e 4 0 5
    n ≠ 0 → n ≤ 27 →
    (∀ j < n, (shareCtxs e).getD j 0 < nContexts b ∧ (shareCtxs e).getD j 0 ∉ (shareCtxs e).take j
      ∧ (ctxOf b ((shareCtxs e).getD j 0)).state = .active) →
    exec (.sharesSet (i % 1024)) ⟨b, cs⟩ = nextAfter (admReply i .ok 0xFFFFFFFF [] true
      ((List.range n).foldl (fun b j =>
        modSchCtx ((shareCtxs e).getD j 0) (fun r => { r with share := ef e (5 + j) 16 16 }) b) (admStarted i b))) cs) ∧
  (∀ (b : Block) (cs : List Instr) (i : Nat) (e : List Byte), admReady b i 0x19 e = true →
    (mosOf b (ef e 4 0 6)).state ≠ .free → (mosOf b (ef e 4 0 6)).state ≠ .releasing →
    bufBad (dword e 6) 16 16 = none →
    exec (.boardLoad (i % 1024)) ⟨b, cs⟩ = nextAfter (modAdm i (fun c => { c with
      stage := 1, got := [], next := 0, out := 0, bad := none }) (admStarted i b)) cs) ∧
  (∀ (b : Block) (cs : List Instr) (i : Nat) (e : List Byte), admReady b i 0x48 e = true →
    let k := ef e 4 0 6
    let s := admStarted i b
    (mosOf b k).state ≠ .free → (mosOf b k).state ≠ .releasing → tget none b.flt.parts k = none →
    exec (.partitionReset (i % 1024)) ⟨b, cs⟩ = nextAfter { s with flt := { s.flt with
      parts := tset none s.flt.parts k (some { step := 1, src := 0, cause := none, adms := [i], lanes := []
                                               ranges := [], out := 0 })
      partResets := satAdd 32 s.flt.partResets 1 } } cs) ∧
  (∀ (b : Block) (cs : List Instr) (i : Nat) (e : List Byte), admReady b i 0x49 e = true →
    (ef e 4 8 1 = 1 → exec (.leaseConfig (i % 1024)) ⟨b, cs⟩ =
      let s := admStarted i b
      nextAfter (admReply i .ok 0xFFFFFFFF [] true
        { s with flt := { s.flt with leaseOff := true, leaseDead := none } }) cs) ∧
    (ef e 4 8 1 = 0 → 20 ≤ ef e 4 0 5 → ef e 4 0 5 ≤ 31 → exec (.leaseConfig (i % 1024)) ⟨b, cs⟩ =
      let s := admStarted i b
      nextAfter (admReply i .ok 0xFFFFFFFF [] true { s with flt := { s.flt with
        leaseOff := false, leaseLog2 := ef e 4 0 5
        leaseDead := some ((b.time.root + b.time.lost) / 192 + 2 ^ ef e 4 0 5) } }) cs))

/-- R331, R338, R346: KEY_IMPORT under a session that may import unwraps the key and sends INSTALL to every memory path;
KEY_REVOKE makes the slot REVOKING and sends SUSPEND; ATTEST begins to read its request. All three are events of PD_SEC
(R387). -/
def Obligations.KeyCommands : Prop :=
  (∀ (b : Block) (cs : List Instr) (i : Nat) (e key : List Byte) (n : Session), admReady b i 0x20 e = true →
    let c := ef e 5 0 8
    let h := ef e 5 16 10
    let s := admStarted i b
    domOn b 4 = true → c < nContexts b → b.sec.idkValid = true →
    b.sec.sessions.find? (fun s => s.id == word e 4 && s.done && s.allSum) = some n → (ctxOf b c).state = .active →
    (keyOf b h).state = .empty → aesUnwrap (importKey n.ems c h (slice e 24 16)) (slice e 40 40) = some key →
    exec (.keyImport (i % 1024)) ⟨b, cs⟩ = nextAfter (wake 4 7 <| ksPump { s with sec := { s.sec with jobs := s.sec.jobs ++
      [{ op := .install, handle := h, args := [leNat key, leNat (slice e 24 16)], insts := List.range (nChannels b)
         issued := false, dead := 0, use := .keyImport i h }] } }) cs) ∧
  (∀ (b : Block) (cs : List Instr) (i : Nat) (e : List Byte), admReady b i 0x21 e = true →
    let h := ef e 4 0 10
    let s := modKey h (fun k => { k with state := .revoking }) (admStarted i b)
    domOn b 4 = true → (keyOf b h).state = .loaded →
    exec (.keyRevoke (i % 1024)) ⟨b, cs⟩ = nextAfter (wake 4 7 <| ksPump { s with sec := { s.sec with
      revokes := s.sec.revokes ++ [{ handle := h, step := 2, adm := i, dead := 0 }]
      jobs := s.sec.jobs ++ [{ op := .suspend, handle := h, args := [], insts := List.range (nChannels b)
                               issued := false, dead := 0, use := .revokeStep h }] } }) cs) ∧
  (∀ (b : Block) (cs : List Instr) (i : Nat) (e : List Byte), admReady b i 0x22 e = true →
    domOn b 4 = true → ef e 5 0 13 ≠ 0 → ef e 5 0 13 ≤ 4096 → (ef e 4 16 1 = 1 → ef e 4 0 8 < nContexts b) →
    bufBad (dword e 6) (ef e 5 0 13) 1 = none → bufBad (dword e 8) 4096 1 = none →
    exec (.attest (i % 1024)) ⟨b, cs⟩ = nextAfter (wake 4 7 (modAdm i (fun c => { c with
      stage := 1, got := [], next := 0, out := 0, bad := none }) (admStarted i b))) cs)

/-- R382, R388, R400, R401: PD_SET to ON of a domain that is ON is answered at once, of one that is not wakes it; to RET or
OFF it is refused with BAD_STATE where R384 refuses, and otherwise the domain begins its entry, which replies as
`DomainsAndDvfs` says; DVFS_SET starts a sequence, or
during an emergency is deferred, without R388's check of order (the model's choice, log entry 25); IMAGE_STAGE begins with the erase of the bank, IMAGE_ACTIVATE with the reading of the
staged bank. -/
def Obligations.PowerCommands : Prop :=
  (∀ (b : Block) (cs : List Instr) (i : Nat) (e : List Byte), admReady b i 0x30 e = true →
    let d := ef e 4 0 4
    let s := admStarted i b
    d ≠ 0 → d < 5 + nSeqrs b / 8 →
    (ef e 4 8 2 = 2 → (domOf b d).st = .on →
      exec (.pdSet (i % 1024)) ⟨b, cs⟩ = nextAfter (admReply i .ok 0xFFFFFFFF [] true s) cs) ∧
    (ef e 4 8 2 = 2 → (domOf b d).st = .off ∨ (domOf b d).st = .ret →
      exec (.pdSet (i % 1024)) ⟨b, cs⟩ = nextAfter (modDom d (fun m => { m with adms := m.adms ++ [i] }) (wake d 1 s)) cs) ∧
    (∀ off : Bool, ef e 4 8 2 = (if off then 0 else 1) → (domOf b d).st = .on → refuser s d off (some i) ≠ 0 →
      exec (.pdSet (i % 1024)) ⟨b, cs⟩
        = nextAfter (admReply i .badState 16 [] true (pdRefuse d (refuser s d off (some i)) s)) cs) ∧
    (∀ off : Bool, ef e 4 8 2 = (if off then 0 else 1) → (domOf b d).st = .on → refuser s d off (some i) = 0 →
      exec (.pdSet (i % 1024)) ⟨b, cs⟩ = nextAfter (modDom d (fun m => { m with
        st := .entering, fromOff := false, idleAt := none, entAt := (b.time.root + b.time.lost) / 192, entOff := off
        entAdm := some i, entStep := 0, latched := none }) s) cs)) ∧
  (∀ (b : Block) (cs : List Instr) (i : Nat) (e : List Byte), admReady b i 0x31 e = true →
    let t := ef e 4 0 3
    let n := ef e 5 0 12
    let v := if n = 0 then oppVolt b t else n
    let s := admStarted i b
    t ≤ 4 → b.fuses.stepMin.toNat ≤ t → b.fuses.vminMv.toNat ≤ v → v ≤ b.fuses.vmaxMv.toNat → oppVolt b t ≤ v →
    (b.pwr.emerg.active = true →
      exec (.dvfsSet (i % 1024)) ⟨b, cs⟩ = nextAfter (admReply i .deferredEmergency 0xFFFFFFFF [] false
        (modDvfs (fun d => { d with
          target := t, tVolt := n, deferred := true, governed := false, defers := d.defers ++ [i] }) s)) cs) ∧
    (b.pwr.emerg.active = false → (t < b.time.divStep → b.pwr.dvfs.wrote ≤ v) → b.pwr.dvfs.running = false →
      exec (.dvfsSet (i % 1024)) ⟨b, cs⟩ = nextAfter (startSeq t v (some i) (modDvfs (fun d => { d with
        target := t, tVolt := n, governed := false, lows := 0, highs := 0 }) s)) cs)) ∧
  (∀ (b : Block) (cs : List Instr) (i : Nat) (e : List Byte), admReady b i 0x38 e = true →
    let s := admStarted i b
    416 ≤ word e 4 → word e 4 ≤ 262496 → actBusy s = false → bufBad (dword e 6) (word e 4) 64 = none →
    exec (.imageStage (i % 1024)) ⟨b, cs⟩ = nextAfter (emit (.flash 1 (bankAddr (stageBank s)) []) (modImg (fun m => { m with
      staged := none
      stage := some { adm := i, len := word e 4, addr := dword e 6, phase := 1, data := [], bad := none } }) s)) cs) ∧
  (∀ (b : Block) (cs : List Instr) (i : Nat) (e : List Byte) (im : Image), admReady b i 0x39 e = true →
    let s := admStarted i b
    ef e 4 0 1 = 0 → b.pwr.img.staged = some im → actBusy s = false → actCheck s im = none →
    b.pwr.emerg.active = false →
    exec (.imageActivate (i % 1024)) ⟨b, cs⟩ = nextAfter (emit (.flash 0 (bankAddr (stageBank s)) []) (modImg (fun m => { m with
      pendingAct := none, actAdm := i, actPhase := 1 }) s)) cs)

/-- R421, R422: IDENTIFY answers its words; DUMP_READ of an aligned stretch begins its copy. -/
def Obligations.ReadCommands : Prop :=
  (∀ (b : Block) (cs : List Instr) (i : Nat) (e : List Byte), admReady b i 0x01 e = true → b.sec.idkValid = true →
    let id := glbId b
    let cap := glbCap b
    exec (.identify (i % 1024)) ⟨b, cs⟩ = nextAfter (admReply i .ok 0xFFFFFFFF
      ([id % 2 ^ 32, id / 2 ^ 32 % 2 ^ 32, glbIfrev b % 2 ^ 32, glbIfrev b / 2 ^ 32 % 2 ^ 32, cap % 2 ^ 32
        , cap / 2 ^ 32 % 2 ^ 32
        , (if b.fab.phase = 8 then 2 ^ 31 else 0) + (if b.pwr.img.recovery then 2 ^ 30 else 0)
            + (if b.fab.phase = 8 then b.fab.node else 0), 0]
        ++ (List.range 12).map (word (sha384 b.sec.pub))
        ++ [b.fab.fru.serial % 2 ^ 32, b.fab.fru.serial / 2 ^ 32 % 2 ^ 32]) true (admStarted i b)) cs) ∧
  (∀ (b : Block) (cs : List Instr) (i : Nat) (e : List Byte), admReady b i 0x41 e = true → b.flt.capDue = none →
    word e 5 % 64 = 0 → word e 6 % 64 = 0 → 64 ≤ word e 6 →
    word e 5 + word e 6 ≤ (if ef e 4 0 1 = 0 then 2 ^ 18 else 2 ^ 14) → bufBad (dword e 8) (word e 6) 64 = none →
    exec (.dumpRead (i % 1024)) ⟨b, cs⟩ = nextAfter (modAdm i (fun c => { c with
      stage := 2, got := [(0, dumpBytes b (ef e 4 0 1) (word e 5) (word e 6))], next := 0, out := 0, bad := none })
        (admStarted i b)) cs)

/-- R400, R402: the flash operations of a staging follow one another, erase, program, read back; at the switch the staged
image's tables take force at once, the SPDM state ends, and every context that is not FREE receives an IMAGE record. FALLBACK
then tells whether the bank is another than the boot record's. That the target voltage set for the old table is cleared is the
model's choice (log entry 25). -/
def Obligations.ImageSteps : Prop :=
  (∀ (b : Block) (cs : List Instr) (s : Stage), running b = true → b.pwr.img.stage = some s →
    (s.phase = 1 → exec (.flashOperationDone .done) ⟨b, cs⟩
      = nextAfter (modAdm s.adm (fun c => { c with stage := 1, got := [], next := 0, out := 0, bad := none })
          (modStage (fun s => { s with phase := 2 }) b)) cs) ∧
    (s.phase = 3 → exec (.flashOperationDone .done) ⟨b, cs⟩
      = nextAfter (emit (.flash 0 (bankAddr (stageBank b)) []) (modStage (fun s => { s with phase := 4 }) b)) cs) ∧
    (s.phase = 1 ∨ s.phase = 3 → exec (.flashOperationDone .failed) ⟨b, cs⟩
      = nextAfter (emit (.flash 1 (bankAddr (stageBank b)) [])
          (modStage (fun s => { s with phase := 5, bad := some .memUncorrected }) b)) cs)) ∧
  (∀ (b : Block) (cs : List Instr) (im : Image), serving b = true → b.pwr.img.actPhase = 2 →
    b.pwr.img.staged = some im → b.pwr.img.recovery = false →
    exec .activationSwitch ⟨b, cs⟩ =
      let b' : Block := { b with pwr := { b.pwr with
        ifrev := 256 * im.major + im.minor, g1 := im.g1, meas := im.meas
        img := { b.pwr.img with
          active := some im, bank := stageBank b, recovery := false, fallback := stageBank b != b.pwr.img.recBank, staged := none
          actPhase := 5 } } }
      let f := foldImage im.meas b'
      nextAfter (modDvfs (fun d => { d with tVolt := 0 })
        { f with sec := { f.sec with sessions := [], nego := 0, spdm := spdmZero } }) cs)

/-! ### Queues and submissions (R43 to R67, R89, R125) -/

/-- R43, R44: an IDLE queue with PENDING set becomes ACTIVE; with HEAD at the captured tail the fetcher arms; the capture
reads TAIL, clears PENDING, and leaves the queue IDLE only if PENDING was 0 and HEAD equals TAIL. -/
def Obligations.IdleHandshake : Prop :=
  ∀ (b : Block) (cs : List Instr) (q : Nat), serving b = true → q < nQueues b →
    let r := queueOf b q
    r.resetting = false →
    (r.state = .idle → r.pending = true → exec (.queueWake q) ⟨b, cs⟩
      = nextAfter (modQueue q (fun r => { r with state := .active, leaseStop := b.hub.leaseExpired }) b) cs) ∧
    (r.state = .active → b.hub.leaseExpired = false → r.armed = false → r.head = r.captured →
      exec (.fetcherArm q) ⟨b, cs⟩ = nextAfter (modQueue q (fun r => { r with armed := true }) b) cs) ∧
    (r.state = .active → b.hub.leaseExpired = false → r.armed = true →
      exec (.fetcherCapture q) ⟨b, cs⟩ = nextAfter (modQueue q (fun r => { r with
        captured := r.tail, pending := false, armed := false
        state := if r.pending = false ∧ r.head = r.tail then .idle else r.state }) b) cs)

/-- R43, R49 to R52: the fetcher takes the entry at HEAD and advances HEAD; a demand read comes before any prefetch read,
and prefetch serves the next queue by class and turn, whose turn passes on once its read is issued; with no read tag free
nothing is read; a response fills its line with its bytes or its failure. Of several queues that need a demand read the one
of the lowest global queue number goes first: the model's choice (log entry 47). -/
def Obligations.FetchAndReads : Prop :=
  (∀ (b : Block) (cs : List Instr) (q : Nat) (e : List Byte), serving b = true → q < nQueues b →
    let r := queueOf b q
    r.state = .active → b.hub.leaseExpired = false → r.resetting = false → r.armed = false → r.head ≠ r.captured →
    let a := r.ringBase + r.head * (if r.gen2 then 64 else 32)
    readRange r.lines .ring 2 a (if r.gen2 then 64 else 32) = .ok e →
    exec (.fetchEntry q) ⟨b, cs⟩ =
      let f := modQueue q (fun r => { r with
        head := (r.head + 1) % 2 ^ r.ringLog2
        subs := r.subs ++ [newSub b.hub.nextSid r.head (.bytes e) (entryOf r.gen2 e)] }) b
      nextAfter (freePassed q .ring (a + (if r.gen2 then 64 else 32))
        { f with hub := { f.hub with nextSid := b.hub.nextSid + 1 } }) cs) ∧
  (∀ (b : Block) (cs : List Instr) (q a : Nat) (it : LineItem), serving b = true → demandUsed b < 64 →
    (b.hub.queues.map (·.1)).findSome? (fun q => (demandOf b (queueOf b q)).map (fun x => (q, x))) = some (q, it, a) →
    exec .prefetchRead ⟨b, cs⟩ = nextAfter ((readLine q it a true b).getD b) cs) ∧
  (∀ (b : Block) (cs : List Instr) (q a : Nat) (it : LineItem), serving b = true →
    (b.hub.queues.map (·.1)).findSome? (fun q => (demandOf b (queueOf b q)).map (fun x => (q, x))) = none →
    (prefetchOrder b).findSome? (fun q => (prefetchOf b (queueOf b q)).map (fun x => (q, x))) = some (q, it, a) →
    exec .prefetchRead ⟨b, cs⟩ = nextAfter (match readLine q it a false b with
      | some r => { r with hub := { r.hub with rr := tset (nContexts r - 1) r.hub.rr (q % 6) (q / 6) } }
      | none => b) cs) ∧
  (∀ (b : Block) (q a : Nat) (it : LineItem), b.flt.stale = false → freeReadTag b = none → readLine q it a true b = none) ∧
  (∀ (b : Block) (cs : List Instr) (id q lo : Nat) (it : LineItem) (st : BitVec 2) (data : List Byte), serving b = true →
    tget none b.hub.reads id = some (.line q it lo) →
    exec (.hostReadResponse id st data) ⟨b, cs⟩ = nextAfter (modQueue q (fun r => { r with
      lines := modFirst (fun l => l.item == it && l.lo == lo && l.data.isNone) (fun l => { l with
        data := some (if st = 0 then .bytes (data.take l.len) else .bad (st.setWidth 3)) }) r.lines })
      { b with hub := { b.hub with reads := tset none b.hub.reads id none } }) cs) ∧
  (∀ (b : Block) (cs : List Instr) (id i : Nat) (c : AdmCmd) (st : BitVec 2) (data : List Byte), serving b = true →
    tget none b.hub.reads id = some (.adm i) → admOf b i = some c → st ≠ 0 → admOpc c.entry ≠ 0x38 →
    exec (.hostReadResponse id st data) ⟨b, cs⟩ = nextAfter
      (admReply i (respStatus (st.setWidth 3)) (admSource c.entry c.data).2.2 [] true
        { b with hub := { b.hub with reads := tset none b.hub.reads id none } }) cs)

/-- R56, R57, R89, R90: an entry check that fails fails its submission with KIND 0 and DETAIL 0xFFFF_FFFF; an entry that
passes takes its SEQNO, and with no patches enters the check pass; a packet that fails a check fails its submission with
KIND 3 and its offset; one that passes advances the pass, which notes a SIGNAL_FLAG. No record of the patch list's second
reading is then still awaited for the packet (R54). A patch record that fails a check fails its submission with KIND 2 and its
index (R53, R56). At the end of interpretation an open section, then an outstanding patch target, fails the submission (R90). A
LAUNCH_TURN that passes has its template checked next; a packet of the template that fails names the offset of the
LAUNCH_TURN. -/
def Obligations.SubmissionChecks : Prop :=
  (∀ (b : Block) (cs : List Instr) (q : Nat) (s : Sub) (e : List Byte), serving b = true → q < nQueues b →
    let r := queueOf b q
    checkableOf r = some s → s.phase = .fetched → s.raw = .bytes e →
    (∀ st, entryCheck r.gen2 r.any r.expected (b.pwr.ifrev / 256) e = some st →
      exec (.submissionCheck q) ⟨b, cs⟩
        = nextAfter (failSub q s.sid { status := st, kind := 0, detail := 0xFFFFFFFF } b) cs) ∧
    (entryCheck r.gen2 r.any r.expected (b.pwr.ifrev / 256) e = none → s.ent.patchCount = 0 →
      exec (.submissionCheck q) ⟨b, cs⟩ = nextAfter
        (modSub q s.sid (fun s => if s.ent.cbLen = 0 then { s with
            phase := .checked, lch := { s.lch with ended := true } }
          else if 256 < s.ent.patchCount then { s with phase := .checking, patchNext := 0, patches := [] }
          else { s with phase := .checking, patchNext := s.ent.patchCount })
          (modQueue q (fun r => { r with any := false, expected := (s.ent.seqno + 1) % 2 ^ 48 }) b)) cs)) ∧
  (∀ (b : Block) (cs : List Instr) (q : Nat) (s : Sub), serving b = true → q < nQueues b →
    let r := queueOf b q
    checkableOf r = some s → s.phase = .checking → s.chk.tpl = none → patchReach b.pwr.g1 r.lines s = none →
    let c := checkOne b (q / 6) r.lines (.buf s.sid) s.ent.cbAddr s.chk.pos s.ent.cbLen s.chk.tags s.chk.sect none
      (applyPatches s.chk.pos s.patches) id
    (∀ st d, c = .fail st d → exec (.checkPass q) ⟨b, cs⟩
      = nextAfter (failSub q s.sid { status := st, kind := 3, detail := d } b) cs) ∧
    (∀ k p, c = .pass k p → badTarget k s.chk.pos s.chk.targets = none → k.opc ≠ .endP →
      (∀ a w x y z, k.body ≠ .launchTurn a w x y z) → s.chk.pos + 32 * (k.len + 1) < s.ent.cbLen →
      exec (.checkPass q) ⟨b, cs⟩ =
        let next := s.chk.pos + 32 * (k.len + 1)
        nextAfter (modSub q s.sid (fun x => { x with chk :=
          { pos := next, tags := if k.opc.isOp then setBit s.chk.tags k.tag else s.chk.tags
            sect := sectAfter k s.chk.pos s.chk.sect, targets := targetsAfter k s.chk.pos s.chk.targets
            roots := rootsAfter b (q / 6) k s.chk.pos s.chk.roots, tpl := none } })
          (keepPassed q (.buf s.sid) (s.ent.cbAddr + next) (noteSignal q s k b))) cs) ∧
    (∀ k p, c = .pass k p → badTarget k s.chk.pos s.chk.targets = none →
      (∀ a w x y z, k.body ≠ .launchTurn a w x y z) → (k.opc = .endP ∨ s.ent.cbLen ≤ s.chk.pos + 32 * (k.len + 1)) →
      let next := s.chk.pos + 32 * (k.len + 1)
      let kept := keepPassed q (.buf s.sid) (s.ent.cbAddr + next) (noteSignal q s k b)
      (∀ o, sectAfter k s.chk.pos s.chk.sect = some o → exec (.checkPass q) ⟨b, cs⟩
        = nextAfter (failSub q s.sid { status := .badState, kind := 3, detail := o } kept) cs) ∧
      (∀ t ts, sectAfter k s.chk.pos s.chk.sect = none → targetsAfter k s.chk.pos s.chk.targets = t :: ts →
        exec (.checkPass q) ⟨b, cs⟩ = nextAfter (failSub q s.sid
          { status := .badParam, kind := 3, detail := (ts.map (·.1)).foldl min t.1 } kept) cs) ∧
      (sectAfter k s.chk.pos s.chk.sect = none → targetsAfter k s.chk.pos s.chk.targets = [] →
        exec (.checkPass q) ⟨b, cs⟩ = nextAfter (modSub q s.sid (fun x => { x with phase := .checked, chk :=
          { pos := next, tags := if k.opc.isOp then setBit s.chk.tags k.tag else s.chk.tags, sect := none, targets := []
            roots := rootsAfter b (q / 6) k s.chk.pos s.chk.roots, tpl := none } }) kept) cs)) ∧
    (∀ k p a tl ta y z, c = .pass k p → badTarget k s.chk.pos s.chk.targets = none → k.body = .launchTurn a tl ta y z →
      exec (.checkPass q) ⟨b, cs⟩ = nextAfter (modSub q s.sid (fun x => { x with
        tpls := s.tpls.filter (·.1 != s.chk.pos) ++ [(s.chk.pos, [])]
        chk := { x.chk with tpl := some { ltOff := s.chk.pos, ltTag := k.tag, addr := ta, len := tl
                                          slot := k.slot.getD (ctxOf b (q / 6)).slot, pos := 0, tags := 0
                                          sect := none } } }) b) cs)) ∧
  (∀ (b : Block) (cs : List Instr) (q : Nat) (s : Sub) (t : TplCheck), serving b = true → q < nQueues b →
    let r := queueOf b q
    checkableOf r = some s → s.phase = .checking → s.chk.tpl = some t →
    let c := checkOne b (q / 6) r.lines (.tpl s.sid t.ltOff) t.addr t.pos t.len t.tags t.sect (some t.slot) id (fun _ => t.ltOff)
    (∀ st d, c = .fail st d → exec (.checkPass q) ⟨b, cs⟩
      = nextAfter (failSub q s.sid { status := st, kind := 3, detail := t.ltOff } b) cs) ∧
    (∀ k p, c = .pass k p → k.opc ≠ .endP → t.pos + 32 * (k.len + 1) < t.len →
      exec (.checkPass q) ⟨b, cs⟩ =
        let next := t.pos + 32 * (k.len + 1)
        nextAfter (freePassed q (.tpl s.sid t.ltOff) (t.addr + next) (modSub q s.sid (fun x => { x with
          tpls := modFirst (·.1 == t.ltOff) (fun e => (e.1, e.2 ++ p)) s.tpls
          chk := { x.chk with tpl := some { t with
            pos := next, tags := if k.opc.isOp then setBit t.tags k.tag else t.tags } } }) b)) cs)) ∧
  (∀ (b : Block) (cs : List Instr) (q : Nat) (s : Sub) (e : List Byte), serving b = true → q < nQueues b →
    let r := queueOf b q
    checkableOf r = some s → subOf b q s.sid = some s → s.phase = .patching → s.patchNext < s.ent.patchCount →
    readRange r.lines (.patch s.sid) 2 (s.ent.patchAddr + 16 * s.patchNext) 16 = .ok e →
    let p := patchOf e
    let wrong := fld (word e 1) 2 30 ≠ 0 ∨ 2 ^ (8 * p.width) ≤ p.value
      ∨ p.offset < (match s.patches.getLast? with | some p => p.offset | none => 0)
    (wrong → exec (.submissionCheck q) ⟨b, cs⟩
      = nextAfter (failSub q s.sid { status := .badParam, kind := 2, detail := s.patchNext } b) cs) ∧
    (¬wrong → p.offset % p.width ≠ 0 → exec (.submissionCheck q) ⟨b, cs⟩
      = nextAfter (failSub q s.sid { status := .badAlign, kind := 2, detail := s.patchNext } b) cs) ∧
    (¬wrong → p.offset % p.width = 0 → s.ent.cbLen < p.offset + p.width → exec (.submissionCheck q) ⟨b, cs⟩
      = nextAfter (failSub q s.sid { status := .badExtent, kind := 2, detail := s.patchNext } b) cs))

/-- R61, R123, R125, R127, R128, R131: the submission that may start takes a wait entry for each of its inline waits while any is
left; with those it needs its flag pages are tested, and then its inline waits evaluated against the flags as they stand. -/
def Obligations.SubmissionStarts : Prop :=
  ∀ (b : Block) (cs : List Instr) (q : Nat) (s : Sub), serving b = true → q < nQueues b →
    let r := queueOf b q
    let c := q / 6
    startable none r.subs = some s → (r.cqTail + 1) % 2 ^ r.cqLog2 ≠ r.cqHead → r.undeliverable = false →
    r.resetting = false → b.hub.leaseExpired = false →
    let take (second : Bool) (b : Block) : Block :=
      if 4096 ≤ waitEntries b then b
      else modSub q s.sid (fun s =>
        if second then (if s.ent.wait1 then { s with wait1 := .entry } else s)
        else if s.ent.wait0 then { s with wait0 := .entry } else s) b
    let held := take true (take false b)
    ∀ t, subOf held q s.sid = some t →
    let e := t.ent
    ((e.wait0 = true ∧ t.wait0 ≠ .entry ∨ e.wait1 = true ∧ t.wait1 ≠ .entry) →
      exec (.submissionStart q) ⟨b, cs⟩ = nextAfter held cs) ∧
    ((e.wait0 = true → t.wait0 = .entry) → (e.wait1 = true → t.wait1 = .entry) →
      (e.wait0 = true ∧ flagAllowed held c e.wait0Flag = false ∨ e.wait1 = true ∧ flagAllowed held c e.wait1Flag = false
        ∨ e.sig = true ∧ flagAllowed held c e.sigFlag = false) →
      exec (.submissionStart q) ⟨b, cs⟩
        = nextAfter (failSub q t.sid { status := .notPermitted, kind := 0, detail := 0xFFFFFFFF } held) cs) ∧
    ((e.wait0 = true → t.wait0 = .entry) → (e.wait1 = true → t.wait1 = .entry) →
      (e.wait0 = true → flagAllowed held c e.wait0Flag = true ∧ flagBad held e.wait0Flag = false) →
      (e.wait1 = true → flagAllowed held c e.wait1Flag = true ∧ flagBad held e.wait1Flag = false) →
      (e.sig = true → flagAllowed held c e.sigFlag = true) →
      exec (.submissionStart q) ⟨b, cs⟩ =
        let w (en : Bool) (cmp flag : Nat) (v : W64) (k : Nat) : InlineWait :=
          if !en then .none else if waitHolds cmp (flagOf held flag) v then .satisfied else .waiting k
        let n := modSub q t.sid (fun s => { s with
          started := true, wait0 := w e.wait0 e.wait0Cmp e.wait0Flag e.wait0Val held.dep.nextRel
          wait1 := w e.wait1 e.wait1Cmp e.wait1Flag e.wait1Val (held.dep.nextRel + 1) }) held
        nextAfter { n with dep := { n.dep with nextRel := held.dep.nextRel + 2 } } cs)

/-- R48, R58 to R65: the next submission in SEQNO order issues its record at the completion ring's tail once its work is
over and the ring has space; one that succeeded without COMPLETE performs its inline signal at its completion, whatever comes
before it, and retires in its turn with no record; a
failed one's record carries its status and is followed by no completion vector, but by the error vector where its failure
halted the queue (log entry 40); the record's OK answer performs the inline signal of a submission that succeeded and retires
the submission, any other halts the queue with COMPL_UNDELIVERABLE; a refused vector sets MSI_ERR and is reported. -/
def Obligations.CompletionRecords : Prop :=
  (∀ (b : Block) (cs : List Instr) (q : Nat) (s : Sub), serving b = true → q < nQueues b →
    let d := signalDone q b
    let r := queueOf d q
    (queueOf b q).undeliverable = false → (queueOf b q).resetting = false → (ctxOf b (q / 6)).state = .active →
    nextRecord r = some s → s.fail = none →
    (s.record = .notNeeded → exec (.completionRecordWrite q) ⟨b, cs⟩ = nextAfter (retire q s.sid d) cs) ∧
    (∀ id b', s.record = .pending → subDone d s = true → (r.cqTail + 1) % 2 ^ r.cqLog2 ≠ r.cqHead →
      hostWrite (.record q s.sid) (r.cqBase + 16 * r.cqTail)
        (leBytes (s.ent.seqno % 2 ^ 32) 4 ++ leBytes (s.ent.seqno / 2 ^ 32 % 2 ^ 16 + (if r.cqPhase then 2 ^ 24 else 0)) 4
          ++ leBytes (r.head + q * 2 ^ 16) 4 ++ leBytes 0xFFFFFFFF 4) (some (ctxOf d (q / 6)).ast) d = some (id, b') →
      exec (.completionRecordWrite q) ⟨b, cs⟩ =
        let t := (r.cqTail + 1) % 2 ^ r.cqLog2
        let w := modSub q s.sid (fun s => { s with record := .issued id }) (modQueue q (fun r => { r with
          cqTail := t, cqPhase := if t = 0 then !r.cqPhase else r.cqPhase }) b')
        nextAfter (if s.ent.irq then msix (complVector q) w else w) cs)) ∧
  (∀ (b b' : Block) (cs : List Instr) (q id : Nat) (s : Sub) (f : Failure), serving b = true → q < nQueues b →
    let d := signalDone q b
    let r := queueOf d q
    (queueOf b q).undeliverable = false → (queueOf b q).resetting = false → (ctxOf b (q / 6)).state = .active →
    nextRecord r = some s → s.fail = some f → subOver d s.sid = true →
    (r.cqTail + 1) % 2 ^ r.cqLog2 ≠ r.cqHead →
    hostWrite (.record q s.sid) (r.cqBase + 16 * r.cqTail)
      (leBytes (s.ent.seqno % 2 ^ 32) 4 ++ leBytes (s.ent.seqno / 2 ^ 32 % 2 ^ 16 + f.status.code * 2 ^ 16
          + (if r.cqPhase then 2 ^ 24 else 0) + f.kind * 2 ^ 25) 4
        ++ leBytes (r.head + q * 2 ^ 16) 4 ++ leBytes (if f.kind = 0 then 0xFFFFFFFF else f.detail) 4)
      (some (ctxOf d (q / 6)).ast) d = some (id, b') →
    exec (.completionRecordWrite q) ⟨b, cs⟩ =
      let t := (r.cqTail + 1) % 2 ^ r.cqLog2
      let w := modSub q s.sid (fun s => { s with record := .issued id }) (modQueue q (fun r => { r with
        cqTail := t, cqPhase := if t = 0 then !r.cqPhase else r.cqPhase }) b')
      nextAfter (if s.halter then msix (4 * (q / 6) + 3) w else w) cs) ∧
  (∀ (b : Block) (q : Nat) (s : Sub),
    (s.record = .pending → s.ent.complete = false → s.fail = none → subDone b s = true →
      signalSub q b s =
        let n := modSub q s.sid (fun s => { s with record := .notNeeded }) b
        if s.ent.sig then signalFlag s.ent.sigOp s.ent.sigFlag s.ent.sigVal n else n) ∧
    (s.record ≠ .pending ∨ s.ent.complete = true ∨ subDone b s = false → signalSub q b s = b)) ∧
  (∀ (b : Block) (cs : List Instr) (id q : Nat) (s : Sub), serving b = true →
    tget none b.hub.writes (id % 512) = some (.record q s.sid) → subOf b q s.sid = some s →
    (queueOf b q).undeliverable = false → (queueOf b q).resetting = false →
    exec (.completionWriteResponse id 0) ⟨b, cs⟩ =
      let n := modQueue q (fun r => { r with lastSeqno := s.ent.seqno }) (modSub q s.sid (fun s => { s with record := .delivered })
        { b with hub := { b.hub with writes := tset none b.hub.writes (id % 512) none } })
      nextAfter (retire q s.sid
        (if s.ent.sig = true ∧ s.fail = none then signalFlag s.ent.sigOp s.ent.sigFlag s.ent.sigVal n else n)) cs) ∧
  (∀ (b : Block) (cs : List Instr) (id q : Nat) (s : Sub) (st : BitVec 2), serving b = true → st ≠ 0 →
    tget none b.hub.writes (id % 512) = some (.record q s.sid) → subOf b q s.sid = some s →
    exec (.completionWriteResponse id st) ⟨b, cs⟩ =
      let n := modQueue q (fun r => { r with undeliverable := true, failSeqno := s.ent.seqno })
        (enterHalt q .complUndeliverable (modSub q s.sid (fun s => { s with record := .undelivered })
          { b with hub := { b.hub with writes := tset none b.hub.writes (id % 512) none } }))
      nextAfter (report (uccReport 0x18 3 q .complUndeliverable 0xFFFFFFFF)
        (if (queueOf b q).state = .halted then msix (4 * (q / 6) + 3) n else n)) cs) ∧
  (∀ (b : Block) (cs : List Instr) (vec : Nat), serving b = true → vec < 4 * nContexts b →
    exec (.msixRefused vec) ⟨b, cs⟩
      = nextAfter (report (ceReport 0x1A)
          (noteCycle (.msiErr (vec / 4)) (modCtx (vec / 4) (fun c => { c with msiErr := true }) b))) cs)

/-! ### Command packets and dependencies (R84 to R143, R336) -/

/-- R84, R86 to R88, R105, R106, R137: the launch pass notes a control packet, folds it and moves past it; a FENCE is
recorded with its scope and section, ATOMIC_BEGIN and ATOMIC_END open and close a section, END ends the pass. -/
def Obligations.ControlPackets : Prop :=
  ∀ (b : Block) (cs : List Instr) (p : PktRef) (s : Sub) (k : Packet) (bs : List Byte), launchReady b p s k bs = true →
    let next := s.lch.pos + 32 * (k.len + 1)
    let at_end := decide (s.ent.cbLen ≤ next)
    let after (l : Launch) : Host.Outcome State Fault Refusal :=
      nextAfter (freePassed p.q (.buf s.sid) (s.ent.cbAddr + next) (modSub p.q s.sid (fun x => { x with lch := l })
        (pushFold (p.q / 6) { kind := 1, ranks := foldRanks b (p.q / 6) k, body := bs, mark := none }
          { b with flt := { b.flt with
            pkts := ([word bs 0, p.q, s.lch.pos, s.ent.seqno % 2 ^ 32] :: b.flt.pkts).take 4096 } }))) cs
    (k.opc = .nop → exec (.nop p) ⟨b, cs⟩ = after { s.lch with pos := next, ended := at_end }) ∧
    (k.opc = .fence → exec (.fence p) ⟨b, cs⟩ = after { s.lch with
      pos := next, ended := at_end
      fences := s.lch.fences ++ [{ off := s.lch.pos, scope := k.scope, sect := s.lch.sect }] }) ∧
    (k.opc = .atomicBegin → exec (.atomicBegin p) ⟨b, cs⟩
      = after { s.lch with pos := next, ended := at_end, sect := some s.lch.pos }) ∧
    (k.opc = .atomicEnd → exec (.atomicEnd p) ⟨b, cs⟩ = after { s.lch with
      pos := next, ended := at_end, sect := none
      sections := s.lch.sections ++ [(s.lch.sect.getD 0, s.lch.pos)] }) ∧
    (k.opc = .endP → exec (.endPkt p) ⟨b, cs⟩ = after { s.lch with pos := next, ended := true })

/-- R91, R92, R147, R149: a released LAUNCH, COPY or FILL with work becomes a job of pieces or chunks; with none it
completes at once; a range past the address space, of a LAUNCH's operand too, fails with XLAT_FAULT. -/
def Obligations.DispatchPackets : Prop :=
  (∀ (b : Block) (cs : List Instr) (p : PktRef) (o : Op) (l : LaunchB), relReady b .launch p o = true →
    o.pkt.body = .launch l → (∃ x ∈ l.ops, 2 ^ 64 < x.1 + x.2) →
    exec (.launch p) ⟨b, cs⟩ = nextAfter (failOp o.oid .xlatFault b) cs) ∧
  (∀ (b : Block) (cs : List Instr) (p : PktRef) (o : Op) (l : LaunchB), relReady b .launch p o = true →
    o.pkt.body = .launch l → (∀ x ∈ l.ops, x.1 + x.2 ≤ 2 ^ 64) →
    let n := bricksOf l
    let r := markReleased o.oid b
    (workOf l = 0 → exec (.launch p) ⟨b, cs⟩ = nextAfter (completeOp o.oid r) cs) ∧
    (workOf l ≠ 0 → 2 ≤ n → (mosOf b o.slot).scratchSlots < tileSlots n →
      exec (.launch p) ⟨b, cs⟩ = nextAfter (failOp o.oid .noResource b) cs) ∧
    (workOf l ≠ 0 → (2 ≤ n → tileSlots n ≤ (mosOf b o.slot).scratchSlots) →
      exec (.launch p) ⟨b, cs⟩ = nextAfter { r with dsp := { r.dsp with jobs := r.dsp.jobs ++
        [{ oid := o.oid, chunks := false, total := l.gridM * l.gridN * (if 2 ≤ n then n else 1), bricks := n
           brickLen := brickLen l.fclass, next := 0, back := [], tiles := [], done := 0, faulted := []
           aborted := false }] } } cs)) ∧
  (∀ (b : Block) (cs : List Instr) (p : PktRef) (o : Op) (len src dst : Nat), relReady b .copy p o = true →
    o.pkt.body = .copy len src dst →
    let r := markReleased o.oid b
    (len = 0 → exec (.copyPkt p) ⟨b, cs⟩ = nextAfter (completeOp o.oid r) cs) ∧
    (len ≠ 0 → 2 ^ 64 < dst + len ∨ 2 ^ 64 < src + len →
      exec (.copyPkt p) ⟨b, cs⟩ = nextAfter (failOp o.oid .xlatFault b) cs) ∧
    (len ≠ 0 → dst + len ≤ 2 ^ 64 → src + len ≤ 2 ^ 64 →
      exec (.copyPkt p) ⟨b, cs⟩ = nextAfter { r with dsp := { r.dsp with jobs := r.dsp.jobs ++
        [{ oid := o.oid, chunks := true, total := (dst + len - 1) / 65536 - dst / 65536 + 1, bricks := 1, brickLen := 0
           next := 0, back := [], tiles := [], done := 0, faulted := [], aborted := false }] } } cs)) ∧
  (∀ (b : Block) (cs : List Instr) (p : PktRef) (o : Op) (w len dst v : Nat), relReady b .fill p o = true →
    o.pkt.body = .fill w len dst v →
    let r := markReleased o.oid b
    (len = 0 → exec (.fillPkt p) ⟨b, cs⟩ = nextAfter (completeOp o.oid r) cs) ∧
    (len ≠ 0 → 2 ^ 64 < dst + len → exec (.fillPkt p) ⟨b, cs⟩ = nextAfter (failOp o.oid .xlatFault b) cs) ∧
    (len ≠ 0 → dst + len ≤ 2 ^ 64 →
      exec (.fillPkt p) ⟨b, cs⟩ = nextAfter { r with dsp := { r.dsp with jobs := r.dsp.jobs ++
        [{ oid := o.oid, chunks := true, total := (dst + len - 1) / 65536 - dst / 65536 + 1, bricks := 1, brickLen := 0
           next := 0, back := [], tiles := [], done := 0, faulted := [], aborted := false }] } } cs))

/-- R104, R109, R127 to R129, R131: the page test comes first; a released wait whose compare holds completes at once and
otherwise joins the wait list; with 4,096 entries in use it is held, before any release-time test (R131). A signal
sets the flag by its operation's code; one of a flag whose word is beyond correction fails with MEM_UNCORRECTED unless it sets
the flag; one to another node is sent as FLAG_SET and awaits its answer (R104, R135). A wait on a memory flag polls it, a
signal of one issues the atomic operation and awaits its answer; a sealed range fails with NOT_PERMITTED. PATCH_FROM_FLAG
writes the flag's low bytes into the interpreter's copy. -/
def Obligations.FlagPackets : Prop :=
  (∀ (b : Block) (cs : List Instr) (p : PktRef) (o : Op) (f c a : Nat) (v : W64), relReady b .waitFlag p o = true →
    o.pkt.body = .waitFlag false f c v a →
    (flagAllowed b o.ctx f = false →
      exec (.waitFlag p) ⟨b, cs⟩ = nextAfter (failOp o.oid .notPermitted b) cs) ∧
    (flagAllowed b o.ctx f = true → flagBad b f = true →
      exec (.waitFlag p) ⟨b, cs⟩ = nextAfter (failOp o.oid .memUncorrected b) cs) ∧
    (flagAllowed b o.ctx f = true → flagBad b f = false → waitHolds c (flagOf b f) v = true →
      exec (.waitFlag p) ⟨b, cs⟩ = nextAfter (completeOp o.oid (markReleased o.oid b)) cs) ∧
    (flagAllowed b o.ctx f = true → flagBad b f = false → waitHolds c (flagOf b f) v = false →
      exec (.waitFlag p) ⟨b, cs⟩ = nextAfter (markReleased o.oid b) cs)) ∧
  (∀ (b : Block) (cs : List Instr) (p : PktRef) (o : Op) (f c a : Nat) (v : W64), serving b = true → p.q < nQueues b →
    releaseOf b .waitFlag p = some o → o.pkt.body = .waitFlag false f c v a → 4096 ≤ waitEntries b →
    exec (.waitFlag p) ⟨b, cs⟩ = nextAfter (modOp o.oid (fun o => { o with stage := .held }) b) cs) ∧
  (∀ (b : Block) (cs : List Instr) (p : PktRef) (o : Op) (f c a : Nat) (v : W64), relReady b .waitFlag p o = true →
    o.pkt.body = .waitFlag true f c v a →
    exec (.waitFlag p) ⟨b, cs⟩
      = nextAfter (pollStart o a (modOp o.oid (fun o => { o with poll := .due }) (markReleased o.oid b))) cs) ∧
  (∀ (b : Block) (cs : List Instr) (p : PktRef) (o : Op) (remote : Bool) (f op node a : Nat) (v : W64),
    relReady b .signalFlag p o = true → o.pkt.body = .signalFlag true remote f op node v a →
    (sealedTouch b o.ctx a 8 = true → exec (.signalFlag p) ⟨b, cs⟩ = nextAfter (failOp o.oid .notPermitted b) cs) ∧
    (∀ b', sealedTouch b o.ctx a 8 = false →
      ddIssue (ddPortOf b o.slot) (.atom o.oid)
        (plainDesc b o.ctx o.slot 6 op none (words64 a ++ [0] ++ words64 v.toNat)) b = some b' →
      exec (.signalFlag p) ⟨b, cs⟩
        = nextAfter (modOp o.oid (fun o => { o with acks := o.acks + 1 }) (markReleased o.oid b')) cs)) ∧
  (∀ (b : Block) (cs : List Instr) (p : PktRef) (o : Op) (f op node a : Nat) (v : W64),
    relReady b .signalFlag p o = true → o.pkt.body = .signalFlag false true f op node v a → node ≠ b.fab.node →
    exec (.signalFlag p) ⟨b, cs⟩ =
      let n := b.dep.nextRelMsg
      let r := markReleased o.oid b
      nextAfter (sendMos 0x30 (leBytes f 2 ++ leBytes op 1 ++ List.replicate 5 0 ++ leBytes v.toNat 8 ++ leBytes n 4) o.slot node
        { r with dep := { r.dep with
          nextRelMsg := (n + 1) % 2 ^ 32
          remote := r.dep.remote ++ [{ node := node, mos := o.slot, rel := n, oid := o.oid }] } }) cs) ∧
  (∀ (b : Block) (cs : List Instr) (p : PktRef) (o : Op) (remote : Bool) (f op node a : Nat) (v : W64),
    relReady b .signalFlag p o = true → o.pkt.body = .signalFlag false remote f op node v a →
    (remote = true → node = b.fab.node) →
    (flagAllowed b o.ctx f = false → exec (.signalFlag p) ⟨b, cs⟩ = nextAfter (failOp o.oid .notPermitted b) cs) ∧
    (flagAllowed b o.ctx f = true → op ≠ 0 → flagBad b f = true →
      exec (.signalFlag p) ⟨b, cs⟩ = nextAfter (failOp o.oid .memUncorrected b) cs)) ∧
  (∀ (b : Block) (cs : List Instr) (p : PktRef) (o : Op) (remote : Bool) (f op node a : Nat) (v : W64),
    relReady b .signalFlag p o = true → o.pkt.body = .signalFlag false remote f op node v a →
    (remote = true → node = b.fab.node) → flagAllowed b o.ctx f = true → (op ≠ 0 → flagBad b f = false) → op ≤ 4 →
    exec (.signalFlag p) ⟨b, cs⟩ =
      let x := flagOf b f
      let y := if op = 0 then v else if op = 1 then x + v else if op = 2 then (if x.toNat < v.toNat then v else x)
        else if op = 3 then x ||| v else x &&& ~~~v
      let b := if op = 0 then { b with flt := { b.flt with badFlags := b.flt.badFlags.filter (· != f) } } else b
      nextAfter (completeOp o.oid (markReleased o.oid (setFlag f y b))) cs) ∧
  (∀ (b : Block) (cs : List Instr) (p : PktRef) (o : Op) (f w off : Nat), relReady b .patchFromFlag p o = true →
    o.pkt.body = .patchFromFlag f w off → flagAllowed b o.ctx f = true → flagBad b f = false →
    (2 ^ (8 * w) ≤ (flagOf b f).toNat →
      exec (.patchFromFlag p) ⟨b, cs⟩ = nextAfter (failOp o.oid .badParam b) cs) ∧
    ((flagOf b f).toNat < 2 ^ (8 * w) →
      exec (.patchFromFlag p) ⟨b, cs⟩ = nextAfter (completeOp o.oid (markReleased o.oid (modSub o.q o.sid (fun s => { s with
        lch := { s.lch with flagWr := s.lch.flagWr ++ [(off, leBytes (flagOf b f).toNat w)] } }) b))) cs))

/-- R130, R133, R139 to R143: after a flag changes its satisfied waits complete, packets and inline waits alike, in ascending
order of queue and of release; a memory wait polls again when its interval
has run, and its answer completes it or starts the next interval; the wait-cycle detector's first pass keeps its candidate
set; the second begins when SETTLE has run after it and takes its own cycles, and once they are past, on the same set with no
awaited flag changed, it declares the set and halts every queue of it. That the signals examined are those of the blocked
queues, and that the second pass starts at SETTLE's end and takes its own cycles, is the model's choice (log entry 31). -/
def Obligations.WaitProgress : Prop :=
  (∀ (b : Block) (cs : List Instr) (f : Nat), serving b = true → f < 65536 → flagBad b f = false →
    exec (.waitComplete f) ⟨b, cs⟩ = nextAfter ((satisfiedWaits b f).foldl (fun b w => match w with
      | .op _ _ oid => completeOp oid b
      | .inl q _ sid second => progress q (modSub q sid (fun s =>
          if second then { s with wait1 := .satisfied } else { s with wait0 := .satisfied }) b)) b) cs) ∧
  (∀ (b : Block) (cs : List Instr) (o : Op) (f c a d : Nat) (v : W64), serving b = true → opOf b o.oid = some o →
    o.pkt.body = .waitFlag true f c v a → o.poll = .interval d → d ≤ hubNow b →
    exec (.mempollIntervalExpiry o.oid) ⟨b, cs⟩ = nextAfter (pollStart o a b) cs) ∧
  (∀ (b : Block) (cs : List Instr) (n tag : Nat) (u : DdUse) (o : Op) (f c a : Nat) (x v : W64), serving b = true →
    n < nSeqrs b → tag < 256 → seqUp b n = true → tget none (seqrOf b n).dd tag = some u → u.owner = .poll o.oid → opOf b o.oid = some o →
    o.stage = .released → o.inst = 0 → o.pkt.body = .waitFlag true f c x a →
    let t := modOp o.oid (fun o => { o with acks := o.acks - 1, poll := .none })
      (modSeqr n (fun s => { s with dd := tset none s.dd tag none }) b)
    (waitHolds c v x = true → exec (.mempollResponse n tag 0 v) ⟨b, cs⟩ = nextAfter (completeOp o.oid t) cs) ∧
    (waitHolds c v x = false → exec (.mempollResponse n tag 0 v) ⟨b, cs⟩
      = nextAfter (modOp o.oid (fun o => { o with poll := .interval (hubNow b + b.dep.interval) }) t) cs)) ∧
  (∀ (b : Block) (cs : List Instr), serving b = true → b.dep.wcdEnable = true → b.dep.first = none →
    candidates b ≠ [] → exec .wcdPass ⟨b, cs⟩ =
      let d := candidates b
      let w : WcdFirst := { d := d, flags := (d.map (fun q => (failWaits b q).map (·.flag))).flatten
                            deadline := hubNow b + (4 * ((usedQueues b).filter (blocked b)).length
                              + (((usedQueues b).filter (blocked b)).map (fun q => (visibleSignals b q).length)).foldl
                                  (· + ·) 0) - 1 + b.dep.wcdSettle
                            changed := false, second := none }
      nextAfter { b with dep := { b.dep with candidate := d, first := some w } } cs) ∧
  (∀ (b : Block) (cs : List Instr) (w : WcdFirst), serving b = true → b.dep.wcdEnable = true → b.dep.first = some w →
    w.changed = false → candidates b = w.d →
    (w.second = none → w.deadline ≤ hubNow b → exec .wcdSettleExpiry ⟨b, cs⟩ = nextAfter { b with dep := { b.dep with
      first := some { w with second := some (hubNow b + wcdCycles b - 1) } } } cs) ∧
    (∀ e, w.second = some e → e < hubNow b → exec .wcdSettleExpiry ⟨b, cs⟩ = nextAfter (w.d.foldl (fun b q =>
        let x := (oldestWait (failWaits b q)).bind (fun w => w.oid.bind (opOf b))
        report (uccReport 0x16 3 q .waitCycle (match x with | some o => packetOff b o | none => 0xFFFFFFFF))
          (wcdHaltQueue q b))
      { b with dep := { b.dep with first := none, candidate := w.d, wcdCount := satAdd 32 b.dep.wcdCount 1 } }) cs))

/-- R96, R241 to R245: LAUNCH_TURN starts its mosaic's loop, at a member with any TURNS, which then joins a turn begun before; SEQ_ADMIT puts a FREE sequence in JOINING with the packet's
fields and writes its directory entry, and fails where the context's token ring is not enabled or the pool FAILED; SEQ_RETIRE sets RETIRE and waits; KV_RESERVE takes the pages or fails with NO_RESOURCE. -/
def Obligations.SequencePackets : Prop :=
  (∀ (b : Block) (cs : List Instr) (p : PktRef) (o : Op) (turns tl ta x y : Nat), relReady b .launchTurn p o = true →
    o.pkt.body = .launchTurn turns tl ta x y → domOn b 2 = true → (loopOf b o.slot).oid = none →
    poolFor b o.slot = true → poolOwner b o.slot = some o.ctx → leads b o.slot = true → turns ≠ 0 →
    exec (.launchTurn p) ⟨b, cs⟩ = nextAfter (wake 2 6 (modLoop o.slot (fun l => { l with
      oid := some o.oid, left := turns, event := true, failed := [] }) (markReleased o.oid b))) cs) ∧
  (∀ (b : Block) (cs : List Instr) (p : PktRef) (o : Op) (turns tl ta x y : Nat), relReady b .launchTurn p o = true →
    o.pkt.body = .launchTurn turns tl ta x y → domOn b 2 = true → (loopOf b o.slot).oid = none →
    poolFor b o.slot = true → leads b o.slot = false →
    exec (.launchTurn p) ⟨b, cs⟩ =
      let r := modLoop o.slot (fun l => { l with
        oid := some o.oid, left := turns, event := true, failed := [] }) (markReleased o.oid b)
      nextAfter (wake 2 6 (if leads r o.slot then r else joinTurn o.slot r)) cs) ∧
  (∀ (b : Block) (cs : List Instr) (p : PktRef) (o : Op) (i pool prio draft pa pl mt : Nat) (stops : List Nat),
    relReady b .seqAdmit p o = true → o.pkt.body = .seqAdmit i pool prio draft stops pa pl mt → domOn b 2 = true →
    leads b o.slot = true → (seqnOf b i).state = .free → pl ≠ 0 → mt ≠ 0 → (ringOf b o.ctx).en = true →
    (poolOf b pool).failed = false →
    exec (.seqAdmit p) ⟨b, cs⟩ =
      let j := (loopOf b o.slot).joinCtr
      let s : Seqn :=
        { state := .joining, retire := false, prio := prio, draft := draft, pool := pool, reason := 0, ctx := o.ctx
          mslot := o.slot, depth := 0, pos := 0, gen := 0, maxTok := mt, promptLen := pl, stops := stops
          promptAddr := pa, pend := 0xFFFFFFFF, pages := 0, resvEnd := 0, mapRoot := 0, order := j, turnT := 0
          lastTurn := 0, dataPg := [], mapPg := [], retOps := [], owes := false }
      nextAfter (wake 2 6 (loopEvent o.slot (batPump 64 (completeOp o.oid (markReleased o.oid
        (modLoop o.slot (fun l => { l with joinCtr := (l.joinCtr + 1) % 2 ^ 32 })
          ((dirWrites s i (poolOf b pool)).foldl (fun b w => batWrite w b) (modSeqn i (fun _ => s) b)))))))) cs) ∧
  (∀ (b : Block) (cs : List Instr) (p : PktRef) (o : Op) (i pool prio draft pa pl mt : Nat) (stops : List Nat),
    relReady b .seqAdmit p o = true → o.pkt.body = .seqAdmit i pool prio draft stops pa pl mt → domOn b 2 = true →
    leads b o.slot = true → (seqnOf b i).state = .free →
    ((ringOf b o.ctx).en = false ∨ (poolOf b pool).failed = true →
      exec (.seqAdmit p) ⟨b, cs⟩ = nextAfter (wake 2 6 (failOp o.oid .badState b)) cs) ∧
    ((ringOf b o.ctx).en = true → (poolOf b pool).failed = false → pl = 0 ∨ mt = 0 →
      exec (.seqAdmit p) ⟨b, cs⟩ = nextAfter (wake 2 6 (completeOp o.oid (markReleased o.oid b))) cs)) ∧
  (∀ (b : Block) (cs : List Instr) (p : PktRef) (o : Op) (i : Nat), relReady b .seqRetire p o = true →
    o.pkt.body = .seqRetire i → domOn b 2 = true → seqTest o i b = none →
    exec (.seqRetire p) ⟨b, cs⟩ = nextAfter (wake 2 6 (loopEvent o.slot
      (modSeqn i (fun s => { s with retire := true, retOps := s.retOps ++ [o.oid] }) (markReleased o.oid b)))) cs) ∧
  (∀ (b : Block) (cs : List Instr) (p : PktRef) (o : Op) (i t : Nat), relReady b .kvReserve p o = true →
    o.pkt.body = .kvReserve i t → domOn b 2 = true → seqTest o i b = none → t ≠ 0 →
    let e := min ((seqnOf b i).pos + t) (2 ^ 40 - 1)
    (takeFor i e b = none → exec (.kvReserve p) ⟨b, cs⟩ = nextAfter (wake 2 6 (failOp o.oid .noResource b)) cs) ∧
    (∀ b', takeFor i e b = some b' → exec (.kvReserve p) ⟨b, cs⟩ = nextAfter (wake 2 6 (loopEvent o.slot (batPump 64
      (completeOp o.oid (markReleased o.oid (modSeqn i (fun s => { s with resvEnd := max s.resvEnd e }) b')))))) cs))

/-- R101, R114, R115, R336, R340, R341: COLLECTIVE begins its run under the mosaic's counter; that one with no element to move is
compared with the messages of its pair is the model's choice (log entry 20). KEY_BIND records the binding
and sends it to every memory path; RNG_SEED replaces the sampling key; TRANSCRIPT_MARK writes the chain value and count; a
fold hashes the record after the chain's value, in a later CLK_HUB cycle than the one in which the record arose (R230). -/
def Obligations.KeyAndTranscriptPackets : Prop :=
  (∀ (b : Block) (cs : List Instr) (p : PktRef) (o : Op) (a : CollArgs), relReady b .collective p o = true →
    collArgs o = some a → (mosOf b o.slot).collCtx = o.ctx →
    (a.kind = 3 ∨ a.kind = 4 → a.root < (mosOf b o.slot).members.length) →
    exec (.collective p) ⟨b, cs⟩ =
      let n := (mosOf b o.slot).coll % 2 ^ 32
      let r := modMos o.slot (fun m => { m with coll := m.coll + 1 }) (markReleased o.oid b)
      let c : Coll := { slot := o.slot, n := n, oid := o.oid, chunk := 0, slots := [], cover := 1, phase := 0, todo := []
                        busy := 0, move := none, out := 0, loaded := false, stored := false }
      nextAfter (if a.count = 0 then collNone c a r else collRun o.oid 64 (collCheck c a { r with fab := { r.fab with colls := r.fab.colls ++ [c] } })) cs) ∧
  (∀ (b : Block) (cs : List Instr) (p : PktRef) (o : Op) (h base len : Nat), relReady b .keyBind p o = true →
    o.pkt.body = .keyBind false h base len → domOn b 4 = true → (keyOf b h).state = .loaded → len ≠ 0 →
    base + len + 16 * (len / 4096) ≤ 2 ^ 64 → bindOverlaps b o.ctx base len = false →
    (b.sec.bindings.filter (·.handle == h)).length < 8 → b.sec.bindings.length < 4096 →
    exec (.keyBind p) ⟨b, cs⟩ =
      let r := markReleased o.oid { b with sec := { b.sec with
        bindings := b.sec.bindings ++ [{ ctx := o.ctx, handle := h, base := base, len := len }] } }
      nextAfter (wake 4 7 <| ksPump { r with sec := { r.sec with jobs := r.sec.jobs ++
        [{ op := .bind, handle := h, args := [base, len], insts := List.range (nChannels b), issued := false, dead := 0
           use := .bindOp o.oid }] } }) cs) ∧
  (∀ (b : Block) (cs : List Instr) (p : PktRef) (o : Op) (key : Nat), relReady b .rngSeed p o = true →
    o.pkt.body = .rngSeed key →
    exec (.rngSeed p) ⟨b, cs⟩ = nextAfter (completeOp o.oid (markReleased o.oid
      { b with sec := { b.sec with skey := tset 0 b.sec.skey o.ctx key } })) cs) ∧
  (∀ (b b' : Block) (cs : List Instr) (p : PktRef) (o : Op) (mark dst n : Nat) (d : List Byte),
    relReady b .transcriptMark p o = true → o.pkt.body = .transcriptMark mark dst →
    b.sec.marks.any (·.1 == o.oid) = true → tget ([], 0) b.sec.marks o.oid = (d, n) →
    sealedTouch b o.ctx dst 64 = false →
    markWrites o (ddPortOf b o.slot) dst
      ((List.range 6).map (fun i => leNat (slice d (8 * i) 8)) ++ [n, mark]) b = some b' →
    exec (.transcriptMark p) ⟨b, cs⟩ = nextAfter (modOp o.oid (fun o => { o with acks := 8 }) (markReleased o.oid
      { b' with sec := { b'.sec with marks := terase b'.sec.marks o.oid } })) cs) ∧
  (∀ (b : Block) (cs : List Instr) (c : Nat) (f : FoldRec) (fs : List FoldRec), serving b = true → c < nContexts b →
    tget [] b.sec.folds c = f :: fs → domOn b 4 = true → f.cyc ≠ hubNow b →
    exec (.fold c) ⟨b, cs⟩ =
      let h := tget chainZero b.sec.chains c
      let d := sha384 (h.d ++ (leBytes (f.body.length % 65536 + f.kind * 2 ^ 24) 4 ++ leBytes f.ranks 4 ++ leBytes h.n 8
        ++ f.body))
      nextAfter { b with sec := { b.sec with
        chains := tset chainZero b.sec.chains c { d := d, n := h.n + 1 }, folds := tset [] b.sec.folds c fs
        marks := match f.mark with
          | some oid => tset ([], 0) b.sec.marks oid (d, h.n + 1)
          | none => b.sec.marks } } cs)

/-! ### Dispatch, passes, tile programs, lanes and DMA ports (R149 to R207) -/

/-- R152, R155, R173, R180 to R182, R165: DSP issues no descriptor during an emergency or while launches are held, and
otherwise the ready pieces first in release order, then the first offered operation that can be placed; the banks swap at
the pass end, when the shadow bank is complete, and the cores follow at once or at the report still to come; a pass starts with everything zero; it ends when both streams have ended with nothing
outstanding; its report names the bank and each lane's status, frees the cores and completes its pieces, a poisoned lane after
the others (R358); 16 jammed cycles fail it. That a failure which every lane shares is told of the lowest active lane is the
model's choice (log entry 41). -/
def Obligations.PassLifetime : Prop :=
  (∀ (b b' : Block) (cs : List Instr), serving b = true → b.pwr.emerg.active = false → b.pwr.dvfs.hold = false →
    ((byRelease (allOffers b)).findSome? (fun o => placeReady o b) = some b' →
      exec .descriptorIssue ⟨b, cs⟩ = nextAfter b' cs) ∧
    ((byRelease (allOffers b)).findSome? (fun o => placeReady o b) = none →
      (allOffers b).findSome? (fun o => placeNext o b) = some b' → exec .descriptorIssue ⟨b, cs⟩ = nextAfter b' cs)) ∧
  (∀ (b : Block) (cs : List Instr), serving b = true → b.pwr.emerg.active = true ∨ b.pwr.dvfs.hold = true →
    exec .descriptorIssue ⟨b, cs⟩ = nextAfter b cs) ∧
  (∀ (b : Block) (cs : List Instr) (n : Nat) (k : Bank), serving b = true → n < nSeqrs b →
    (seqrOf b n).active = none ∨ (∃ p, (seqrOf b n).pass = some p ∧ p.ended = true) →
    (seqrOf b n).shadow = some k → bankRuns (seqrOf b n) k = true →
    exec (.bankTransferComplete n) ⟨b, cs⟩ =
      let r := modSeqr n (fun s => { s with shadow := s.shadow.map (fun k => { k with ready := true }) }) b
      let t := modSeqr n (fun s => dropStale { s with active := some { k with ready := true }, shadow := none, pass := none }) r
      nextAfter (if (seqrOf b n).reports.isEmpty then
          k.lanes.foldl (fun b l => modCore (8 * n + l.1) (fun c => { c with active := c.next, next := none }) b) t
        else t) cs) ∧
  (∀ (b : Block) (cs : List Instr) (n : Nat) (k : Bank), serving b = true → n < nSeqrs b →
    (seqrOf b n).active = some k → (seqrOf b n).pass = none → (seqrOf b n).shadow = none →
    exec (.passStart n) ⟨b, cs⟩ =
      let st : Stream := { pc := 0, ended := false, s := [], c := [], levels := [], lastIss := b.time.seq, ready := none }
      let p : Pass := { kind := passKind k, acc := st, exe := st, a := [], inc := [], shapes := []
                        ts := { valid := false, tm := 0, tn := 0, tk := 0, xq := 0, xen := false, imms := 0
                                immen := false }
                        qs := [], sq := [], dw := [], dr := [], ct := [], lds := [], rem := none, nextEid := 0
                        cstep := [], jam := 0, fail := none, abort := false, ended := false, laneSt := [] }
      nextAfter (modSeqr n (fun s => { s with
        pass := some p, progs := s.progs.map (fun g =>
          if bankProg k g then { g with lastUse := b.time.root + 1 } else g) }) b) cs) ∧
  (∀ (b : Block) (cs : List Instr) (n : Nat) (k : Bank) (p : Pass), serving b = true → n < nSeqrs b →
    (seqrOf b n).active = some k → (seqrOf b n).pass = some p → p.ended = false → p.fail = none → p.abort = false →
    p.kind = .program → p.acc.ended = true → p.exe.ended = true → p.rem = none → passTags (seqrOf b n) = 0 →
    lanesDone (seqrOf b n) k = true →
    exec (.passEnd n) ⟨b, cs⟩
      = nextAfter (if queueLeft k p then passFail n .badState false (lowLane k) p.acc.pc b else modSeqr n (fun s => { s with
          pass := some { p with ended := true }
          reports := s.reports ++ [{ bank := k, lanes := p.laneSt, fail := none, abort := false }]
          passes := satAdd 32 s.passes 1
          dd := tmap none s.dd (fun _ u => u.map (fun u =>
            if u.owner.ofPass then { u with owner := .orphan k.oid } else u)) }) b) cs) ∧
  (∀ (b : Block) (cs : List Instr) (n : Nat) (r : PassReport) (p : Pass), serving b = true → n < nSeqrs b →
    (seqrOf b n).reports = [r] → (seqrOf b n).pass = some p → p.ended = true → r.fail = none →
    r.abort = false → r.bank.chunk = none →
    exec (.passEndReport n) ⟨b, cs⟩ =
      let t := modSeqr n (fun s => dropStale { s with active := none, pass := none, reports := [] }) b
      let t := (List.range 8).foldl (fun b l => modCore (8 * n + l) (fun c => { c with active := none }) b) t
      let lanes := r.bank.lanes.filter (fun x => tget 0 r.lanes x.1 != 2) ++ r.bank.lanes.filter (fun x => tget 0 r.lanes x.1 == 2)
      nextAfter (leaveCores (fun c => c / 8 == n) (dropAborted r.bank.oid
        (lanes.foldl (fun b x => laneResult n r.bank.q r.lanes x b) (progress r.bank.q t)))) cs) ∧
  (∀ (b : Block) (cs : List Instr) (n : Nat) (v : View), serving b = true → n < nSeqrs b → viewOf b n = some v →
    16 ≤ v.pass.jam → jammed b v = true →
    exec (.streamJamExpiry n) ⟨b, cs⟩ = nextAfter (passFail n .badState v.pass.acc.ended (lowLane v.bank)
      (if v.pass.acc.ended then v.pass.exe.pc else v.pass.acc.pc) b) cs)

/-- R177 to R179, R199: a combine pass takes each lane's next step; a chunk pass issues its one descriptor and is charged to
its slot; the fetch of a program whose blocks fit begins with an empty entry and its first reads. -/
def Obligations.FixedPasses : Prop :=
  (∀ (b : Block) (cs : List Instr) (n : Nat) (k : Bank) (p : Pass), serving b = true → n < nSeqrs b →
    (seqrOf b n).active = some k → (seqrOf b n).pass = some p → p.kind = .combine → p.fail = none → p.abort = false →
    p.ended = false →
    exec (.combinePass n) ⟨b, cs⟩ = nextAfter (k.lanes.foldl (fun b x => combLane n k x b) b) cs) ∧
  (∀ (b b' : Block) (cs : List Instr) (n i off len kind kdata : Nat) (k : Bank) (p : Pass) (o : Op) (body : List Nat)
      (rs : List (Nat × Nat)), serving b = true → n < nSeqrs b →
    (seqrOf b n).active = some k → (seqrOf b n).pass = some p → p.kind = .chunk → p.fail = none → p.abort = false →
    p.ended = false → tget 0 p.cstep 0 = 0 → k.chunk = some (i, off, len) → opOf b k.oid = some o →
    chunkBody o off len = some (kind, kdata, body, rs) → (∀ r ∈ rs, sealedTouch b k.ctx r.1 r.2 = false) →
    bwOpen b k.slot = true →
    ddIssue n (.chunk k.oid) (passDesc b k kind 0 kdata none false body) b = some b' →
    exec (.chunkPass n) ⟨b, cs⟩
      = nextAfter (modPass n (fun p => { p with cstep := tset 0 p.cstep 0 1 }) (bwTake k.slot len b')) cs) ∧
  (∀ (b : Block) (cs : List Instr) (n : Nat) (k : Bank) (s : Seqr), serving b = true → n < nSeqrs b →
    (seqrOf b n).shadow = some k → k.role ≠ .combine → k.chunk = none → (seqrOf b n).progs.any (bankProg k) = false →
    makeRoom (ceilDiv k.launch.progLen 4096) ((seqrOf b n).progs.length + 1) (seqrOf b n) = some s →
    exec (.programFetch n) ⟨b, cs⟩ = nextAfter (fetchOutcome n (pfetches n k 16 (modSeqr n (fun _ => { s with
      shadow := some { k with gen := none }
      progs := s.progs ++ [{ ctx := k.ctx, addr := k.launch.progAddr, len := k.launch.progLen, chunks := []
                             nextOff := 0, out := 0, resident := false, stale := false
                             lastUse := b.time.root + 1, gen := (seqrOf b n).nextFetch }]
      nextFetch := (seqrOf b n).nextFetch + 1 }) b))) cs)

/-- R180, R181, R184, R186 to R191: what the scalar and control instructions of the streams do to the pass, lane by lane,
each going on with the next instruction but ENDL, which takes no issue cycle. A pass value that R180's table does not give
is a free value (log entry 6). -/
def Obligations.ScalarInstructions : Prop :=
  ∀ (b : Block) (cs : List Instr) (n : Nat) (st : StreamSel) (v : View) (w : Nat),
    let x := StreamSel.exe st
    instrReady b n x v w = true →
    let s := streamOf v.pass x
    let ls := lanesOf v.bank
    let put (vs : List (Nat × W64)) (b : Block) : Block :=
      nextPc n x (modPass n (if fld w 52 2 = 1 then setA (fld w 54 4) vs else setS x (fld w 54 4) vs) b)
    (majorOf w = 0x01 → bitOf w 54 = false → fld w 0 24 ≠ 0 → openCount s * fld w 0 24 ≤ 2 ^ 48 →
      exec (.loopI n st) ⟨b, cs⟩ = nextAfter (nextPc n x (modPass n (modStream x (fun r => { r with
        c := tset 0 r.c (fld w 55 3) 0
        levels := r.levels ++ [{ total := fld w 0 24, saved := if x then [] else v.pass.a, back := s.pc + 1 }] })) b)) cs) ∧
    (∀ lv, majorOf w = 0x02 → s.levels.getLast? = some lv →
      let d := fld w 55 3
      let c := tget 0 s.c d + 1
      (c < lv.total → exec (.endl n st) ⟨b, cs⟩ = nextAfter (modPass n (fun p => modStream x (fun r => { r with
        c := tset 0 r.c d c, pc := lv.back, ready := none }) (if x then p else addIncs v.bank d p)) b) cs) ∧
      (lv.total ≤ c → exec (.endl n st) ⟨b, cs⟩ = nextAfter (modPass n (fun p => modStream x (fun r => { r with
        c := tset 0 r.c d c, levels := r.levels.dropLast, pc := r.pc + 1, ready := none })
          (if x then p else { p with a := lv.saved })) b) cs)) ∧
    (majorOf w = 0x04 → exec (.sMov n st) ⟨b, cs⟩ = nextAfter (put (ls.map (fun l => (l, sext w 48))) b) cs) ∧
    (majorOf w = 0x05 → exec (.sAlu n st) ⟨b, cs⟩ = nextAfter (put (ls.map (fun l => (l, saluFn (fld w 36 4)
      (srcVal v.pass x l (fld w 46 2) (fld w 48 4) (sext w 32))
      (srcVal v.pass x l (fld w 40 2) (fld w 42 4) (sext w 32))))) b) cs) ∧
    (majorOf w = 0x06 → rdpAbsent v.bank (fld w 43 9) = false → exec (.rdp n st) ⟨b, cs⟩
      = nextAfter (useFree (put (ls.map (fun l => (l, match passValue v.bank l (fld w 43 9) with
        | some y => BitVec.ofNat 64 y
        | none => freeVal 64 b))) b)) cs) ∧
    (majorOf w = 0x07 → exec (.drop n st) ⟨b, cs⟩
      = nextAfter (nextPc n x (modPass n (popQ (fld w 54 4)) b)) cs) ∧
    (majorOf w = 0x3E → exec (.streamNop n st) ⟨b, cs⟩ = nextAfter (nextPc n x b) cs) ∧
    (majorOf w = 0x3F → exec (.streamEnd n st) ⟨b, cs⟩
      = nextAfter (nextPc n x (modPass n (modStream x (fun r => { r with ended := true })) b)) cs)

/-- R184, R188 to R191: the register and queue instructions of one stream alone. -/
def Obligations.QueueAndShapeInstructions : Prop :=
  (∀ (b : Block) (cs : List Instr) (n : Nat) (v : View) (w : Nat), instrReady b n false v w = true →
    let s := v.pass.acc
    let ls := lanesOf v.bank
    (majorOf w = 0x03 → bitOf w 50 = false → exec (.aInc n) ⟨b, cs⟩ = nextAfter (nextPc n false (modPass n (fun p => { p with
      inc := tset 0 p.inc (16 * fld w 55 3 + fld w 51 4) (sext w 40) }) b)) cs) ∧
    (majorOf w = 0x0A → (∀ l ∈ ls, sReg s l (fld w 12 4) = sReg s (lowLane v.bank) (fld w 12 4)) →
      exec (.shape n) ⟨b, cs⟩ = nextAfter (nextPc n false (modPass n (fun p => { p with
        shapes := tset { rowBytes := 0, rows := 0, stride := 0 } p.shapes (fld w 56 2)
          { rowBytes := fld w 32 24, rows := fld w 16 16
            stride := (sReg s (lowLane v.bank) (fld w 12 4)).toNat % 2 ^ 32 } }) b)) cs) ∧
    (majorOf w = 0x0B → exec (.alloc n) ⟨b, cs⟩ =
      let r := fld w 44 6 + tget 0 s.c (fld w 28 3) % (fld w 31 3 + 1)
      nextAfter (nextPc n false (modPass n (pushQ (fld w 50 4) (r * 2 ^ 10 + fld w 34 10) 255 255 0) b)) cs) ∧
    (majorOf w = 0x0F → exec (.pushs n) ⟨b, cs⟩ = nextAfter (nextPc n false (modPass n (fun p => { p with
      sq := ls.foldl (fun t l => tmod [] t l (· ++ [sReg s l (fld w 54 4)])) p.sq }) b)) cs)) ∧
  (∀ (b : Block) (cs : List Instr) (n : Nat) (v : View) (w : Nat), instrReady b n true v w = true →
    let ls := lanesOf v.bank
    (majorOf w = 0x11 → exec (.tshape n) ⟨b, cs⟩ = nextAfter (nextPc n true (modPass n (fun p => { p with
      ts := { valid := true, tm := fld w 49 9, tn := fld w 40 9, tk := fld w 26 14, xq := fld w 22 4
              xen := bitOf w 21, imms := fld w 17 4, immen := bitOf w 16 } }) b)) cs) ∧
    (majorOf w = 0x13 → exec (.pops n) ⟨b, cs⟩ = nextAfter (nextPc n true (modPass n (fun p =>
      let r := setS true (fld w 54 4) (ls.map (fun l => (l, (tget [] v.pass.sq l).headD 0))) p
      { r with sq := ls.foldl (fun t l => tmod [] t l (·.drop 1)) r.sq }) b)) cs))

/-- R189, R190, R192 to R197, R222: LOAD pushes its handle and STORE, SST pop theirs, and each lane's descriptor follows its
checks; TOP and SAMPLE pop their operands and issue one operation to every active lane. -/
def Obligations.TransferInstructions : Prop :=
  (∀ (b : Block) (cs : List Instr) (n : Nat) (v : View) (w : Nat), instrReady b n false v w = true →
    v.pass.rem = none →
    let ls := lanesOf v.bank
    let q := fld w 50 4
    (majorOf w = 0x08 → exec (.load n) ⟨b, cs⟩ =
      let h := (fld w 44 6 + tget 0 v.pass.acc.c (fld w 28 3) % (fld w 31 3 + 1)) * 2 ^ 10 + fld w 34 10
      let bcast := bitOf w 24
      let ts := if bcast then ls.take 1 else ls
      nextAfter (issueLanes n v (fun b l => moveLane b v w true h v.pass.nextEid
        (if bcast then laneMask v.bank else 2 ^ l) l) ts
          (beginLanes n h v.pass.nextEid ts (modPass n (pushQ q h 0 0 ts.length) b))) cs) ∧
    (∀ e es, majorOf w = 0x09 → queueQ v.pass q = e :: es → exec (.store n) ⟨b, cs⟩
      = nextAfter (issueLanes n v (fun b l => moveLane b v w false e.handle 0 (2 ^ l) l) ls
          (beginLanes n e.handle 0 ls (modPass n (popQ q) b))) cs) ∧
    (majorOf w = 0x0C → exec (.sld n) ⟨b, cs⟩ =
      let h := fld w 44 6 * 2 ^ 10 + fld w 34 10
      nextAfter (issueLanes n v (fun b l => slotLane b v true h v.pass.nextEid l) ls
        (beginLanes n h v.pass.nextEid ls (modPass n (pushQ q h 0 0 ls.length) b))) cs) ∧
    (∀ e es, majorOf w = 0x0D → queueQ v.pass q = e :: es → exec (.sst n) ⟨b, cs⟩
      = nextAfter (issueLanes n v (fun b l => slotLane b v false e.handle 0 l) ls
          (beginLanes n e.handle 0 ls (modPass n (popQ q) b))) cs) ∧
    (majorOf w = 0x0E → exec (.lds n) ⟨b, cs⟩
      = nextAfter (issueLanes n v (fun b l => ldsLane b v w l) ls (beginLanes n 0 0 ls b)) cs)) ∧
  (∀ (b : Block) (cs : List Instr) (n : Nat) (v : View) (w : Nat) (es : List QEntry) (p : Pass),
    instrReady b n true v w = true → majorOf w = 0x10 →
    let t := topOf w
    let s := v.pass.ts
    let h := topHandles t s es
    let d := topDest t h
    popAll v.bank (topPops t s) v.pass = .ok (es, p) → topCheck v t h = none → t.hint = 0 →
    exec (.top n) ⟨b, cs⟩ =
      let pushed := if t.ed then d else none
      let la (x : Option Nat) : Option Nat := x.map (laOf v.prog)
      nextAfter (nextPc n true (issueOps n (fun l =>
        { data := opData t.topc t.fmtA t.fmtB t.fmtD (la h.a) (la h.b) (la h.c) (la d) (la h.x) s t.opn t.cls 0 0
            (if s.immen then sReg v.pass.exe l s.imms else 0)
          regions := regionsOf (h.a.toList ++ h.b.toList ++ h.c.toList ++ d.toList ++ h.x.toList)
          out := pushed.map (fun _ => (t.qd, p.nextEid)) }) (lanesOf v.bank)
        (modPass n (fun _ => match pushed with
          | some d => pushQ t.qd d 255 0 0 p
          | none => p) b))) cs) ∧
  (∀ (b : Block) (cs : List Instr) (n : Nat) (v : View) (w : Nat) (e : QEntry) (p : Pass),
    instrReady b n true v w = true → majorOf w = 0x12 →
    let s := v.pass.ts
    let q (l : Nat) : Nat := (sReg v.pass.exe l (fld w 54 4)).toNat
    let pos (l : Nat) : Nat := (sReg v.pass.exe l (fld w 50 4)).toNat
    s.valid = true → s.tm = 1 → s.tk ≠ 0 → s.xen = false → fld w 0 10 = 0 →
    popAll v.bank [fld w 46 4] v.pass = .ok ([e], p) → (∀ l ∈ lanesOf v.bank, q l < 2 ^ 17 ∧ pos l < 2 ^ 40) →
    exec (.sample n) ⟨b, cs⟩ = nextAfter (nextPc n true (issueOps n (fun l =>
      { data := opData 0x07 (fld w 41 5) 0 0 (some (laOf v.prog e.handle)) none none none none s false false
          (fld (q l) 14 3) (fld (q l) 0 14) (genValue (turnKey b v.bank) (fld (q l) 0 14) (fld (q l) 14 3) (pos l))
        regions := regionsOf [e.handle]
        out := none }) (lanesOf v.bank) (modPass n (fun _ => p) b))) cs)

/-- R163, R164, R166 to R168, R203, R204: a core takes the head of its lane's buffer under the next identifier and answers
in order, a stray answer being counted; the abort handshake falls on its acknowledgement or marks the core failed at its
bound; a token goes to the turn; descriptor answers and data beats go to what their tag names. In a domain that is not ON
every input of these ports is ignored. -/
def Obligations.LanesAndPorts : Prop :=
  (∀ (b : Block) (cs : List Instr) (n l : Nat) (o : LaneOp) (os : List LaneOp), serving b = true → n < nSeqrs b → l < 8 →
    let x := laneOf (seqrOf b n) l
    x.buf = o :: os → x.abReq = false → x.out.length < 64 →
    exec (.laneOpTransfer n l) ⟨b, cs⟩ =
      let id := x.nextId % 256
      nextAfter (emit (.laneOp n l (o.data ||| BitVec.ofNat 256 id)) (modLane n l (fun x => { x with
        buf := os, nextId := (id + 1) % 256, out := x.out ++ [(id, o)] }) b)) cs) ∧
  (∀ (b : Block) (cs : List Instr) (n l : Nat) (id : BitVec 8) (o : LaneOp) (os : List (Nat × LaneOp)), serving b = true →
    n < nSeqrs b → l < 8 → seqUp b n = true → (laneOf (seqrOf b n) l).out = (id.toNat, o) :: os →
    (∀ st : BitVec 3, st.toNat < 4 →
      exec (.laneCompletion n l id st) ⟨b, cs⟩ = nextAfter (modPass n (fun p => if p.ended then p else opDone l o st.toNat p)
        (modCore (8 * n + l) (fun c => { c with lastStatus := st.toNat }) (modLane n l (fun x => { x with out := os }) b))) cs)) ∧
  (∀ (b : Block) (cs : List Instr) (n l : Nat) (id : BitVec 8) (st : BitVec 3), serving b = true → n < nSeqrs b → l < 8 →
    seqUp b n = true → (laneOf (seqrOf b n) l).out = [] →
    exec (.laneCompletion n l id st) ⟨b, cs⟩ = nextAfter (report (ceReport 0x12)
      { b with dsp := { b.dsp with laneStray := satAdd 32 b.dsp.laneStray 1 } }) cs) ∧
  (∀ (b : Block) (cs : List Instr) (n l : Nat), serving b = true → n < nSeqrs b → l < 8 →
    seqUp b n = true → (laneOf (seqrOf b n) l).abReq = true →
    exec (.laneAbortAck n l) ⟨b, cs⟩ =
      let r := partLaneDone n l (emit (.laneAbort n l false) (modLane n l (fun x => { x with
        buf := [], out := [], abReq := false, abDead := none, expired := false, reraise := false }) b))
      nextAfter (if (laneOf (seqrOf b n) l).reraise then abortLane n l r else r) cs) ∧
  (∀ (b : Block) (cs : List Instr) (n l d : Nat), serving b = true → n < nSeqrs b → l < 8 →
    (laneOf (seqrOf b n) l).abReq = true → (laneOf (seqrOf b n) l).expired = false →
    (laneOf (seqrOf b n) l).abDead = some d → d < hubNow b →
    exec (.abortBoundExpiry n l) ⟨b, cs⟩ =
      let r := partLaneDone n l (noteCycle (.coreFailed (8 * n + l)) <| modCore (8 * n + l) (fun c => { c with failed := true })
        (modLane n l (fun x => { x with expired := true, abDead := none }) b))
      nextAfter (match slotOfCore r (8 * n + l) with
        | none => report (uccReport 0x14 5 0 .stateLost 0) r
        | some k =>
          let t := report (uccReport 0x14 5 k .stateLost 0) r
          if resetting r k then t else startPart k 0x14 ((seqrOf b n).active.map (·.q)) none t) cs) ∧
  (∀ (b : Block) (cs : List Instr) (n l : Nat) (seq : BitVec 14) (draft : BitVec 3) (tok : Word) (k : Bank) (p : Pass),
    serving b = true → n < nSeqrs b → l < 8 → seqUp b n = true → (seqrOf b n).active = some k →
    (seqrOf b n).pass = some p → k.turn ≠ 0 →
    k.lanes.any (·.1 == l) = true → p.ended = false →
    exec (.laneToken n l seq draft tok) ⟨b, cs⟩
      = nextAfter (batToken k.slot k.turn seq.toNat draft.toNat tok.toNat b) cs) ∧
  (∀ (b : Block) (cs : List Instr) (n tag : Nat) (u : DdUse), serving b = true → n < nSeqrs b → tag < 256 →
    seqUp b n = true → tget none (seqrOf b n).dd tag = some u → u.owner.ofPass = true →
    (∀ k, (seqrOf b n).active = some k → k.turn = 0) →
    exec (.ddCompletion n tag 0) ⟨b, cs⟩ = nextAfter (modPass n (fun p => if p.ended then p else ddPass u true p)
      (modSeqr n (fun s => { s with dd := tset none s.dd tag none }) b)) cs) ∧
  (∀ (b : Block) (cs : List Instr) (n tag : Nat) (u : DdUse) (d : Beat), serving b = true → n < nSeqrs b → tag < 256 →
    seqUp b n = true → tget none (seqrOf b n).dd tag = some u →
    exec (.ddReadBeat n tag d) ⟨b, cs⟩ = nextAfter (modSeqr n (fun s => { s with
      dd := tset none s.dd tag (some { u with data := u.data ++ leBytes d.toNat 32 }) }) b) cs) ∧
  (∀ (b : Block) (cs : List Instr) (n ast : Nat), serving b = true → n < nSeqrs b → seqUp b n = true → (seqrOf b n).dfReq = some ast →
    exec (.ddDrainAck n) ⟨b, cs⟩ = nextAfter (emit (.ddFence n false ast)
      (modSeqr n (fun s => { s with dfReq := none }) { b with sec := { b.sec with tdDd := clrBit b.sec.tdDd n } })) cs) ∧
  (∀ (b : Block) (cs : List Instr) (n l tag : Nat) (id : BitVec 8) (st : BitVec 3) (seq : BitVec 14) (draft : BitVec 3)
      (tok : Word) (d : Beat), serving b = true → n < nSeqrs b → l < 8 → tag < 256 → seqUp b n = false →
    exec (.laneCompletion n l id st) ⟨b, cs⟩ = nextAfter b cs ∧
    exec (.laneAbortAck n l) ⟨b, cs⟩ = nextAfter b cs ∧
    exec (.laneToken n l seq draft tok) ⟨b, cs⟩ = nextAfter b cs ∧
    exec (.ddCompletion n tag st) ⟨b, cs⟩ = nextAfter b cs ∧
    exec (.ddReadBeat n tag d) ⟨b, cs⟩ = nextAfter b cs ∧
    exec (.ddDrainAck n) ⟨b, cs⟩ = nextAfter b cs)

/-! ### Batching and scheduling (R244 to R261, R311 to R326) -/

/-- R244, R246, R248, R249, R254, R256, R257, R261: the leader forms a turn when its loop has something new and none is in
flight; another chip sends TURN_ARRIVE when its instantiation and its children are done and starts the barrier timer; the
leader commits when everything is in, and N advances; the barrier's expiry aborts the turn as a lost chip; a token
record's failed write stops the context's ring. Formation first lets a retired sequence leave, then serves the continuing
sequences, then those parked before, and joins only while none stays parked; each takes its t positions if the ring has room
for their records and the pool the pages, at the cost of the budget, and otherwise sits out, is parked or waits, as its step
says. -/
def Obligations.TurnCommands : Prop :=
  (∀ (b : Block) (cs : List Instr) (k : Nat), serving b = true → k < 64 → leads b k = true →
    (loopOf b k).oid.isSome = true → (loopOf b k).turn = none → (loopOf b k).event = true → (mosOf b k).held = false →
    domOn b 2 = true →
    exec (.turnFormation k) ⟨b, cs⟩ =
      let r := modLoop k (fun l => { l with event := false, leaseHeld := false }) b
      nextAfter (pumpRings (ringVectors b (formed k (formTurn k r)))) cs) ∧
  (∀ (b : Block) (cs : List Instr) (k : Nat) (t : Turn), serving b = true → k < 64 → leads b k = false →
    (loopOf b k).turn = some t → t.arriveSent = false → instComplete b t.inst = true →
    (∀ c ∈ childNodes b k, c ∈ t.arrived) →
    exec (.arriveSend k) ⟨b, cs⟩ =
      let f := flushTokens k b
      let m := sendMos 0x29 (leBytes t.num 8 ++ leBytes (t.fwdOwn + t.subToks) 4) k (parentNode f k) f
      nextAfter (modLoop k (fun l => { l with
        dead := some (hubNow m + m.bat.timeout)
        turn := l.turn.map (fun t => { t with arriveSent := true, instDone := true }) }) m) cs) ∧
  (∀ (b : Block) (cs : List Instr) (k : Nat) (t : Turn), serving b = true → k < 64 → leads b k = true →
    (loopOf b k).turn = some t → t.published = true → (t.instDone = true ∨ instComplete b t.inst = true) →
    (∀ c ∈ childNodes b k, c ∈ t.arrived) → t.subToks ≤ t.fwdGot →
    exec (.commit k) ⟨b, cs⟩ =
      let c := commitRows t.num t.rows [] b
      let r := c.1.foldl (fun b e =>
        pushFold e.1 { kind := 3, ranks := ranksOf b k, body := e.2, mark := none } b) c.2
      let r := match (loopOf r k).oid.bind (opOf r) with | some o => progress o.q r | none => r
      let r := modLoop k (fun l => { l with
        n := (l.n + 1) % 2 ^ 64, turn := none, dead := none, event := true
        left := if l.left = 0xFFFFFFFF then l.left else l.left - 1 }) r
      nextAfter (pruneInsts (pumpRings (ringVectors b (if t.final then finishLoop k r else r)))) cs) ∧
  (∀ (b : Block) (cs : List Instr) (k d : Nat) (t : Turn), serving b = true → k < 64 → (loopOf b k).turn = some t →
    (loopOf b k).dead = some d → d < hubNow b → (mosOf b k).held = false →
    exec (.turnBarrierTimeout k) ⟨b, cs⟩
      = nextAfter (abortTurn k .lost (sendAbort k t.num Status.mosaicBroken.code none b)) cs) ∧
  (∀ (b : Block) (cs : List Instr) (id c e : Nat) (st : BitVec 2), serving b = true →
    tget none b.hub.writes (id % 512) = some (.token c e) →
    let r : Block := { b with hub := { b.hub with writes := tset none b.hub.writes (id % 512) none } }
    (st = 0 → exec (.tokenRecordResponse id st) ⟨b, cs⟩ = nextAfter r cs) ∧
    (st ≠ 0 → exec (.tokenRecordResponse id st) ⟨b, cs⟩ = nextAfter (report (uccReport 0x19 4 c .complUndeliverable 0)
      (msix (4 * c + 3) (modRing c (fun g => { g with undel := true }) r))) cs)) ∧
  (∀ (k i : Nat) (is : List Nat) (f : Forming),
    let s := seqnOf f.b i
    let t := if s.promptLen ≤ s.pos then min (s.draft + 1) (min (s.maxTok - s.gen) (2 ^ 40 - 1 - s.pos))
      else min (loopOf f.b k).chunk (min (s.promptLen - s.pos) f.budget)
    let need := if s.promptLen ≤ s.pos then t else if s.pos + t = s.promptLen then 1 else 0
    let g := modRing s.ctx (fun r => { r with resv := r.resv + need }) f.b
    (t = 0 ∨ (ringOf f.b s.ctx).usable = false ∨ (ringOf f.b s.ctx).room < need →
      formCont k i f = f ∧ formParked k i f = { f with blocked := true, out := f.out ++ [i] }
        ∧ formJoins k (i :: is) f = { f with out := f.out ++ (i :: is) }) ∧
    (t ≠ 0 → (ringOf f.b s.ctx).usable = true → need ≤ (ringOf f.b s.ctx).room →
      (takeFor i (s.pos + t) g = none →
        formCont k i f = { f with b := parkSeq i f.b, blocked := true, out := f.out ++ [i] }
          ∧ formParked k i f = { f with blocked := true, out := f.out ++ [i] }) ∧
      (takeFor i t g = none → formJoins k (i :: is) f = { f with out := f.out ++ (i :: is) }) ∧
      (∀ h, takeFor i (s.pos + t) g = some h → formCont k i f = addRow i t h f ∧ formParked k i f = addRow i t h f) ∧
      (∀ h, takeFor i t g = some h → formJoins k (i :: is) f = formJoins k is (addRow i t h f)))) ∧
  (∀ (i t n : Nat) (b : Block) (f : Forming),
    (addRow i t b f).budget = f.budget - t ∧ (addRow i t b f).rows.map (·.seq) = f.rows.map (·.seq) ++ [i] ∧
    (let p := poolOf b (seqnOf b i).pool
     takeFor i n b = none ↔ (seqnOf b i).pages < p.need n ∧ (p.failed = true ∨ p.free < p.need n - (seqnOf b i).pages))) ∧
  (∀ (b : Block) (k : Nat),
    let c := formStep1 k b
    let byPrio := sortKey (fun i => 3 - (seqnOf c i).prio)
    let byOrder := sortKey (fun i => (seqnOf c i).order)
    let start : Forming := { b := c, budget := (loopOf c k).turnTokens, rows := [], blocked := false, out := [] }
    let active := byPrio (seqsIn c k .active)
    let parked := byPrio (byOrder (seqsIn c k .parked))
    let joining := byOrder (seqsIn c k .joining)
    let served := parked.foldl (fun f i => formParked k i f) (active.foldl (fun f i => formCont k i f) start)
    (c.hub.leaseExpired = true → formTurn k b
      = { start with b := active.foldl (fun b i => parkSeq i b) c, out := parked ++ active ++ joining }) ∧
    (c.hub.leaseExpired = false → served.blocked = true → formTurn k b = { served with out := served.out ++ joining }) ∧
    (c.hub.leaseExpired = false → served.blocked = false → formTurn k b = formJoins k joining served)) ∧
  (∀ (b : Block) (k i : Nat), (b.bat.seqs.filter (fun e => e.2.mslot == k)).map (·.1) = [i] →
    let s := seqnOf b i
    (s.retire = true → s.state = .active ∨ s.state = .parked ∨ s.state = .joining → (poolOf b s.pool).failed = false →
      formStep1 k b = leaveSeq i (modSeqn i (fun s => { s with state := .leaving, pages := 0, dataPg := [], mapPg := [] })
        (cover i 0 (modSeqn i (fun s => { s with state := .ended, reason := 0, owes := true }) b)))) ∧
    (s.retire = false → s.state = .joining → formStep1 k b = b))

/-- R256: a token ends its row by the first end condition that holds: a stop token, GEN reaching MAX_TOKENS, then the last
position; a row never commits more tokens than it was given, and tokens none of which meets a condition are all applied, GEN
advancing by their number. -/
def Obligations.TokenEndConditions : Prop :=
  (∀ (s : Seqn) (y q : Nat), endCond s y q =
    if y ∈ s.stops then some .stopToken else if s.gen + 1 = s.maxTok then some .maxTokens
    else if q = 2 ^ 40 - 1 then some .lengthLimit else none) ∧
  (∀ (i num n : Nat) (pos : Nat → Nat) (ts : List (Nat × Nat)) (b : Block),
    n ≤ (applyTokens i num pos ts n b).1 ∧ (applyTokens i num pos ts n b).1 ≤ n + ts.length) ∧
  (∀ (i num n : Nat) (pos : Nat → Nat) (ts : List (Nat × Nat)) (b : Block),
    (∀ x ∈ ts, x.2 ∉ (seqnOf b i).stops) → (seqnOf b i).gen + ts.length < (seqnOf b i).maxTok →
    (∀ x ∈ ts, pos x.1 ≠ 2 ^ 40 - 1) →
    (applyTokens i num pos ts n b).1 = n + ts.length
      ∧ (seqnOf (applyTokens i num pos ts n b).2 i).gen = (seqnOf b i).gen + ts.length)

/-- R313, R316 to R318, R321 to R324: a square that has run its cycles gives way to the next, started where it ended, and
time that is no longer entitled is withdrawn; a head with no tenure adds its quantum; a span at its overrun limit halts its
queue; the bucket gains RATE for each 1,024 CLK_SEQ edges up to BURST; a tenant's counters are copied at its update point;
the power average is published each 100 ms. -/
def Obligations.ScheduleCommands : Prop :=
  (∀ (b : Block) (cs : List Instr) (k : Nat), serving b = true → k < 64 →
    let s := schOf b k
    let cyc := s.start + 64 * fld (squareNow b k) 0 16
    s.running = true → s.board ≠ [] → cyc ≤ hubNow b →
    exec (.squareBoundary k) ⟨b, cs⟩ =
      let r := nextSquare k cyc (squareOver k cyc b)
      nextAfter (withdrawTime k (fun q => wasEntitled b k q && !entitled r k q) r) cs) ∧
  (∀ (b : Block) (cs : List Instr) (k c : Nat), serving b = true → k < 64 → (schOf b k).running = true →
    activeNow b k = (schOf b k).active → (schOf b k).active.find? (fun c => (schCtx b c).share != 0) = some c →
    (schOf b k).tenure ≠ some c → 0 < deficitOf (addQuantum k c b) k c →
    exec (.headAdvance k) ⟨b, cs⟩ = nextAfter (addQuantum k c b) cs) ∧
  (∀ (b : Block) (cs : List Instr) (q oid : Nat) (s : Span) (o : Op), serving b = true → q < nQueues b →
    b.sch.spans.find? (fun s => s.q == q && decide (2 ^ (schCtx b (q / 6)).limLog2 ≤ s.cyc) && !spanOver b s) = some s →
    s.oid = some oid → opOf b oid = some o →
    exec (.overrunLimitExpiry q) ⟨b, cs⟩ =
      let d := packetOff b o
      nextAfter (report (uccReport 0x17 3 q .overrunLimit d) (modSchCtx (q / 6) (fun r => { r with
        overruns := (r.overruns + 1) % 2 ^ 32 })
          (failSub q s.sid { status := .overrunLimit, kind := 3, detail := d } b))) cs) ∧
  (∀ (b : Block) (cs : List Instr) (k : Nat), serving b = true → k < 64 →
    let since := max (schOf b k).refill b.sch.edges
    since < b.time.seq / 1024 →
    let e := b.time.seq / 1024 - since
    exec (.bucketRefill k) ⟨b, cs⟩ = nextAfter (modSch k (fun s => { s with
      bw := s.bwNext, refill := b.time.seq / 1024
      level := if s.bwNext.en = true ∧ s.bw.en = false then s.bwNext.burst
        else min (s.bwNext.burst : Int) (s.level + (e * s.bwNext.rate : Nat)) }) b) cs) ∧
  (∀ (b : Block) (cs : List Instr) (c : Nat), serving b = true → c < nContexts b → (ctxOf b c).state ≠ .free →
    updateDue b c = true →
    exec (.updatePoint c) ⟨b, cs⟩ = nextAfter (modSchCtx c (fun r => { r with
      cEngine := r.engine / 4096, cWait := r.wait / 4096, cPre := r.preempts, updates := (r.updates + 1) % 2 ^ 32
      lastUpd := hubNow b }) b) cs) ∧
  (∀ (b : Block) (cs : List Instr), serving b = true → b.sch.powDue ≤ refNow b →
    exec .powerWindow ⟨b, cs⟩ = nextAfter { b with sch := { b.sch with
      watts := if b.sch.powN = 0 then 0 else b.sch.powSum / b.sch.powN / 1000 / 5 * 5
      window := b.sch.window + 1, powSum := 0, powN := 0, powDue := b.sch.powDue + 2500000 } } cs)

/-! ### The fabric (R25, R277 to R310) -/

/-- R29, R280 to R284, R290, R294, R307, R386, R387: a lookup is answered DROP in stalemate, NOT_READY in a reset, before
READY, in recovery (R32) or with PD_FAB asleep, REROUTE for a tag of no live epoch, which it counts, by the tables of a PREPARED
or CURRENT epoch, and by those of a DRAINING one as long as the current epoch gives the same answer, else REROUTE; a port that
changes is recorded, HELLO going out on one that comes up and NODE_DOWN for a neighbour that no port reaches any more; a message
for another node goes on with HOPS one less or is counted, under AUTH where it is a mosaic's or of a type of mosaics in version
1; one of no listed type is counted; one that comes while PD_FAB sleeps is kept in 2 KiB, its beats beyond that counted; a
written granule is dirty. The model's choices: a mosaic message whose way speaks version 1 alone is counted under NOROUTE, and
the port of a JOIN_REQUEST that goes on is kept for its ASSIGN (log entries 19, 17); a channel the chip does not have gets no
path at its own node either (log entry 48); a message that lost a beat is lost (log entry 33). -/
def Obligations.LookupsAndPorts : Prop :=
  (∀ (b : Block) (cs : List Instr) (port node chan tag mosaic : Nat), clocked b = true → port < nPorts b →
    let e := epochOf b (tag % 4)
    let a := lookupAnswer b e node chan mosaic
    (b.flt.stale = true →
      exec (.routeLookup port node chan tag mosaic) ⟨b, cs⟩ = nextAfter (emit (.route port .drop) b) cs) ∧
    (b.flt.stale = false → b.fab.phase ≠ 8 ∨ domOn b 3 = false ∨ b.pwr.img.recovery = true →
      exec (.routeLookup port node chan tag mosaic) ⟨b, cs⟩ = nextAfter (emit (.route port .notReady) (wake 3 3 b)) cs) ∧
    (b.flt.stale = false → b.fab.phase = 8 → domOn b 3 = true → b.pwr.img.recovery = false → epochLive e tag = false →
      exec (.routeLookup port node chan tag mosaic) ⟨b, cs⟩ = nextAfter (emit (.route port .reroute)
        (wake 3 3 { b with fab := { b.fab with stray := satAdd 32 b.fab.stray 1 } })) cs) ∧
    (b.flt.stale = false → b.fab.phase = 8 → domOn b 3 = true → b.pwr.img.recovery = false → epochLive e tag = true →
      e.state = .current ∨ e.state = .prepared ∨ a = lookupAnswer b (epochOf b (b.fab.epoch % 4)) node chan mosaic →
      exec (.routeLookup port node chan tag mosaic) ⟨b, cs⟩ = nextAfter (emit (.route port a) (wake 3 3 b)) cs) ∧
    (b.flt.stale = false → b.fab.phase = 8 → domOn b 3 = true → b.pwr.img.recovery = false → epochLive e tag = true →
      e.state = .draining ∨ e.state = .drained → a ≠ lookupAnswer b (epochOf b (b.fab.epoch % 4)) node chan mosaic →
      exec (.routeLookup port node chan tag mosaic) ⟨b, cs⟩ = nextAfter (emit (.route port .reroute) (wake 3 3 b)) cs)) ∧
  (∀ (b : Block) (e : Epoch) (node chan mosaic : Nat), tget none e.redirects chan = none →
    (node = b.fab.node → chan < nChannels b → lookupAnswer b e node chan mosaic = .route 0x7E 0x7F node chan) ∧
    (node ≠ b.fab.node → nChannels b ≤ chan ∨ bitOf (tget 0 e.routes node) 15 = false →
      lookupAnswer b e node chan mosaic = .route 0x7F 0x7F node chan) ∧
    (∀ k, node ≠ b.fab.node → chan < nChannels b → bitOf (tget 0 e.routes node) 15 = true → slotOfId b mosaic = some k →
      fld (tget 0 e.routes node) 0 7 ≠ 0x7F → bitOf (tget 0 e.masks k) (fld (tget 0 e.routes node) 0 7) = true →
      lookupAnswer b e node chan mosaic = .route (fld (tget 0 e.routes node) 0 7)
        (if bitOf (tget 0 e.routes node) 14 && bitOf (tget 0 e.masks k) (fld (tget 0 e.routes node) 7 7)
          then fld (tget 0 e.routes node) 7 7 else 0x7F) node chan)) ∧
  (∀ (b : Block) (cs : List Instr) (port node chan tag mosaic : Nat), released b = false → b.flt.clockLost = false →
    port < nPorts b →
    exec (.routeLookup port node chan tag mosaic) ⟨b, cs⟩ = nextAfter (emit (.route port .notReady) b) cs) ∧
  (∀ (b : Block) (cs : List Instr) (port : Nat), running b = true → port < nPorts b →
    (portOf b port).up = false → b.fab.withdrawn = false → b.fab.phase = 8 →
    exec (.portUpChange port true) ⟨b, cs⟩
      = afterBeat (trainCheck (sendHello false port (modPort port (fun r => { r with up := true }) b))) cs) ∧
  (∀ (b : Block) (cs : List Instr) (port : Nat), running b = true → port < nPorts b →
    (portOf b port).up = true →
    let r := modPort port (fun r => { r with up := false, hello := false, named := false, root := none }) b
    let s : Block := { r with fab := { r.fab with relays := r.fab.relays.filter (fun x => x.1 != port && x.2 != port) } }
    (b.fab.withdrawn = true → exec (.portUpChange port false) ⟨b, cs⟩ = afterBeat s cs) ∧
    (b.fab.withdrawn = false → b.fab.phase = 8 → (portOf b port).hello = true → (portOf b port).named = true →
      let t := requestChange port s
      (∀ q, q < nPorts t → (portOf t q).up = true → (portOf t q).hello = true →
        (portOf t q).peerNode ≠ (portOf b port).peerNode) →
      exec (.portUpChange port false) ⟨b, cs⟩ = afterBeat (nodeDownAct none (portOf b port).peerNode 0 t) cs)) ∧
  (∀ (b : Block) (cs : List Instr) (port : Nat) (m : SerdoMsg), running b = true → port < nPorts b → 7 ≤ b.pwr.step →
    domOn b 3 = true → forMe b m = false →
    let lost : Block := { b with fab := { b.fab with dropNoroute := satAdd 16 b.fab.dropNoroute 1 } }
    let way := if m.mosaic = 0 then nodePort b m.dst else mosPort b m.dst
    (m.err = true → exec (.serdoForward port m) ⟨b, cs⟩ = nextAfter b cs) ∧
    (m.err = false → m.hops = 0 → exec (.serdoForward port m) ⟨b, cs⟩ = afterBeat lost cs) ∧
    (m.err = false → m.hops ≠ 0 → m.ver = 1 → m.mosaic ≠ 0 ∨ mosaicType m.typ = true →
      exec (.serdoForward port m) ⟨b, cs⟩
        = afterBeat { b with fab := { b.fab with dropAuth := satAdd 16 b.fab.dropAuth 1 } } cs) ∧
    (m.err = false → m.hops ≠ 0 → m.ver ≠ 1 ∨ m.mosaic = 0 ∧ mosaicType m.typ = false →
      (listedType m.typ = false ∨ way = none → exec (.serdoForward port m) ⟨b, cs⟩ = afterBeat lost cs) ∧
      (∀ p, listedType m.typ = true → way = some p →
        let s := emit (.serdo p { onLink b p m with hops := m.hops - 1 }) b
        exec (.serdoForward port m) ⟨b, cs⟩ = afterBeat (if m.typ = 0x0A then
          { s with fab := { s.fab with relays := s.fab.relays ++ [(p, port)] } } else s) cs))) ∧
  (∀ (b : Block) (cs : List Instr) (port : Nat) (m : SerdoMsg), running b = true → port < nPorts b → 7 ≤ b.pwr.step →
    domOn b 3 = true → m.err = false → m.hops ≠ 0 →
    (listedType m.typ = false → m.ver ≠ 1 ∨ m.mosaic = 0 → exec (.serdoUnlistedType port m) ⟨b, cs⟩
      = afterBeat { b with fab := { b.fab with dropNoroute := satAdd 16 b.fab.dropNoroute 1 } } cs) ∧
    (m.ver = 1 → m.typ = 0x30 ∨ m.typ = 0x31 → exec (.serdoUnlistedType port m) ⟨b, cs⟩
      = afterBeat { b with fab := { b.fab with dropAuth := satAdd 16 b.fab.dropAuth 1 } } cs)) ∧
  (∀ (b : Block) (cs : List Instr) (port : Nat) (m : SerdoMsg), running b = true → port < nPorts b → 7 ≤ b.pwr.step →
    domOn b 3 = false → m.err = false → m.typ = 0x01 → m.ver = 2 →
    let n := ceilDiv (32 + m.body.length + m.tag.length) 32
    let room := 64 - b.fab.heldBeats
    (n ≤ room → exec (.hello port m) ⟨b, cs⟩ = nextAfter (wake 3 4 { b with fab := { b.fab with
      heldBeats := b.fab.heldBeats + n, heldRx := b.fab.heldRx ++ [(port, m)] } }) cs) ∧
    (room < n → exec (.hello port m) ⟨b, cs⟩ = nextAfter (wake 3 4 { b with fab := { b.fab with
      heldBeats := b.fab.heldBeats + room, dropOverflow := satAdd 16 b.fab.dropOverflow (n - room) } }) cs)) ∧
  (∀ (b : Block) (cs : List Instr) (chan g : Nat) (x : Mig), running b = true → chan < nChannels b →
    b.fab.mig = some x → x.src = chan → x.phase ≤ 4 → g < 32768 →
    exec (.writeTrackReport chan g) ⟨b, cs⟩
      = nextAfter { b with fab := { b.fab with mig := some { x with dirty := setBit x.dirty g } } } cs)

/-- R25, R283 to R286: a chip prepares the epoch and answers the root, the root switches once every node has answered, the
apply edge makes the new epoch current and the old one DRAINING, a drained epoch is told to the root and freed at last; no
EPOCH_DRAINED is awaited of a node that joins by the change. The model's choices: how EPOCH_PREPARE spells a change, which
Config.epochEdits reads (log entry 7), and that a LINK_EVENT carries further edits after its bytes (log entry 15). -/
def Obligations.EpochCommands : Prop :=
  (∀ (b : Block) (cs : List Instr) (port : Nat) (m : SerdoMsg), serdoReady b port 0x18 m = true →
    exec (.epochPrepare port m) ⟨b, cs⟩ = afterBeat (sendNode 0x19 (leBytes (bodyNat m 0 1) 1) b.fab.rootNode
      (prepareEpoch (bodyNat m 0 1) (Config.epochEdits (m.body.drop 1)) b)) cs) ∧
  (∀ (b : Block) (cs : List Instr) (port : Nat) (m : SerdoMsg) (c : Change), serdoReady b port 0x19 m = true →
    b.fab.isRoot = true → b.fab.change = some c → c.tag = bodyNat m 0 1 → c.switched = false →
    let left := c.awaited.filter (fun x => x != m.src && !b.fab.downs.contains x)
    let r : Block := { b with fab := { b.fab with change := some { c with awaited := left } } }
    (left ≠ [] → exec (.epochAck port m) ⟨b, cs⟩ = afterBeat r cs) ∧
    (left = [] → exec (.epochAck port m) ⟨b, cs⟩ =
      let all := liveNodes r
      let s := (all.filter (· != b.fab.node)).foldl (fun b d => sendNode 0x1A (leBytes (bodyNat m 0 1) 1) d b) r
      let held := all.filter (fun n => !c.edits.any (fun e => match e with | .nodeUp d _ => d == n | _ => false))
      afterBeat { s with fab := { s.fab with
        drains := s.fab.drains ++ [(s.fab.epoch, held)], swAt := some (s.time.seq + 32, bodyNat m 0 1)
        change := s.fab.change.map (fun c => { c with switched := true }) } } cs)) ∧
  (∀ (b : Block) (cs : List Instr) (port : Nat) (m : SerdoMsg), serdoReady b port 0x1A m = true →
    exec (.epochSwitch port m) ⟨b, cs⟩ = afterBeat { b with fab := { b.fab with
      swAt := some (b.time.seq + 32, bodyNat m 0 1)
      change := b.fab.change.map (fun c => { c with switched := true }) } } cs) ∧
  (∀ (b : Block) (cs : List Instr) (edge tag : Nat), running b = true → b.fab.swAt = some (edge, tag) →
    edge ≤ b.time.seq → exec .epochApply ⟨b, cs⟩ =
      let r := modEpoch (b.fab.epoch % 4) (fun e => if e.state == .current then { e with state := .draining } else e) b
      let r := modEpoch (tag % 4) (fun e => { e with state := .current }) r
      nextAfter (nextChange (emit (.epochCur tag) (movesDone { r with fab := { r.fab with
        epoch := tag, swAt := none, phase := if b.fab.joining then 8 else b.fab.phase, joining := false
        waveDead := none, via := [] } }))) cs) ∧
  (∀ (b : Block) (cs : List Instr) (busy : List (BitVec 4)), running b = true → exec (.epochDrainDetect busy) ⟨b, cs⟩
    = nextAfter (drainSlot busy 3 (drainSlot busy 2 (drainSlot busy 1 (drainSlot busy 0 b)))) cs) ∧
  (∀ (b : Block) (busy : List (BitVec 4)) (x : BitVec 4) (t : Nat), x ∈ busy → x.getLsbD t = true →
    drainSlot busy t b = b) ∧
  (∀ (b : Block) (busy : List (BitVec 4)) (t : Nat), (epochOf b t).state = .draining →
    tagInUse b (epochOf b t).tag = false → (∀ x ∈ busy, x.getLsbD t = false) → b.fab.isRoot = false →
    drainSlot busy t b = sendNode 0x1B (leBytes (epochOf b t).tag 1) b.fab.rootNode
      (modEpoch t (fun e => { e with state := .drained }) b)) ∧
  (∀ (b : Block) (cs : List Instr) (port : Nat) (m : SerdoMsg), serdoReady b port 0x1B m = true →
    b.fab.isRoot = true →
    let tag := bodyNat m 0 1
    let ds := b.fab.drains.map (fun d => if d.1 == tag then (d.1, d.2.filter (· != m.src)) else d)
    ds.any (fun d => d.1 == tag && d.2.isEmpty) = false →
    exec (.epochDrained port m) ⟨b, cs⟩
      = afterBeat { b with fab := { b.fab with drains := ds.filter (fun d => !d.2.isEmpty) } } cs) ∧
  (∀ (b : Block) (cs : List Instr) (port : Nat) (m : SerdoMsg), serdoReady b port 0x1C m = true →
    let tag := bodyNat m 0 1
    let e := epochOf b (tag % 4)
    e.tag = tag → e.state = .draining ∨ e.state = .drained →
    exec (.epochFree port m) ⟨b, cs⟩ = afterBeat ((b.fab.slots.map (·.1)).foldl (freeKeys e.masks)
      (modEpoch (tag % 4) (fun _ => epochZero) b)) cs) ∧
  (∀ (b : Block) (cs : List Instr) (port : Nat) (m : SerdoMsg), serdoReady b port 0x08 m = true →
    b.fab.isRoot = true → bitOf (bodyNat m 1 1) 0 = false →
    exec (.linkEvent port m) ⟨b, cs⟩ = afterBeat (rootChange (.linkDown m.src (bodyNat m 0 1) :: linkEdits m) b) cs)

/-- R293, R300 to R307: what each discovery message does to the block: HELLO completes the port's exchange, and from a READY
neighbour makes a block that has no node ID yet join in service; ELECT, ECHO, ASSIGN, MAP, ROUTES_READY and READY carry the
election, the numbering, the map and the end of discovery; NODE_DOWN takes a node away and JOIN_REQUEST brings one. The model's
choices (log entry 17): HELLO tells a node ID given by ASSIGN, the ASSIGN for a JOIN_REQUEST goes out on the port that the
request came by and is handed back the way the request came, and the epoch change awaits the MAP of the block that joins. -/
def Obligations.DiscoveryMessages : Prop :=
  (∀ (b : Block) (cs : List Instr) (port : Nat) (m : SerdoMsg), serdoReady b port 0x01 m = true → b.fab.withdrawn = false →
    (b.fab.phase = 1 ∨ b.fab.phase = 2) → bodyNat m 22 1 = 0 →
    exec (.hello port m) ⟨b, cs⟩ = afterBeat (floodCheck (helloCheck (modPort port (fun r => { r with
      hello := true, ver := min 2 (bodyNat m 18 1)
      peerNode := if bodyNat m 20 2 = 0xFFFF then r.peerNode else bodyNat m 20 2, named := bodyNat m 20 2 != 0xFFFF
      peerPort := bodyNat m 19 1
      peerSerial := bodyNat m 0 8, peerTie := bodyNat m 8 8, peerPin := bodyNat m 16 2, root := none }) b))) cs) ∧
  (∀ (b : Block) (cs : List Instr) (port : Nat) (m : SerdoMsg), serdoReady b port 0x01 m = true → b.fab.withdrawn = false →
    1 ≤ b.fab.phase → b.fab.phase ≤ 3 → bodyNat m 22 1 = 1 →
    exec (.hello port m) ⟨b, cs⟩ =
      let r := notePeer port m b
      let root := bodyNat m 23 2
      let r : Block := { r with fab := { r.fab with
        joining := true, rootNode := root, phase := 4, trainDead := none, helloDead := none
        via := tset 0 r.fab.via root (port + 1) } }
      let x := { neighbour r port 0x0A ((helloBody r port false).take 18) with dst := root }
      afterBeat (waveStart (bumpSeq (emit (.serdo port x) r))) cs) ∧
  (∀ (b : Block) (cs : List Instr) (port : Nat) (m : SerdoMsg), serdoReady b port 0x02 m = true → b.fab.withdrawn = false →
    b.fab.phase = 3 → b.fab.electing = false →
    let k := bodyNat m 0 16
    (k < b.fab.elect.best → exec (.elect port m) ⟨b, cs⟩ =
      let ps := (helloPorts b).filter (· != port)
      let e : Elect := { best := k, parent := some port, pend := ps, nodes := 1
                         pinned := if b.fab.fru.pinned then 1 else 0, height := 0, children := [], done := false, told := false }
      afterBeat (electEnd (waveStart (sendPorts 0x02 (leBytes k 16) ps
        { b with fab := { b.fab with elect := e, phase := 3, isRoot := false } }))) cs) ∧
    (k = b.fab.elect.best → port ∈ b.fab.elect.pend → exec (.elect port m) ⟨b, cs⟩
      = afterBeat (electEnd (waveStart { b with fab := { b.fab with
          elect := { b.fab.elect with pend := b.fab.elect.pend.filter (· != port) } } })) cs) ∧
    (b.fab.elect.best < k → exec (.elect port m) ⟨b, cs⟩ = afterBeat b cs)) ∧
  (∀ (b : Block) (cs : List Instr) (port : Nat) (m : SerdoMsg), serdoReady b port 0x03 m = true →
    bodyNat m 0 16 = b.fab.elect.best → port ∈ b.fab.elect.pend → bitOf (bodyNat m 16 1) 0 = true →
    exec (.echo port m) ⟨b, cs⟩ =
      let e := b.fab.elect
      afterBeat (electEnd (waveStart { b with fab := { b.fab with elect := { e with
        pend := e.pend.filter (· != port), nodes := e.nodes + bodyNat m 20 4, pinned := e.pinned + bodyNat m 24 4
        height := max e.height (bodyNat m 28 1)
        children := e.children ++ [{ port := port, size := bodyNat m 20 4, ready := false }] } } })) cs) ∧
  (∀ (b : Block) (cs : List Instr) (port : Nat) (m : SerdoMsg), serdoReady b port 0x04 m = true →
    b.fab.electing = false → b.fab.phase = 4 → b.fab.joining = false → b.fab.elect.parent = some port →
    exec (.assign port m) ⟨b, cs⟩ = afterBeat (takeAssign (bodyNat m 0 2) (bodyNat m 2 2) (bodyNat m 4 1) (bodyNat m 5 1)
      (bodyNat m 6 1) (bodyNat m 8 16) b) cs) ∧
  (∀ (b : Block) (cs : List Instr) (port : Nat) (m : SerdoMsg), serdoReady b port 0x04 m = true → b.fab.electing = false →
    (b.fab.phase = 4 → b.fab.joining = true → bodyNat m 5 1 ≠ 3 → exec (.assign port m) ⟨b, cs⟩
      = afterBeat (waveStart (floodOwn (helloAll false { b with fab := { b.fab with
          node := bodyNat m 0 2, fabNodes := bodyNat m 2 2, nodes := bodyNat m 2 2, height := bodyNat m 4 1
          pinMode := bodyNat m 5 1, rootSerial := bodyNat m 8 16 / 2 ^ 64, phase := 5 } }))) cs) ∧
    (∀ r, b.fab.phase = 8 → b.fab.relays.find? (fun x => x.1 == port) = some r → bodyNat m 5 1 ≠ 3 →
      exec (.assign port m) ⟨b, cs⟩ = afterBeat (sendPort 0x04 m.body r.2 { b with fab := { b.fab with
        relays := b.fab.relays.erase r, via := tset 0 b.fab.via (bodyNat m 0 2) (r.2 + 1) } }) cs)) ∧
  (∀ (b : Block) (cs : List Instr) (port : Nat) (m : SerdoMsg), serdoReady b port 0x05 m = true → b.fab.withdrawn = false →
    b.fab.phase = 5 → bodyNat m 0 2 ≠ b.fab.node → bodyNat m 10 1 = 0 →
    tget mapZero b.fab.map (bodyNat m 0 2) = mapZero →
    exec (.mapRec port m) ⟨b, cs⟩ =
      let r : Block := { b with fab := { b.fab with
        map := tset mapZero b.fab.map (bodyNat m 0 2)
          { serial := bodyNat m 2 8, first := true, second := false, live := true, links := mapLinks m }
        serials := tset 0 b.fab.serials (bodyNat m 2 8) (bodyNat m 0 2 + 1) } }
      afterBeat (mapCheck (waveStart (((helloPorts r).filter (· != port)).foldl (fun b p =>
        emit (.serdo p { onLink b p m with hops := m.hops - 1 }) b) r))) cs) ∧
  (∀ (b : Block) (cs : List Instr) (port : Nat) (m : SerdoMsg), serdoReady b port 0x06 m = true →
    b.fab.elect.children.any (·.port == port) = true → 5 ≤ b.fab.phase → b.fab.phase ≤ 7 →
    exec (.routesReady port m) ⟨b, cs⟩ =
      let heard (c : Child) : Child := if c.port == port then { c with ready := true } else c
      let e := { b.fab.elect with children := b.fab.elect.children.map heard }
      afterBeat (routesEcho (waveStart { b with fab := { b.fab with
        tables := b.fab.tables + bodyNat m 0 4, elect := e } })) cs) ∧
  (∀ (b : Block) (p : Nat), b.fab.phase = 7 → b.fab.elect.told = false → b.fab.elect.parent = some p →
    (∀ c ∈ b.fab.elect.children, c.ready = true ∨ ∃ d ∈ b.fab.dups, d.1 = (portOf b c.port).peerSerial) →
    routesEcho b = waveStart (sendPort 0x06 (leBytes b.fab.tables 4) p
      { b with fab := { b.fab with elect := { b.fab.elect with told := true } } })) ∧
  (∀ (b : Block) (c : Child), c ∈ b.fab.elect.children → c.ready = false →
    (∀ d ∈ b.fab.dups, d.1 ≠ (portOf b c.port).peerSerial) → routesEcho b = b) ∧
  (∀ (b : Block) (cs : List Instr) (port : Nat) (m : SerdoMsg), serdoReady b port 0x07 m = true → b.fab.phase = 7 →
    b.fab.elect.parent = some port →
    exec (.ready port m) ⟨b, cs⟩ =
      let r := modEpoch (b.fab.epoch % 4) (fun e => { e with state := .current }) b
      afterBeat (sendPorts 0x07 [] (b.fab.elect.children.map (·.port)) (emit (.epochCur (b.fab.epoch % 8)) { r with
        fab := { r.fab with phase := 8, waveDead := none, helloDead := none, trainDead := none } })) cs) ∧
  (∀ (b : Block) (cs : List Instr) (port : Nat) (m : SerdoMsg), serdoReady b port 0x09 m = true → b.fab.phase = 8 →
    (bodyNat m 0 2 ∈ b.fab.downs → exec (.nodeDown port m) ⟨b, cs⟩ = afterBeat b cs) ∧
    exec (.nodeDown port m) ⟨b, cs⟩ = afterBeat (nodeDownAct (some (port, m)) (bodyNat m 0 2) (bodyNat m 2 1) b) cs) ∧
  (∀ (b : Block) (cs : List Instr) (port : Nat) (m : SerdoMsg), serdoReady b port 0x0A m = true → b.fab.isRoot = true →
    b.fab.phase = 8 → bitOf (bodyNat m 16 2) 15 = true →
    let id := fld (bodyNat m 16 2) 0 14
    let n := b.fab.nodes + 1
    (id ∈ liveNodes b → exec (.joinRequest port m) ⟨b, cs⟩
      = afterBeat (sendPort 0x04 (assignBody id n b.fab.height 3 1 (ownKey b)) port b) cs) ∧
    (id ∉ liveNodes b → exec (.joinRequest port m) ⟨b, cs⟩ =
      let js := b.fab.joins.filter (fun x => x.1 != id && x.2 != bodyNat m 0 8)
      let r : Block := { b with fab := { b.fab with
        joins := js ++ [(id, bodyNat m 0 8)], via := tset 0 b.fab.via id (port + 1) } }
      afterBeat (sendPort 0x04 (assignBody id n r.fab.height 1 0 (ownKey r)) port r) cs))

/-- R296 to R301, R305: the training and HELLO bounds end in the election, or with no port up in a fabric of one; the wave
bound restarts discovery from the HELLO phase and counts it; an FRU read gives the record or, failed, the invalid one, and
a module read a port's fields, after which the bus goes on with its next module. -/
def Obligations.DiscoveryTimers : Prop :=
  (∀ (b : Block) (cs : List Instr) (d : Nat), running b = true → (b.fab.phase = 1 ∨ b.fab.phase = 2) →
    b.fab.trainDead = some d → d < hubNow b →
    exec .discoveryTrainingExpiry ⟨b, cs⟩
      = nextAfter (if upPorts b = [] then fabricOfOne b else startElection b) cs) ∧
  (∀ (b : Block) (cs : List Instr) (d : Nat), running b = true → b.fab.phase = 2 → b.fab.helloDead = some d →
    d < hubNow b → upPorts b ≠ [] →
    exec .helloPhaseExpiry ⟨b, cs⟩ = nextAfter (startElection b) cs) ∧
  (∀ (b : Block) (cs : List Instr) (d : Nat), running b = true → b.fab.waveDead = some d → d < hubNow b →
    b.fab.electing = false → 2 ≤ b.fab.phase → b.fab.phase ≤ 7 →
    exec .discoveryWaveExpiry ⟨b, cs⟩ =
      let f := b.fab
      nextAfter (helloAll true { b with fab := { f with
        ports := tmap portZero f.ports (fun _ r => { r with hello := false, named := false, root := none })
        fresh := true, flooded := false, joins := [], via := [], relays := [], dups := []
        trainUse := f.train, waveUse := f.waveLog2
        phase := 2, elect := electReset, map := [], tables := 0, isRoot := false, joining := false, waveDead := none
        trainDead := none, epochs := [], epoch := 0, change := none, waiting := [], drains := [], swAt := none
        restarts := satAdd 8 f.restarts 1, helloDead := some (hubNow b + 2 ^ 20) } }) cs) ∧
  (∀ (b : Block) (cs : List Instr) (l : List Byte) (d : Nat), running b = true → b.fab.fruDead = some d →
    b.fab.cmisLeft ≠ [] →
    exec (.fruRead (some l)) ⟨b, cs⟩ =
      let off := 8 * (l.getD 5 0).toNat
      let reads := if l.length < 8 ∨ sumZero (l.take 8) = false then [] else fruReads 16 off (l.drop off)
      let r := startModules (emitAll reads { b with fab := { b.fab with fru := fruOf l, fruDead := none } })
      nextAfter { r with sec := { r.sec with confBlk := confBlock r l } } cs) ∧
  (∀ (b : Block) (cs : List Instr) (d : Nat), running b = true → b.fab.fruDead = some d → d < mgtNow b →
    b.fab.cmisLeft ≠ [] →
    exec (.fruRead none) ⟨b, cs⟩ =
      let r := startModules { b with fab := { b.fab with fruDead := none, fru :=
        { valid := false, pinned := false, pin := 0, cooling := 0, power := 0, slot := 0, serial := 2 ^ 64 - 1 } } }
      nextAfter { r with sec := { r.sec with confBlk := confBlock r [] } } cs) ∧
  (∀ (l : List Byte), l.length < 8 ∨ sumZero (l.take 8) = false →
    fruOf l = { valid := false, pinned := false, pin := 0, cooling := 0, power := 0, slot := 0, serial := 2 ^ 64 - 1 }) ∧
  (∀ (b : Block) (cs : List Instr) (port d : Nat) (l : List Byte), running b = true → port < nPorts b →
    tget none b.fab.cmisDead port = some d → b.fab.phase ≠ 0 →
    let read_ (r : Block) : Block := { r with fab := { r.fab with
      cmisLeft := r.fab.cmisLeft.filter (· != port), rescan := r.fab.rescan.filter (· != port)
      cmisDead := tset none r.fab.cmisDead port none } }
    exec (.cmisRead port (some l)) ⟨b, cs⟩
        = nextAfter (startModule (port / 18) (emitAll (pageReads (port / 18) l) (read_ (modPort port (cmisPort l) b)))) cs ∧
    (d < mgtNow b → exec (.cmisRead port none) ⟨b, cs⟩ = nextAfter (startModule (port / 18) (read_ (modPort port (fun r =>
      { r with present := false, ident := 0, mstate := 0, media := 0, maxpwr := 0 }) b))) cs))

/-- R273, R276, R289, R293, R295: a mosaic message from no member, without the key's tag, or with a SEQ not above the last
is discarded and counted; one that passes joins, agrees the key, enters or leaves READY, breaks the mosaic, or holds and
releases a migration's member. The model's choices (log entry 16): a member's failed check is answered by KEY_CONFIRM with
another generation, join and agreement messages pass without AUTH in KEYING, and those of a chip that the leader's list does not
name yet are kept for the rebind that will. -/
def Obligations.MosaicMessages : Prop :=
  (∀ (b : Block) (m : SerdoMsg) (k : Nat), m.ver = 2 → slotOfId b m.mosaic = some k →
    ((mosOf b k).members.find? (·.node == m.src) = none →
      (leads b k = false ∨ m.typ ≠ 0x10 ∧ m.typ ≠ 0x12 ∨ (mosOf b k).state = .created ∨ (mosOf b k).state = .joining
        ∨ (mosOf b k).state = .keying ∨ (mosOf b k).state = .releasing →
        mosaicAccept m b = (none, { b with fab := { b.fab with dropAuth := satAdd 16 b.fab.dropAuth 1 } })) ∧
      (leads b k = true → m.typ = 0x10 ∨ m.typ = 0x12 → (mosOf b k).state = .ready →
        mosaicAccept m b = (none, modMos k (fun r => { r with
          early := r.early.filter (fun x => x.src != m.src || x.typ != m.typ) ++ [m] }) b))) ∧
    (∀ x, (mosOf b k).members.find? (·.node == m.src) = some x → (mosOf b k).key ≠ [] → m.auth = true →
      tagOk (mosOf b k) m = false → mosaicAccept m b
      = (none, { b with fab := { b.fab with dropAuth := satAdd 16 b.fab.dropAuth 1 } })) ∧
    (∀ x, (mosOf b k).members.find? (·.node == m.src) = some x → (mosOf b k).key ≠ [] → m.auth = false →
      (mosOf b k).state ≠ .keying ∨ m.typ ≠ 0x10 ∧ m.typ ≠ 0x12 ∧ m.typ ≠ 0x13 → mosaicAccept m b
      = (none, { b with fab := { b.fab with dropAuth := satAdd 16 b.fab.dropAuth 1 } })) ∧
    (∀ x s, (mosOf b k).members.find? (·.node == m.src) = some x → m.auth = true → tagOk (mosOf b k) m = true →
      x.lastSeq = some s → m.seq ≤ s → mosaicAccept m b
      = (none, { b with fab := { b.fab with dropReplay := satAdd 16 b.fab.dropReplay 1 } }))) ∧
  (∀ (b b' : Block) (cs : List Instr) (port k : Nat) (m : SerdoMsg), mosaicReady b port 0x10 m k b' = true →
    leads b' k = true →
    exec (.mosaicJoin port m) ⟨b, cs⟩ = afterBeat (startKeying k (modMos k (fun r => { r with
      members := r.members.map (fun x => if x.node == m.src then { x with idk := slice m.body 0 97, eph := [] } else x) }) b')) cs) ∧
  (∀ (b b' : Block) (cs : List Instr) (port k : Nat) (m : SerdoMsg), mosaicReady b port 0x11 m k b' = true →
    exec (.mosaicLeave port m) ⟨b, cs⟩ = afterBeat (loseMember k m.src b') cs) ∧
  (∀ (b b' : Block) (cs : List Instr) (port k : Nat) (m : SerdoMsg), mosaicReady b port 0x12 m k b' = true →
    ((mosOf b' k).state = .joining ∨ (mosOf b' k).state = .keying) → leads b' k = false → m.src = leaderOf b' k →
    exec (.keyAgree port m) ⟨b, cs⟩ =
      let key := agreedKey b' k m
      let gen := bodyNat m 97 4
      afterBeat (sendMos 0x13 (leBytes (if key.isSome then gen else gen + 1) 4) k (leaderOf b' k)
        (modMos k (fun r => { r with state := .keying, newKey := key.getD [], newGen := gen }) b')) cs) ∧
  (∀ (b b' : Block) (cs : List Instr) (port k : Nat) (m : SerdoMsg), mosaicReady b port 0x13 m k b' = true →
    leads b' k = true → (mosOf b' k).state = .keying → (mosOf b' k).newKey ≠ [] →
    (bodyNat m 0 4 ≠ (mosOf b' k).newGen → exec (.keyConfirm port m) ⟨b, cs⟩ = afterBeat (failAgree k b') cs) ∧
    (bodyNat m 0 4 = (mosOf b' k).newGen → exec (.keyConfirm port m) ⟨b, cs⟩
      = afterBeat (finishAgree k (modMos k (fun r => { r with
          members := r.members.map (fun x => if x.node == m.src then { x with confirmed := true } else x) }) b')) cs)) ∧
  (∀ (b b' : Block) (cs : List Instr) (port k : Nat) (m : SerdoMsg), mosaicReady b port 0x14 m k b' = true →
    leads b' k = false → m.src = leaderOf b' k → ((mosOf b' k).state = .joining ∨ (mosOf b' k).state = .keying) →
    exec (.mosaicReady port m) ⟨b, cs⟩ = afterBeat (if bodyNat m 0 1 = 0 then mosReady k (bodyNat m 4 4) b'
      else agreeFailed k (bodyNat m 0 1) b') cs) ∧
  (∀ (b b' : Block) (cs : List Instr) (port k : Nat) (m : SerdoMsg),
    (mosaicReady b port 0x20 m k b' = true → noPasses b' k = false → exec (.migQuiesce port m) ⟨b, cs⟩
      = afterBeat (sendHeld k (modMos k (fun r => { r with held := true, migFrom := some m.src }) b')) cs) ∧
    (mosaicReady b port 0x21 m k b' = true → exec (.migHeld port m) ⟨b, cs⟩
      = afterBeat (modMos k (fun r => { r with
          members := r.members.map (fun x => if x.node == m.src then { x with migHeld := true } else x) }) b') cs) ∧
    (mosaicReady b port 0x22 m k b' = true → exec (.migResume port m) ⟨b, cs⟩
      = afterBeat (loopEvent k (modMos k (fun r => { r with held := false, migFrom := none }) b')) cs))

/-- R135, R136, R246, R255, R257, R308: TURN_COMMIT goes down the tree, drops a turn that is not committed and instantiates the
next, unless its LAUNCH_TURN's index area differs, or, the loop over, completes the LAUNCH_TURN; TURN_ARRIVE and TURN_TOKENS are gathered, the leader's timer stopping
once everything is in; TURN_ABORT goes on and aborts; a FLAG_SET to a flag that its page opens to the mosaic is performed and
answered, any other counted and refused; the answer completes the signal or fails it; COLL_STEP is kept for its
collective, or answered where that is over. The model's choices: a TURN_COMMIT that plans no turn ends the loop, and a turn not
committed is dropped (log entry 14); the late message of a COLLECTIVE that is over (log entry 20). -/
def Obligations.TurnAndFlagMessages : Prop :=
  (∀ (b b' : Block) (cs : List Instr) (port k : Nat) (m : SerdoMsg), mosaicReady b port 0x28 m k b' = true →
    leads b' k = false →
    let s := sendDown 0x28 m.body k b'
    let s := if (loopOf s k).turn.any (fun t => decide (bodyNat m 0 8 < t.num)) then dropTurn k s else s
    let r := modLoop k (fun l => { l with n := bodyNat m 0 8, turn := none, dead := none })
      (turnProgress k (bodyNat m 0 8) s)
    (bodyNat m 0 8 < bodyNat m 8 8 → exec (.turnCommit port m) ⟨b, cs⟩ =
      let t : Turn := { turnZero (bodyNat m 8 8) (bitOf (bodyNat m 16 1) 0) [] with
        published := true, idx := some (bodyNat m 24 8), skey := loopKey r k }
      afterBeat (wake 2 6 (pruneInsts (joinTurn k (modLoop k (fun l => { l with turn := some t }) r)))) cs) ∧
    (∀ o, bodyNat m 8 8 ≤ bodyNat m 0 8 → (loopOf r k).oid = some o → exec (.turnCommit port m) ⟨b, cs⟩
      = afterBeat (wake 2 6 (pruneInsts (completeOp o (modLoop k (fun l => { l with oid := none }) r)))) cs)) ∧
  (∀ (b b' : Block) (cs : List Instr) (port k : Nat) (m : SerdoMsg) (t : Turn), mosaicReady b port 0x29 m k b' = true →
    (loopOf b' k).turn = some t → t.num = bodyNat m 0 8 → m.src ∈ childNodes b' k →
    m.src ∉ t.arrived →
    let t' : Turn := { t with arrived := t.arrived ++ [m.src], subToks := t.subToks + bodyNat m 8 4 }
    exec (.turnArrive port m) ⟨b, cs⟩
      = afterBeat (wake 2 6 (stopBarrier k (modLoop k (fun l => { l with turn := some t' }) b'))) cs) ∧
  (∀ (b b' : Block) (cs : List Instr) (port k : Nat) (m : SerdoMsg) (t : Turn), mosaicReady b port 0x2A m k b' = true →
    (loopOf b' k).turn = some t → t.num = bodyNat m 0 8 → leads b' k = false →
    exec (.turnAbort port m) ⟨b, cs⟩ = afterBeat (wake 2 6
      (abortTurn k (if bodyNat m 8 1 = Status.mosaicBroken.code then .lost else .failed .turnAborted)
        (sendAbort k t.num (bodyNat m 8 1) (some m.src) b'))) cs) ∧
  (∀ (b b' : Block) (cs : List Instr) (port k : Nat) (m : SerdoMsg), mosaicReady b port 0x2B m k b' = true →
    leads b' k = true →
    exec (.turnTokens port m) ⟨b, cs⟩ = afterBeat (wake 2 6 (stopBarrier k
      ((List.range (min 56 (bodyNat m 8 2))).foldl (fun b i => takeOne k (bodyNat m 0 8) m i b) b'))) cs) ∧
  (∀ (b b' : Block) (cs : List Instr) (port k : Nat) (m : SerdoMsg), mosaicReady b port 0x30 m k b' = true →
    let f := bodyNat m 0 2
    let g := tget pageZero b'.dep.pages (f / 256)
    let answer (refused : Nat) (r : Block) : Block :=
      sendMos 0x31 (leBytes (bodyNat m 16 4) 4 ++ leBytes refused 1) k m.src r
    (g.remote = true → g.slot = k → exec (.flagSet port m) ⟨b, cs⟩
      = afterBeat (answer 0 (signalFlag (bodyNat m 2 1) f (BitVec.ofNat 64 (bodyNat m 8 8)) b')) cs) ∧
    (g.remote = false ∨ g.slot ≠ k → exec (.flagSet port m) ⟨b, cs⟩
      = afterBeat (answer 1 { b' with dep := { b'.dep with remoteDrop := satAdd 32 b'.dep.remoteDrop 1 } }) cs)) ∧
  (∀ (b b' : Block) (cs : List Instr) (port k : Nat) (m : SerdoMsg) (x : RemoteSig), mosaicReady b port 0x31 m k b' = true →
    b'.dep.remote.find? (fun r => r.mos == k && r.node == m.src && r.rel == bodyNat m 0 4) = some x →
    let r : Block := { b' with dep := { b'.dep with remote := b'.dep.remote.filter (· != x) } }
    exec (.flagReply port m) ⟨b, cs⟩
      = afterBeat (if bodyNat m 4 1 = 0 then completeOp x.oid r else failRemote x.oid .notPermitted r) cs) ∧
  (∀ (b b' : Block) (cs : List Instr) (port k : Nat) (m : SerdoMsg), mosaicReady b port 0x38 m k b' = true →
    let x : CollMsg := { slot := k, n := bodyNat m 0 4, kind := bodyNat m 4 1, rop := bodyNat m 5 1, fmt := bodyNat m 6 1
                         count := bodyNat m 8 5, root := bodyNat m 14 2, chunk := bodyNat m 16 4, node := bodyNat m 20 2 }
    let r : Block := { b' with fab := { b'.fab with collMsgs := b'.fab.collMsgs ++ [x] } }
    (b'.fab.colls.find? (fun c => c.slot == k && c.n == x.n) = none → collPast b' k x.n = false →
      exec (.collStep port m) ⟨b, cs⟩ = afterBeat r cs) ∧
    (b'.fab.colls.find? (fun c => c.slot == k && c.n == x.n) = none → collPast b' k x.n = true →
      exec (.collStep port m) ⟨b, cs⟩ = afterBeat (collLate k x b') cs) ∧
    (∀ c a, b'.fab.colls.find? (fun c => c.slot == k && c.n == x.n) = some c → collLive b' c.oid = true →
      (opOf b' c.oid).bind collArgs = some a →
      exec (.collStep port m) ⟨b, cs⟩ = afterBeat (collRun c.oid 64 (collCheck c a r)) cs))

/-! ### Security and faults (R328, R338, R344 to R374) -/

/-- R338, R344, R346, R349, R350: an acknowledgement ends an operation once no instance is left, and what asked for it goes
on; one with nothing requested is ignored; one awaited past its bound is the fatal source 0x22; a refused request is counted;
a link port's fence falls with its own acknowledgement; the tag revoke port goes on with what asked for the request, an
ENABLE acknowledged late being followed by a REVOKE; past the bound an ENABLE refuses its CTX_CREATE and a REVOKE defers its
CTX_DESTROY, the request staying raised. -/
def Obligations.SidebandCommands : Prop :=
  (∀ (b : Block) (cs : List Instr) (inst : Nat) (j : KsJob), running b = true → ksInst b inst = true →
    b.sec.jobs.find? (fun j => j.issued && j.insts.contains inst) = some j →
    let left := j.insts.filter (· != inst)
    (left ≠ [] → exec (.keySidebandAck inst) ⟨b, cs⟩ = nextAfter (ksPump { b with sec := { b.sec with
      jobs := modFirst (fun x => x == j) (fun j => { j with insts := left }) b.sec.jobs } }) cs) ∧
    (left = [] → exec (.keySidebandAck inst) ⟨b, cs⟩
      = nextAfter (ksPump (ksFinish j (ksPump { b with sec := { b.sec with jobs := b.sec.jobs.erase j } }))) cs)) ∧
  (∀ (b : Block) (cs : List Instr) (inst : Nat), running b = true → ksInst b inst = true →
    b.sec.jobs.find? (fun j => j.issued && j.insts.contains inst) = none →
    exec (.keySidebandAck inst) ⟨b, cs⟩ = nextAfter b cs) ∧
  (∀ (b : Block) (j : KsJob) (i h oid : Nat) (a : AdmCmd),
    (j.use = .keyImport i h → admOf b i = some a → ksFinish j b = admFinal i .ok (modKey h (fun _ =>
      { state := .loaded, ctx := ef a.entry 5 0 8, key := leBytes (j.args.getD 0 0) 32
        salt := leBytes (j.args.getD 1 0) 16 }) b)) ∧
    (j.use = .bindOp oid → ksFinish j b = completeOp oid b) ∧
    (j.use = .teardown → j.op = .remove → ksFinish j b = modKey j.handle (fun _ => keyZero) b)) ∧
  (∀ (b : Block) (j : KsJob) (h : Nat) (r : Revoke), j.use = .revokeStep h →
    b.sec.revokes.find? (·.handle == h) = some r →
    (r.step = 2 → ksFinish j b
      = modRevoke h (fun r => { r with step := 3, dead := hubNow b + 2 ^ b.sec.tdLog2 }) b) ∧
    (r.step = 4 → ksFinish j b = admFinal r.adm .ok (modKey h (fun _ => keyZero)
      { b with sec := { b.sec with revokes := b.sec.revokes.filter (·.handle != h) } }))) ∧
  (∀ (b : Block) (cs : List Instr) (inst : Nat) (j : KsJob), running b = true → ksInst b inst = true →
    j ∈ b.sec.jobs → j.issued = true → inst ∈ j.insts → j.dead < hubNow b →
    exec (.keySidebandAckExpiry inst) ⟨b, cs⟩ = nextAfter (report (ftlReport 0x22) b) cs) ∧
  (∀ (b : Block) (cs : List Instr) (inst : Nat), running b = true → ksInst b inst = true →
    exec (.ksDrop inst) ⟨b, cs⟩ = nextAfter { b with sec := { b.sec with late := satAdd 32 b.sec.late 1 } } cs) ∧
  (∀ (b : Block) (cs : List Instr) (port : Nat) (t : Teardown) (ts : List Teardown), running b = true → port < nPorts b →
    b.sec.tds = t :: ts → t.step = 3 → bitOf b.sec.tdLink port = true →
    exec (.ksDrainAck port) ⟨b, cs⟩ = nextAfter { b with
      sec := { b.sec with tdLink := clrBit b.sec.tdLink port }
      out := .ksFence port false (ctxOf b t.ctx).ast :: b.out } cs) ∧
  (∀ (b : Block) (cs : List Instr) (r : TrReq), running b = true → b.sec.tr = some r →
    let w : Block := { b with sec := { b.sec with tr := none } }
    (∀ c i, r.use = .create c i → exec .trAck ⟨b, cs⟩ = nextAfter (ctxCreated c i w) cs) ∧
    (r.use = .teardown ∨ r.use = .late ∧ r.op = 0 → exec .trAck ⟨b, cs⟩ = nextAfter w cs) ∧
    (r.use = .late → r.op = 1 → exec .trAck ⟨b, cs⟩ =
      let q : TrReq := { op := 0, ast := r.ast, dead := hubNow b + 2 ^ b.sec.tdLog2, use := .late, expired := false }
      nextAfter { b with sec := { b.sec with tr := some q }, out := .tr 0 r.ast :: b.out } cs)) ∧
  (∀ (b : Block) (cs : List Instr) (r : TrReq), running b = true → b.sec.tr = some r → r.expired = false →
    r.dead < hubNow b →
    (∀ c i, r.use = .create c i → exec .trAckExpiry ⟨b, cs⟩ =
      let q : TrReq := { r with expired := true, use := .late }
      nextAfter (admFinal i .noResource { b with sec := { b.sec with tr := some q } }) cs) ∧
    (∀ t ts, r.use = .teardown → b.sec.tds = t :: ts → exec .trAckExpiry ⟨b, cs⟩ =
      let q : TrReq := { r with expired := true }
      nextAfter (admReply t.adm .deferred 0xFFFFFFFF [] false { b with sec := { b.sec with
        tr := some q, tds := { t with deferred := true } :: ts } }) cs))

/-- R127, R258, R323, R347, R348: each step of a teardown begins when the one before has ended: SUSPEND for every key slot of
the context, abort of its operations, the drain fences, the tag revoke, REMOVE, the scrub; after it the context is FREE with
nothing left, and CTX_DESTROY is answered. The drain bound records the ports, reports each mosaic slot the context used, and
goes on with the revoke; the same bound ends the wait of a KEY_REVOKE (R346). The model's choices (log entry 39): one teardown
runs at a time, the scrub is over before step 6 ends, and a timeout noted in the cycle of a clearing read is kept (log entry
46). -/
def Obligations.TeardownSteps : Prop :=
  (∀ (b : Block) (cs : List Instr) (t : Teardown) (ts : List Teardown), serving b = true → b.sec.tds = t :: ts →
    let at_ (n : Nat) (r : Block) : Block := { r with sec := { r.sec with tds := { t with step := n, dead := 0 } :: ts } }
    (t.step = 0 → exec .teardownStep ⟨b, cs⟩ =
      let r := at_ 1 { b with sec := { b.sec with tdCtx := t.ctx } }
      nextAfter ((slotsOfCtx (admFinals (importsOf r t.ctx) .ctxTornDown r) t.ctx).foldl (fun b h =>
        ksAdd .suspend h [] (memInsts b) .teardown (modKey h (fun k => { k with state := .revoking }) b))
        (admFinals (importsOf r t.ctx) .ctxTornDown r)) cs) ∧
    (t.step = 1 → (∀ j ∈ b.sec.jobs, j.use ≠ .teardown) →
      exec .teardownStep ⟨b, cs⟩ = nextAfter (tdStep2 t (at_ 2 b)) cs) ∧
    (t.step = 2 → (∀ e ∈ b.seq.seqrs, ∀ k ∈ banksOf e.2, k.ctx ≠ t.ctx) →
      exec .teardownStep ⟨b, cs⟩ = nextAfter (tdStep3 t (at_ 3 b)) cs) ∧
    (t.step = 3 → drained b t = true →
      exec .teardownStep ⟨b, cs⟩ = nextAfter (tdEnter 4 t (tdDrainEnd t b)) cs) ∧
    (t.step = 4 → t.dead = 0 → b.sec.tr = none → exec .teardownStep ⟨b, cs⟩ =
      let due := hubNow b + 2 ^ b.sec.tdLog2
      let q : TrReq := { op := 0, ast := (ctxOf b t.ctx).ast, dead := due, use := .teardown, expired := false }
      nextAfter { b with
        sec := { b.sec with tr := some q, tds := { t with dead := due } :: ts }
        out := .tr 0 (ctxOf b t.ctx).ast :: b.out } cs) ∧
    (t.step = 4 → t.dead ≠ 0 → b.sec.tr = none → exec .teardownStep ⟨b, cs⟩ = nextAfter (tdStep5 t (at_ 5 b)) cs) ∧
    (t.step = 5 → (∀ j ∈ b.sec.jobs, j.use ≠ .teardown) →
      exec .teardownStep ⟨b, cs⟩ = nextAfter (tdStep6 t (at_ 6 b)) cs) ∧
    (t.step = 6 → t.scrubEnd ≤ hubNow b → exec .teardownStep ⟨b, cs⟩ = nextAfter (tdFree t b) cs)) ∧
  (∀ (b : Block) (t : Teardown) (c : Nat), t.ctx = c → ctxOf (tdFree t b) c = ctxZero) ∧
  (∀ (b : Block) (t : Teardown),
    let r := tdStep6 t b
    tget chainZero r.sec.chains t.ctx = chainZero ∧ tget 0 r.sec.skey t.ctx = 0 ∧ tget [] r.sec.folds t.ctx = []
      ∧ (∀ x ∈ r.sec.bindings, x.ctx ≠ t.ctx)) ∧
  (∀ (b : Block) (cs : List Instr) (t : Teardown) (ts : List Teardown), serving b = true → b.sec.tds = t :: ts →
    t.step = 3 → t.dead < hubNow b → drained b t = false →
    let w := noteCycle .tdTimeout { b with sec := { b.sec with tdTimeout := true } }
    let r := t.slots.foldl (fun b k => startPart k 0x1C none none (report (uccReport 0x1C 5 k .stateLost 0) b)) w
    r.flt.stale = false →
    exec .teardownDrainExpiry ⟨b, cs⟩ = nextAfter (revokeExpiry (tdEnter 4 t (tdDrainEnd t r))) cs) ∧
  (∀ (b : Block) (cs : List Instr) (r : Revoke), serving b = true → b.sec.tds = [] → b.sec.revokes = [r] → r.step = 3 →
    r.dead < hubNow b →
    exec .teardownDrainExpiry ⟨b, cs⟩
      = nextAfter (revokeRemove r.handle (noteCycle .tdTimeout { b with sec := { b.sec with tdTimeout := true } })) cs)

/-- R144, R328, R351, R358 to R361, R364 to R370, R374: a report counts at its source, which becomes ACTIVE for its quiet period;
one that was QUIET sets its class bit with the bit's vector, in stalemate too; outside stalemate a record is written, except of
a CE source that was ACTIVE already, and a fatal report enters stalemate before its record. A source returns to QUIET at its
expiry; the watchdog of a queue that owes progress halts it with HANG once its bound has been passed, unless a wait cycle that
names the queue is declared in that cycle (R144: the declaration is made instead); a partition reset goes through its steps; the
collector's own fault enters stalemate by the hardwired path; an expired lease stops every queue. The model's choices: the class
bit follows a source that becomes ACTIVE, not the class of a repeated error, and the record of an FTL follows the entry (log entry
34); step 2 of a partition reset ends when no pass of the slot is left (log entry 43). -/
def Obligations.FaultCommands : Prop :=
  (∀ (b : Block) (r : Report) (s : Src), b.flt.forcing = 0 → r.forced = false → s = tget srcZero b.flt.srcs r.src →
    let errors := satAdd 32 s.errors 1
    let w : Src := { s with active := true, cls := r.cls, scope := r.scope, errors := errors
                            dead := hubNow b + 2 ^ b.flt.quietLog2 }
    let c : Block := { b with flt := { b.flt with lastSrc := r.src, srcs := tset srcZero b.flt.srcs r.src w } }
    (b.flt.stale = true → s.active = true → report r b = c) ∧
    (b.flt.stale = true → s.active = false → report r b = sumSet r.cls c) ∧
    (b.flt.stale = false → r.cls = .ce → s.active = true → report r b = c) ∧
    (b.flt.stale = false → r.cls = .ce → s.active = false →
      report r b = logWrite (logRecord (sumSet .ce c) r errors) (sumSet .ce c)) ∧
    (b.flt.stale = false → r.cls = .ucc → s.active = true → report r b = logWrite (logRecord c r errors) c) ∧
    (b.flt.stale = false → r.cls = .ucc → s.active = false →
      report r b = logWrite (logRecord (sumSet .ucc c) r errors) (sumSet .ucc c)) ∧
    (b.flt.stale = false → r.cls = .ftl →
      let t := enterStalemate (if r.src = 0x3F then 2 else if r.src = 0x25 then 3 else 1) r.src c
      report r b = logWrite (logRecord t r errors) t)) ∧
  (∀ (b : Block), (sumSet .ce b).flt.sumCe = true ∧ (sumSet .ucc b).flt.sumUcc = true ∧
    (b.flt.sumCe = true → sumSet .ce b = b) ∧ (b.flt.sumUcc = true → sumSet .ucc b = b) ∧
    (b.flt.sumCe = false → b.flt.ceIrq = true →
      sumSet .ce b = msix 1025 { b with flt := { b.flt with sumCe := true } }) ∧
    (b.flt.sumUcc = false → sumSet .ucc b = msix 1025 { b with flt := { b.flt with sumUcc := true } })) ∧
  (∀ (b : Block) (reason src : Nat), b.flt.stale = false →
    let r := enterStalemate reason src b
    r.flt.stale = true ∧ r.flt.reason = reason ∧ r.flt.src = src ∧ r.flt.fatalPin = true ∧ keysGone r = true) ∧
  (∀ (b : Block) (cs : List Instr), clocked b = true →
    exec .entropyHealthFail ⟨b, cs⟩ = nextAfter (report (ftlReport 0x23) b) cs) ∧
  (∀ (b : Block) (cs : List Instr) (src : Nat), clocked b = true → src < 64 →
    let r := tget srcZero b.flt.srcs src
    r.active = true → r.dead < hubNow b →
    let w : Src := { r with active := false, recov := satAdd 16 r.recov 1 }
    exec (.quietPeriodExpiry src) ⟨b, cs⟩
      = nextAfter { b with flt := { b.flt with srcs := tset srcZero b.flt.srcs src w } } cs) ∧
  (∀ (b : Block) (cs : List Instr) (q : Nat) (s : Sub), serving b = true → q < nQueues b → b.flt.wdEn = true →
    owes b q = true → 2 ^ b.flt.wdLog2 < tget 0 b.flt.wd q →
    (queueOf b q).subs.find? (fun s => s.fail.isNone && (inlineWaits s || (opsOfSub b s.sid).any Op.live)) = some s →
    inlineWaits s = true → (∀ d, wcdFound b = some d → q ∉ d) →
    let f : Failure := { status := .hang, kind := 0, detail := 0xFFFFFFFF }
    exec (.hangWatchdogExpiry q) ⟨b, cs⟩
      = nextAfter (progress q (report (uccReport 0x15 3 q .hang 0xFFFFFFFF) (failSub q s.sid f b))) cs) ∧
  (∀ (b : Block) (cs : List Instr) (q : Nat) (d : List Nat), serving b = true → q < nQueues b → b.flt.wdEn = true →
    owes b q = true → 2 ^ b.flt.wdLog2 < tget 0 b.flt.wd q → wcdFound b = some d → q ∈ d →
    exec (.hangWatchdogExpiry q) ⟨b, cs⟩ = nextAfter (wcdDeclare d b) cs) ∧
  (∀ (b : Block) (cs : List Instr) (slot : Nat) (p : PartRst), serving b = true → slot < 64 →
    tget none b.flt.parts slot = some p →
    let r : Block := modPart slot (fun p => { p with step := p.step + 1 }) b
    (p.step = 1 → exec (.partResetStep slot) ⟨b, cs⟩ = nextAfter (partStep2 slot p r) cs) ∧
    (p.step = 2 → noPasses b slot = true → exec (.partResetStep slot) ⟨b, cs⟩ = nextAfter (partStep3 slot r) cs) ∧
    (p.step = 3 → p.lanes = [] → exec (.partResetStep slot) ⟨b, cs⟩ = nextAfter (partStep4 slot p r) cs) ∧
    (p.step = 4 → exec (.partResetStep slot) ⟨b, cs⟩ = nextAfter (partStep5 slot r) cs) ∧
    (p.step = 5 → p.ranges = [] → p.out = 0 → exec (.partResetStep slot) ⟨b, cs⟩ = nextAfter (partStep6 slot r) cs) ∧
    (p.step = 6 → exec (.partResetStep slot) ⟨b, cs⟩
      = nextAfter (admFinals p.adms .ok { r with flt := { r.flt with parts := tset none r.flt.parts slot none } }) cs)) ∧
  (∀ (b : Block) (cs : List Instr) (s : Src), clocked b = true → b.flt.stale = false → b.flt.forcing = 0 →
    s = tget srcZero b.flt.srcs 0x3F →
    let w : Src := { s with active := true, cls := .ftl, scope := 6, errors := satAdd 32 s.errors 1
                            dead := hubNow b + 2 ^ b.flt.quietLog2 }
    exec .collectorSelfFault ⟨b, cs⟩ =
      let r : Block := { b with flt := { b.flt with srcs := tset srcZero b.flt.srcs 0x3F w } }
      let t := enterStalemate 2 0x3F r
      nextAfter (logWrite (logRecord t (ftlReport 0x3F) (satAdd 32 s.errors 1)) t) cs) ∧
  (∀ (b : Block) (cs : List Instr) (d : Nat), running b = true →
    b.flt.leaseDead = some d → d < refNow b → b.bat.loops = [] →
    exec .hostLeaseExpiry ⟨b, cs⟩ = nextAfter (report (ceReport 0x1F) { b with
      hub := { b.hub with
        leaseExpired := true, queues := tmap queueZero b.hub.queues (fun _ r => { r with leaseStop := true }) }
      flt := { b.flt with leaseDead := none, expiries := satAdd 16 b.flt.expiries 1 } }) cs)

/-- R363, R372: a clock loss drives `fault_fatal_n` low, `hp_blk_up` low and `ks_kinv` high and clears the key slots; at
the clock's return `hp_blk_up` rises again and the fatal source 0x24 is reported. BYPASS selects the bypass register, IDCODE
tells configuration and stepping, SCAN and MBIST enter stalemate with reason TEST and zero the image tables and every SRAM
but log and dump, UNLOCK unlocks while TEST_LOCK is 0. The model's choices (log entry 36): UNLOCK acts once the fuses have been
read, SCAN and MBIST write no record, and an instruction acts with or without CLK_ROOT; accesses held for PD_HUB are dropped at a
clock loss, since the host interface controller answers then (log entry 30). -/
def Obligations.ClockAndTest : Prop :=
  (∀ (b : Block) (cs : List Instr), released b = true → b.flt.clockLost = false →
    exec .clockLoss ⟨b, cs⟩ = nextAfter { b with
      flt := { b.flt with clockLost := true, fatalPin := true }, hub := { b.hub with blkUp := false, held := [] }
      sec := { b.sec with slots := [], kinv := true }
      out := [.ksInvalid true, .blkUp false, .faultFatal true] ++ b.out } cs) ∧
  (∀ (b : Block) (cs : List Instr), released b = true → b.flt.clockLost = true → b.pwr.step = 9 →
    exec .clockReturn ⟨b, cs⟩ = nextAfter (report (ftlReport 0x24) { b with
      flt := { b.flt with clockLost := false }, hub := { b.hub with blkUp := true }
      out := .blkUp true :: b.out }) cs) ∧
  (∀ (b : Block) (cs : List Instr), released b = true →
    exec .bypass ⟨b, cs⟩ = nextAfter { b with flt := { b.flt with tapSel := 0 } } cs ∧
    exec .idcode ⟨b, cs⟩ = nextAfter { b with
      flt := { b.flt with tapSel := 1 }, out := .testReg (0x5143 * 2 ^ 16 + 0xB0 * 2 ^ 8 + b.fuses.config.code) :: b.out } cs) ∧
  (∀ (b : Block) (cs : List Instr), released b = true → b.flt.stale = false →
    let zeroed (k : Nat) : Block :=
      let r := closing (enterStalemate 4 0 { b with flt := { b.flt with tapSel := k } })
      { r with
        hub := { hubReset with blkUp := r.hub.blkUp, held := r.hub.held }, dep := depReset, dsp := dspReset, seq := seqReset, bat := batReset
        fab := { r.fab with epochs := [], map := [], redirects := [] }, sch := schReset, adm := admReset
        pwr := { r.pwr with img := { r.pwr.img with active := none, staged := none } } }
    exec .scan ⟨b, cs⟩ = nextAfter (zeroed 2) cs ∧ exec .mbist ⟨b, cs⟩ = nextAfter (zeroed 3) cs) ∧
  (∀ (b : Block) (cs : List Instr), released b = true →
    (b.fuses.testLock = false → 3 ≤ b.pwr.step →
      exec .unlock ⟨b, cs⟩ = nextAfter { b with flt := { b.flt with tapSel := 4, unlock := true } } cs) ∧
    (b.fuses.testLock = true →
      exec .unlock ⟨b, cs⟩ = nextAfter { b with flt := { b.flt with tapSel := 4 } } cs))

/-! ### Power (R381 to R393) -/

/-- R371, R372, R382 to R389, R395: PGOOD ends a domain's exit, the clamps and the retention going first, in start-up bringing
the next domain, in stalemate nothing but the supply; an idle expiry begins the entry unless a condition refuses it, which is
counted. An entry that a condition refuses in its first two cycles ends, the domain ON again and its command refused; otherwise
the clamps are set in cycle 2, retention in cycle 3, the supply goes in cycle 4, and in cycle 5 the domain is in its target
state, its command is answered, and OFF loses what it held. (The cycles of an entry are driven by the idle steps, a refusal in
the first two aborts it, the reply of a PD_SET is written before the loss of an OFF, and in stalemate or a clock loss a PGOOD
brings the supply alone: the model's choices, log entry 24.) The DVFS sequencer goes from
write to poll to divider upward and from divider to write to poll downward, ends as done or failed, and a failed rise writes
the voltage that was written before it back; the settle bound counts from the end of the write frame (log entry 25). -/
def Obligations.DomainsAndDvfs : Prop :=
  (∀ (b : Block) (cs : List Instr) (d : Nat), released b = true → 1 ≤ d → d < 5 + nSeqrs b / 8 →
    (domOf b d).st = .leaving →
    let m := domOf b d
    let u : Block := emit (.pdIso d false) (emit (.pdRet d false) b)
    let r : Block := modDom d (fun m => { m with st := .on, fromOff := false, adms := [], idleAt := none }) u
    (b.pwr.step ≠ 3 → b.flt.stale = false → b.flt.clockLost = false →
      exec (.pgoodRise d) ⟨b, cs⟩ =
        let s := if m.fromOff then domStart d r else r
        let w := admFinals m.adms .ok (if d = 3 then replayRx s else s)
        nextAfter (if d = 1 then replayMmio w else w) cs) ∧
    (b.pwr.step ≠ 3 → b.flt.stale = true → d ≠ 1 → d ≠ 3 → exec (.pgoodRise d) ⟨b, cs⟩ = nextAfter r cs) ∧
    (b.pwr.step = 3 → d ≠ 1 → exec (.pgoodRise d) ⟨b, cs⟩
      = nextAfter (startDomain (modDom d (fun m => { m with st := .on }) u)) cs)) ∧
  (∀ (b : Block) (cs : List Instr) (d t : Nat), released b = true → 1 ≤ d → d < 5 + nSeqrs b / 8 →
    (domOf b d).st = .on → (domOf b d).idleEn = true → (domOf b d).idleAt = some t → t + (domOf b d).idle < refNow b →
    (refuser b d (domOf b d).idleOff none = 0 →
      exec (.domainIdleExpiry d) ⟨b, cs⟩ = nextAfter (modDom d (fun m => { m with
        st := .entering, fromOff := false, idleAt := none, entAt := refNow b, entOff := (domOf b d).idleOff
        entAdm := none, entStep := 0, latched := none }) b) cs) ∧
    (∀ c, refuser b d (domOf b d).idleOff none = c → c ≠ 0 →
      exec (.domainIdleExpiry d) ⟨b, cs⟩
        = nextAfter (modDom d (fun m => { m with refused := satAdd 16 m.refused 1, refuser := c }) b) cs)) ∧
  (∀ (b : Block) (d n c : Nat), running b = true → d ≠ 1 → d ≠ 3 → (domOf b d).st = .entering →
    (domOf b d).entStep < 2 → refuser b d (domOf b d).entOff (domOf b d).entAdm = c → c ≠ 0 →
    entrySteps d (n + 1) b =
      let m := domOf b d
      let r := modDom d (fun m => { m with refused := satAdd 16 m.refused 1, refuser := c })
        (modDom d (fun m => { m with st := .on, adms := [], entAdm := none, latched := none }) b)
      let w := admFinals m.adms .ok r
      match m.entAdm with
      | some i => admReply i .badState 16 [] true w
      | none => w) ∧
  (∀ (b : Block) (d n : Nat), (domOf b d).st = .entering → (domOf b d).entStep < 2 →
    refuser b d (domOf b d).entOff (domOf b d).entAdm = 0 →
    (refNow b ≤ (domOf b d).entAt + (domOf b d).entStep → entrySteps d (n + 1) b = b) ∧
    ((domOf b d).entAt + (domOf b d).entStep < refNow b →
      entrySteps d (n + 1) b =
        let r := modDom d (fun m => { m with entStep := m.entStep + 1 }) b
        entrySteps d n (if (domOf b d).entStep = 1 then emit (.pdIso d true) r else r))) ∧
  (∀ (b : Block) (d n : Nat), running b = true → (domOf b d).st = .entering → (domOf b d).entStep = 2 →
    (domOf b d).entAt + 4 < refNow b →
    entrySteps d (n + 4) b =
      let m := domOf b d
      let r := modDom d (fun m => { m with
        entStep := 5, st := if m.entOff then .off else .ret, entAdm := none })
        (emit (.pdSwitch d false) (if m.entOff then b else emit (.pdRet d true) b))
      let w := match m.entAdm with | some i => admFinal i .ok r | none => r
      if m.entOff then domLose d (admFlush w) else w) ∧
  (∀ (b : Block) (cs : List Instr), released b = true →
    let d := b.pwr.dvfs
    let w (x : Dvfs) : Block := { b with pwr := { b.pwr with dvfs := x } }
    (d.phase = .upWrite → exec .avsTargetWriteDone ⟨b, cs⟩
      = nextAfter (w { d with phase := .upPoll, dead := some (refNow b + d.settle) }) cs) ∧
    (d.phase = .downWrite → exec .avsTargetWriteDone ⟨b, cs⟩
      = nextAfter (w { d with phase := .downPoll, dead := some (refNow b + d.settle) }) cs) ∧
    (d.phase = .emergWrite → exec .avsTargetWriteDone ⟨b, cs⟩ = nextAfter (w { d with phase := .idle, dead := none }) cs)) ∧
  (∀ (b : Block) (cs : List Instr) (mv : Nat), released b = true →
    let d := b.pwr.dvfs
    let w (x : Dvfs) : Block := { b with pwr := { b.pwr with dvfs := x } }
    (d.phase = .upPoll → mv + 10 < d.seqVolt → exec (.avsReadvout mv) ⟨b, cs⟩ = nextAfter b cs) ∧
    (d.phase = .upPoll → d.seqVolt ≤ mv + 10 → b.time.divStep = d.seqStep → exec (.avsReadvout mv) ⟨b, cs⟩
      = nextAfter (dvfsEnd true (w { d with volt := d.seqVolt })) cs) ∧
    (d.phase = .upPoll → d.seqVolt ≤ mv + 10 → b.time.divStep ≠ d.seqStep → exec (.avsReadvout mv) ⟨b, cs⟩ =
      let r := w { d with volt := d.seqVolt, phase := .upDiv, dead := some (refNow b + 64) }
      let was := b.time.oldStep.getD b.time.divStep
      nextAfter { r with
        time := { r.time with divStep := d.seqStep, oldStep := if was = d.seqStep then none else some was }
        out := .divStep d.seqStep :: r.out } cs) ∧
    (d.phase = .downPoll → d.seqVolt ≤ mv + 10 → mv ≤ d.seqVolt + 10 → exec (.avsReadvout mv) ⟨b, cs⟩
      = nextAfter (dvfsEnd true (w { d with volt := d.seqVolt })) cs)) ∧
  (∀ (b : Block) (cs : List Instr), released b = true →
    let d := b.pwr.dvfs
    let w (v : Nat) (x : Dvfs) : Block := { b with pwr := { b.pwr with dvfs := { x with wrote := v } }, out := .avs v :: b.out }
    (d.phase = .upDiv → exec .divAck ⟨b, cs⟩ = nextAfter (dvfsEnd true b) cs) ∧
    (d.phase = .downDiv → exec .divAck ⟨b, cs⟩
      = nextAfter (w d.seqVolt { d with phase := .downWrite, dead := none }) cs) ∧
    (d.phase = .emergDiv → exec .divAck ⟨b, cs⟩
      = nextAfter (w b.fuses.vsafeMv.toNat { d with phase := .emergWrite, dead := none }) cs)) ∧
  (∀ (b : Block) (cs : List Instr) (t : Nat), released b = true → b.pwr.dvfs.dead = some t → t < refNow b →
    let d := b.pwr.dvfs
    (d.phase = .upPoll → exec .dvfsSettleExpiry ⟨b, cs⟩
      = nextAfter (dvfsEnd false { b with
        pwr := { b.pwr with dvfs := { d with wrote := d.prevVolt } }, out := .avs d.prevVolt :: b.out }) cs) ∧
    (d.phase = .downPoll → exec .dvfsSettleExpiry ⟨b, cs⟩ = nextAfter (dvfsEnd false b) cs) ∧
    (d.phase = .upDiv ∨ d.phase = .downDiv → exec .divAckExpiry ⟨b, cs⟩ = nextAfter (dvfsEnd false b) cs)) ∧
  (∀ (b : Block) (ok : Bool), b.pwr.dvfs.adm = none → b.pwr.dvfs.defers = [] →
    dvfsEnd ok b = { b with pwr := { b.pwr with dvfs := { b.pwr.dvfs with
      phase := .idle, dead := none, fails := if ok then b.pwr.dvfs.fails else satAdd 16 b.pwr.dvfs.fails 1 } } }) ∧
  (∀ (b : Block) (i : Nat) (c : AdmCmd) (ok : Bool), b.pwr.dvfs.adm = some i → b.pwr.dvfs.defers = [] →
    admOf b i = some c → c.replied = false →
    dvfsEnd ok b =
      let r : Block := { b with pwr := { b.pwr with dvfs := { b.pwr.dvfs with
        phase := .idle, dead := none, adm := none, fails := if ok then b.pwr.dvfs.fails else satAdd 16 b.pwr.dvfs.fails 1 } } }
      admReply i (if ok then .ok else .badState) 0xFFFFFFFF [b.time.divStep * 2 ^ 16 + b.pwr.dvfs.volt] true r)

/-- R324, R389 to R393: a power sample is held against the ceiling: above it the governor goes one step down, or at DIV12
counts towards the placement hold; 16 in a row at 15/16 of it or less let it go one step up towards the target, a sequence
that starts with that step; a step down starts one too. The first
input to fall starts the emergency: DIV12 or, there already, the safe voltage; a running sequence is deferred, its
command told so; source 0x20 or 0x21 reported; with both inputs high
CLEAR_HOLD runs, and its end moves the sequencer to the latest target. The model's choices (log entry 25): samples are in
milliwatts, the first is due 25,000 CLK_REF cycles after step 6 and none is taken in recovery; an acknowledgement of DIV12 that an
interrupted sequence awaits is awaited before VSAFE is written, which with the divider at DIV12 already is at once. -/
def Obligations.PowerAndEmergency : Prop :=
  (∀ (b : Block) (cs : List Instr) (rails : List Nat) (im : Image), released b = true → b.pwr.img.active = some im →
    7 ≤ b.pwr.step → b.pwr.sampleDue ≤ refNow b → domOn b 1 = true →
    exec (.powerSample rails) ⟨b, cs⟩ =
      let mw := (rails.take im.rails.length).sum + modulesMw b
      nextAfter (governSample mw { b with
        pwr := { b.pwr with
          samples := (b.pwr.samples + 1) % 2 ^ 32, milliwatts := mw % 2 ^ 32, sampleDue := b.pwr.sampleDue + 25000 }
        sch := { b.sch with powSum := b.sch.powSum + mw, powN := b.sch.powN + 1 } }) cs) ∧
  (∀ (b : Block) (mw : Nat),
    let c := 1000 * ceilingW b
    let w (x : Dvfs) : Block := { b with pwr := { b.pwr with dvfs := x } }
    let d := b.pwr.dvfs
    (c < mw → b.time.divStep < 4 → b.pwr.emerg.active = false → d.phase = .idle → governSample mw b =
      let r := w { d with lows := 0, highs := 0, governed := true }
      startSeq (b.time.divStep + 1) (stepVolt r (b.time.divStep + 1)) none r) ∧
    (c < mw → 4 ≤ b.time.divStep → governSample mw b =
      w { d with lows := 0, highs := min 16 (d.highs + 1), hold := d.hold || min 16 (d.highs + 1) == 16 }) ∧
    (mw ≤ c → 16 * mw ≤ 15 * c → d.lows < 15 →
      governSample mw b = w { d with highs := 0, hold := false, lows := d.lows + 1 }) ∧
    (mw ≤ c → 16 * mw ≤ 15 * c → 15 ≤ d.lows → b.time.divStep ≤ d.target →
      governSample mw b = w { d with highs := 0, hold := false, lows := 0 }) ∧
    (mw ≤ c → 16 * mw ≤ 15 * c → 15 ≤ d.lows → d.target < b.time.divStep → b.pwr.emerg.active = false → d.phase = .idle →
      governSample mw b =
        let r := w { d with highs := 0, hold := false, lows := 0 }
        startSeq (b.time.divStep - 1) (stepVolt r (b.time.divStep - 1)) none r) ∧
    (mw ≤ c → 16 * mw ≤ 15 * c → 15 ≤ d.lows → d.target < b.time.divStep → b.pwr.emerg.active = false → d.phase ≠ .idle →
      governSample mw b = w { d with highs := 0, hold := false, lows := 0, gov := 2 }) ∧
    (mw ≤ c → 15 * c < 16 * mw → governSample mw b = w { d with highs := 0, hold := false, lows := 0 })) ∧
  (∀ (b : Block) (t v : Nat) (i : Option Nat),
    let d := b.pwr.dvfs
    let s := b.time.divStep
    (t < s ∨ t = s ∧ d.wrote < v → startSeq t v i b = { b with
      pwr := { b.pwr with dvfs := { d with
        phase := .upWrite, seqStep := t, seqVolt := v, prevVolt := d.wrote, wrote := v, dead := none, adm := i, gov := 0 } }
      out := .avs v :: b.out }) ∧
    (s < t → startSeq t v i b =
      let was := b.time.oldStep.getD s
      { b with
        pwr := { b.pwr with dvfs := { d with
          phase := .downDiv, seqStep := t, seqVolt := v, prevVolt := d.wrote, dead := some (refNow b + 64), adm := i, gov := 0 } }
        time := { b.time with divStep := t, oldStep := if was = t then none else some was }, out := .divStep t :: b.out }) ∧
    (t = s → v ≤ d.wrote → startSeq t v i b = { b with
      pwr := { b.pwr with dvfs := { d with
        phase := .downWrite, seqStep := t, seqVolt := v, prevVolt := d.wrote, wrote := v, dead := none, adm := i, gov := 0 } }
      out := .avs v :: b.out })) ∧
  (∀ (b : Block) (cs : List Instr), released b = true → b.pwr.emerg.active = false → b.pwr.dvfs.adm = none →
    let e : Emerg := { b.pwr.emerg with
      trip := true, active := true, clearDead := none, entries := satAdd 16 b.pwr.emerg.entries 1 }
    let d (p : DvfsPhase) (dead : Option Nat) : Dvfs :=
      { b.pwr.dvfs with phase := p, dead := dead, gov := 0, governed := false }
    let was := b.time.oldStep.getD b.time.divStep
    (b.time.divStep ≠ 4 → exec (.emergencyEntry .thermTrip) ⟨b, cs⟩ = nextAfter (report (ceReport 0x20) { b with
      pwr := { b.pwr with emerg := e, dvfs := d .emergDiv (some (refNow b + 64)) }
      time := { b.time with divStep := 4, oldStep := if was = 4 then none else some was }, out := .divStep 4 :: b.out }) cs) ∧
    (b.time.divStep = 4 → b.pwr.dvfs.phase = .downDiv →
      exec (.emergencyEntry .thermTrip) ⟨b, cs⟩ = nextAfter (report (ceReport 0x20) { b with
        pwr := { b.pwr with emerg := e, dvfs := d .emergDiv (some (refNow b + 64)) } }) cs) ∧
    (b.time.divStep = 4 → b.pwr.dvfs.phase ≠ .downDiv →
      exec (.emergencyEntry .thermTrip) ⟨b, cs⟩ = nextAfter (report (ceReport 0x20) { b with
        pwr := { b.pwr with emerg := e, dvfs := { d .emergWrite none with wrote := b.fuses.vsafeMv.toNat } }
        out := .avs b.fuses.vsafeMv.toNat :: b.out }) cs)) ∧
  (∀ (b : Block) (i : Nat), b.pwr.dvfs.adm = some i →
    interruptSeq b = admReply i .deferredEmergency 0xFFFFFFFF [] false { b with pwr := { b.pwr with
      dvfs := { b.pwr.dvfs with
        deferred := true, defers := b.pwr.dvfs.defers ++ [i], adm := none, phase := .idle, dead := none, gov := 0
        governed := false } } }) ∧
  (∀ (b : Block) (cs : List Instr), released b = true → b.pwr.emerg.active = true →
    exec (.emergencyEntry .alert) ⟨b, cs⟩
      = nextAfter { b with pwr := { b.pwr with emerg := { b.pwr.emerg with alert := true, clearDead := none } } } cs) ∧
  (∀ (b : Block) (cs : List Instr), released b = true → b.pwr.emerg.active = true →
    let e := b.pwr.emerg
    (e.alert = false → exec (.emergencyInputRise .thermTrip) ⟨b, cs⟩ = nextAfter { b with pwr := { b.pwr with
      emerg := { e with trip := false, clearDead := some (refNow b + e.clearHold) } } } cs) ∧
    (e.alert = true → exec (.emergencyInputRise .thermTrip) ⟨b, cs⟩
      = nextAfter { b with pwr := { b.pwr with emerg := { e with trip := false } } } cs)) ∧
  (∀ (b : Block) (cs : List Instr) (t : Nat), released b = true → b.pwr.emerg.active = true → b.pwr.emerg.trip = false →
    b.pwr.emerg.alert = false → b.pwr.emerg.clearDead = some t → t < refNow b →
    exec .emergencyClearExpiry ⟨b, cs⟩ =
      let r : Block := { b with pwr := { b.pwr with
        emerg := { b.pwr.emerg with active := false, clearDead := none }
        dvfs := { b.pwr.dvfs with deferred := false, governed := false, lows := 0, highs := 0 } } }
      nextAfter (startSeq b.pwr.dvfs.target (stepVolt r b.pwr.dvfs.target) none r) cs)

/-! ### The machine as a whole -/

/-- A step runs the command at the front of the queue on the block, with the rest of the queue kept; the block puts no command
on the queue and drops none, refuses none, and a command whose unit the configuration has is carried out. With none waiting one
CLK_HUB cycle passes, eight cycles of CLK_ROOT, and what was noted of the cycle is over; but none of CLK_ROOT passes while it is
lost, when CLK_REF alone goes on (R8, R20, R363). That commands wait in a queue and act one after another in its order, and that
an empty queue stands for a cycle, is the model's choice (log entries 1 and 46). -/
def Obligations.StepRunsFront : Prop :=
  (∀ (b : Block) (c : Instr) (cs : List Instr), step ⟨b, c :: cs⟩ = exec c ⟨b, cs⟩) ∧
  (∀ (s t : State), step s = .next t → t.pending = s.pending.tail) ∧
  (∀ (b : Block) (c : Instr) (cs : List Instr), unitExists b.fuses.config c = true →
    ∃ t : State, step ⟨b, c :: cs⟩ = .next t ∧ t.pending = cs) ∧
  (∀ (b : Block) (c : Instr) (cs : List Instr), unitExists b.fuses.config c = false →
    step ⟨b, c :: cs⟩ = .fault .absentUnit) ∧
  (∀ (b : Block), step ⟨b, []⟩ = .next ⟨tick b, []⟩) ∧
  (∀ (b : Block), serving b = false → serving (domCycles (passTime b)) = false →
    tick b = ending (domCycles (passTime b))) ∧
  (∀ (b : Block), serving b = true → serving (domCycles (passTime (noteWaits b))) = true →
    tick b = ending (workCycle (edgesNext b.time).1 (domCycles (passTime (noteWaits b))))) ∧
  (∀ (b : Block), b.flt.clockLost = false →
    (passTime b).time.root = b.time.root + 8 ∧ (passTime b).time.lost = b.time.lost ∧ (passTime b).time.notes = []
      ∧ (passTime b).time.seq = b.time.seq + (edgesNext b.time).1) ∧
  (∀ (b : Block), b.flt.clockLost = true →
    (passTime b).time.root = b.time.root ∧ (passTime b).time.lost = b.time.lost + 8
      ∧ (passTime b).time.seq = b.time.seq)

/-- What ends every command leaves a block in which nothing waits as it is. That the consequences of a command and the replies
that it owes end it, before the next command or cycle, is the model's choice (log entries 1 and 46). -/
def Obligations.EndingQuiet : Prop :=
  ∀ (b : Block), quiet b = true → ending b = b

/-- R373: in stalemate, no step but one of a reset leaves it: not a write, an admin command, the lease, a quiet period, a
wrapper instruction or the passing of time; its record stays as the entry wrote it. A reset leaves it. -/
def Obligations.StalemateExits : Prop :=
  ∀ (s t : State), s.flt.stale = true → step s = .next t →
    (leavesStalemate s = true → t.flt.stale = false) ∧
    (leavesStalemate s = false → t.flt.stale = true ∧ t.flt.reason = s.flt.reason ∧ t.flt.src = s.flt.src
      ∧ t.flt.entry = s.flt.entry ∧ (s.flt.fatalPin = true → t.flt.fatalPin = true))

/-- R351, R370, R371: from a state in stalemate whose keys are gone, every step leaves the keys gone, and drives no host
request, vector, tile operation, descriptor, key sideband operation, tag request or flash operation. -/
def Obligations.StalemateLocked : Prop :=
  ∀ (s t : State), s.flt.stale = true → keysGone s.toBlock = true → step s = .next t →
    keysGone t.toBlock = true ∧ t.out.filter Output.isWork = s.out.filter Output.isWork

/-- R351, R370, R394: after reset the keys are gone and the block is not in stalemate; the entry into stalemate takes the
keys, drives `fault_fatal_n` low and `ks_kinv` high and nothing else at once but the failing answers of the reads that waited
for PD_HUB, which then waits for nothing, and is made once. -/
def Obligations.StalemateEntered : Prop :=
  (State.reset.flt.stale = false ∧ keysGone State.reset.toBlock = true ∧ State.reset.pending = []) ∧
  (∀ (reason src : Nat) (b : Block), b.flt.stale = false →
    let t := enterStalemate reason src b
    t.flt.stale = true ∧ t.flt.reason = reason ∧ t.flt.src = src ∧ t.flt.fatalPin = true ∧ keysGone t = true
      ∧ t.flt.stalemates = satAdd 16 b.flt.stalemates 1 ∧ t.flt.parts = [] ∧ t.hub.held = []
      ∧ t.out = (b.hub.held.filterMap heldAnswer).reverse ++ [.ksInvalid true, .faultFatal true] ++ b.out) ∧
  (∀ (reason src : Nat) (b : Block), b.flt.stale = true → enterStalemate reason src b = b)
end

