-- ==== Sys2Proof/Laws/Exec.lean ====
section
/-! SUPPORT. What the shared forms of a command's meaning answer. -/

namespace Sys2Proof.Machine

variable {b : Block} {cs : List Instr} {f : Block → Block}

theorem effect_eq : effect f ⟨b, cs⟩ = nextAfter (f b) cs := rfl

theorem afterAccess_eq : nextAfter (wake 1 2 b) cs = afterAccess b cs := rfl

theorem afterBeat_eq : nextAfter (wake 3 4 b) cs = afterBeat b cs := rfl

/-- Driving outputs one after another puts them on the trace, the last first, and changes nothing else. -/
theorem emitAll_eq (os : List Output) (b : Block) : emitAll os b = { b with out := os.reverse ++ b.out } := by
  induction os generalizing b with
  | nil => rfl
  | cons o os ih => rw [emitAll, ih]; simp [emit]

theorem power_eq (h : released b = true) : power f ⟨b, cs⟩ = nextAfter (f b) cs := by
  simp [power, effect_eq, guarded, h]

theorem timed_eq (h : clocked b = true) : timed f ⟨b, cs⟩ = nextAfter (f b) cs := by
  simp [timed, effect_eq, guarded, h]

theorem live_eq (h : running b = true) : live f ⟨b, cs⟩ = nextAfter (f b) cs := by
  simp [live, effect_eq, guarded, h]

theorem work_eq (h : serving b = true) : work f ⟨b, cs⟩ = nextAfter (f b) cs := by
  simp [work, effect_eq, guarded, h]

theorem live_idle (h : running b = false) : live f ⟨b, cs⟩ = nextAfter b cs := by
  simp [live, effect_eq, guarded, h]

theorem work_idle (h : serving b = false) : work f ⟨b, cs⟩ = nextAfter b cs := by
  simp [work, effect_eq, guarded, h]

theorem atUnit_eq {ok : Bool} {o : Host.Outcome State Fault Refusal} (h : ok = true) : atUnit ok o = o := by
  simp [atUnit, h]

theorem running_of_serving (h : serving b = true) : running b = true := by
  simp [serving] at h; exact h.1.1

theorem clocked_of_running (h : running b = true) : clocked b = true := by
  simp [running] at h; exact h.1

theorem released_of_clocked (h : clocked b = true) : released b = true := by
  simp [clocked] at h; exact h.1

theorem domOn_of_serving (h : serving b = true) : domOn b 1 = true := by
  simp [serving] at h; exact h.2

/-- A write that reaches a register's row does what the register does with it. -/
theorem mmio_full {a : MmioWrite} {r : Reg} (h : reaches b a r = true) (hf : a.be = 0xFF) :
    mmio (.write false a) b = wake 1 2 (regWrite r a.data.toNat b) := by
  simp only [reaches, hubOpen, Bool.and_eq_true, beq_iff_eq, Bool.not_eq_true'] at h
  obtain ⟨⟨⟨⟨⟨⟨h1, h2⟩, h3⟩, h4⟩, h5⟩, h6⟩, h7⟩ := h
  simp [mmio, h1, h2, h3, acceptMmio, acceptWrite, h4, bar0Write, h5, h6, h7, hf]

theorem mmio_partial {a : MmioWrite} {r : Reg} (h : reaches b a r = true) (hf : a.be ≠ 0xFF) :
    mmio (.write false a) b = wake 1 2 (partialWrite r b) := by
  simp only [reaches, hubOpen, Bool.and_eq_true, beq_iff_eq, Bool.not_eq_true'] at h
  obtain ⟨⟨⟨⟨⟨⟨h1, h2⟩, h3⟩, h4⟩, h5⟩, h6⟩, h7⟩ := h
  simp [mmio, h1, h2, h3, acceptMmio, acceptWrite, h4, bar0Write, h5, h6, h7]
  rw [if_neg (show ¬a.be = 255#8 from hf)]

theorem regAt_of_reaches {a : MmioWrite} {r : Reg} (h : reaches b a r = true) : regAt b a.addr.toNat = some r := by
  simp only [reaches, Bool.and_eq_true, beq_iff_eq] at h; exact h.2

/-- The row of a register's own: a write that reaches a register that the row selects. -/
theorem regRow_full {a : MmioWrite} {r : Reg} {p : Reg → Bool} (h : reaches b a r = true) (hf : a.be = 0xFF)
    (hp : p r = true) : regRow p a b = wake 1 2 (regWrite r a.data.toNat b) := by
  simp [regRow, regAt_of_reaches h, hp, mmio_full h hf]

theorem mmio_write2 {a : MmioWrite} (h : hubOpen b = true) : mmio (.write true a) b = wake 1 2 (bar2Write a b) := by
  simp only [hubOpen, Bool.and_eq_true, Bool.not_eq_true'] at h
  obtain ⟨⟨⟨h1, h2⟩, h3⟩, h4⟩ := h
  simp [mmio, h1, h2, h3, acceptMmio, acceptWrite, h4]

theorem mmio_read {bar2 : Bool} {a : BitVec 24} {fn : Bool} {id : BitVec 3} (h1 : b.hub.blkUp = true)
    (h2 : domOn b 1 = true) (h3 : b.hub.held = []) :
    mmio (.read bar2 a fn id) b = wake 1 2 (acceptRead bar2 a fn id b) := by
  simp [mmio, h1, h2, h3, acceptMmio]

/-! ### Admin commands -/

theorem admReady_parts {i opc : Nat} {e : List Byte} (h : admReady b i opc e = true) :
    serving b = true ∧ ∃ c, admAt b opc (i % 1024) = some c ∧ c.idx = i ∧ c.entry = e ∧ commonCheck c = none := by
  simp only [admReady, Bool.and_eq_true] at h
  refine ⟨h.1, ?_⟩
  cases hc : admAt b opc (i % 1024) with
  | none => simp [hc] at h
  | some c => simpa [hc, and_assoc, Option.isNone_iff_eq_none] using h.2

/-- The row of an admin command that is ready does what the command does. -/
theorem adminRow_ready {i opc : Nat} {e : List Byte} {f : Nat → List Byte → Block → Block}
    (h : admReady b i opc e = true) : adminRow opc (i % 1024) f b = f i e (admStarted i b) := by
  obtain ⟨h1, c, hc, hi, he, h3⟩ := admReady_parts h
  subst he hi
  simp only [adminRow, hc, domOn_of_serving h1, h3]
  rw [if_neg (by simp)]
  rfl

theorem adminWork_ready {i opc : Nat} {e : List Byte} {f : Nat → List Byte → Block → Block}
    (h : admReady b i opc e = true) :
    atUnit (decide (i % 1024 < 1024)) (work (adminRow opc (i % 1024) f) ⟨b, cs⟩) = nextAfter (f i e (admStarted i b)) cs := by
  obtain ⟨h1, _⟩ := admReady_parts h
  rw [atUnit_eq (by simpa using Nat.mod_lt i (by decide)), work_eq h1, adminRow_ready h]

end Sys2Proof.Machine
end

