-- ==== Sys2Proof/Laws/Quiet.lean ====
section
/-! SUPPORT. What ends a command does nothing for a unit in which nothing waits. -/

namespace Sys2Proof.Machine

variable {b : Block}

theorem settleTurns_quiet (h1 : b.bat.loops = []) (h2 : b.bat.pools = []) : settleTurns b = b := by
  simp [settleTurns, h1, h2]

theorem settleColls_quiet (h : b.fab.colls = []) : settleColls b = b := by simp [settleColls, h]

theorem settleMosaics_quiet (h : b.fab.slots = []) (hm : b.fab.mig = none) : settleMosaics b = b := by
  simp [settleMosaics, h, migRun, migStep, hm]

theorem settleSched_quiet (h : b.sch.slots = []) (hm : b.sch.spans = []) : settleSched b = b := by
  have e : { b with sch := { b.sch with spans := b.sch.spans.filter (fun s => !spanOver b s) } } = b := by
    rw [hm, List.filter_nil, ← hm]
  unfold settleSched
  rw [e]
  simp [h]

theorem settleRevokes_quiet (h : b.sec.revokes = []) : settleRevokes b = b := by simp [settleRevokes, h]

theorem settleResets_quiet (h : b.adm.cmds = []) : settleResets b = b := by simp [settleResets, h]

theorem admPump_quiet (h : b.adm.cmds = []) : admPump b = b := by simp [admPump, h]

theorem settleParts_quiet (h : b.flt.parts = []) : settleParts b = b := by simp [settleParts, h]

theorem settlePools_quiet (h : b.bat.pools = []) : settlePools b = b := by simp [settlePools, h]

theorem ksPump_quiet (h : b.sec.jobs = []) : ksPump b = b := by
  simp only [ksPump, h, ksReady, List.zip_nil_left, List.filter_nil, List.map_nil, List.foldl_nil]
  rw [← h]

theorem capture_none (h : b.flt.capDue = none) : capture b = b := by simp [capture, h]

theorem freshHello_none (h : b.flt.freshDue = false) : freshHello b = b := by simp [freshHello, h]

theorem closing_quiet (h : b.flt.capDue = none) (hf : b.flt.freshDue = false) : closing b = b := by
  simp [closing, capture_none h, freshHello_none hf]

theorem admFlush_none (h : b.adm.due = []) : admFlush b = b := by simp [admFlush, h]

/-- In reset the end of a command only makes the capture that is due. -/
theorem ending_in_reset (h : b.pwr.step = 0) (hd : b.adm.due = []) : ending b = closing b := by
  simp [ending, settle, clocked, released, h, admFlush_none hd]

end Sys2Proof.Machine
end

