-- ==== Sys2Proof/Laws/Reports.lean ====
section
/-! SUPPORT. What vectors, replies, the summary and the invalidation of programs leave alone. -/

namespace Sys2Proof.Machine

theorem hub_msix (v : Nat) (b : Block) : (msix v b).hub.ctxs = b.hub.ctxs := by
  unfold msix; split <;> rfl
theorem bat_msix (v : Nat) (b : Block) : (msix v b).bat = b.bat := by
  unfold msix; split <;> rfl
theorem bat_sumSet (b : Block) : (sumSet .ce b).bat = b.bat := by
  unfold sumSet; dsimp only; split
  · rw [bat_msix]
  · rfl
theorem hub_admDone (i : Nat) (st : Status) (l : List Nat) (b : Block) : (admDone i st l b).hub.ctxs = b.hub.ctxs := by
  unfold admDone
  split
  · rfl
  · split
    · rfl
    · unfold admReply
      split
      · rfl
      · rfl
theorem sec_invalidate (p : Nat → Bool) (b : Block) : (invalidate p b).sec = b.sec := by
  rfl

/-- The answers that stalemate entry owes admin commands leave the faults and the keys alone. -/
theorem staleReplies_keep (b : Block) : (staleReplies b).flt = b.flt ∧ (staleReplies b).sec = b.sec := by
  unfold staleReplies admFinals
  generalize b.adm.cmds.map (·.idx) = l
  induction l generalizing b with
  | nil => exact ⟨rfl, rfl⟩
  | cons x l ih =>
    rw [List.foldl_cons, (ih _).1, (ih _).2]; unfold admFinal admReply; split <;> exact ⟨rfl, rfl⟩

/-- The answers that stalemate entry owes MMIO accesses leave the faults and the keys alone. -/
theorem staleHeld_keep (b : Block) : (staleHeld b).flt = b.flt ∧ (staleHeld b).sec = b.sec := by
  unfold staleHeld
  have key : ∀ (l : List Mmio) (c : Block), (l.foldl (fun b m => match m with
    | .read _ _ _ id => emit (.mmioResp id.toNat 0 true) b
    | .write _ _ => b) c).flt = c.flt ∧ (l.foldl (fun b m => match m with
    | .read _ _ _ id => emit (.mmioResp id.toNat 0 true) b
    | .write _ _ => b) c).sec = c.sec := by
    intro l
    induction l with
    | nil => exact fun c => ⟨rfl, rfl⟩
    | cons x l ih => intro c; rw [List.foldl_cons, (ih _).1, (ih _).2]; cases x <;> exact ⟨rfl, rfl⟩
  exact key _ _

/-- The summary does not move stalemate. -/
theorem sumSet_stale (c : Cls) (b : Block) : (sumSet c b).flt.stale = b.flt.stale := by
  have m : ∀ (v : Nat) (b : Block), (msix v b).flt = b.flt := by intro v b; unfold msix; split <;> rfl
  cases c <;> unfold sumSet <;> dsimp only <;> (try split) <;> simp [m]

end Sys2Proof.Machine
end

