-- ==== Sys2Proof/Laws/Serdo.lean ====
section
/-! SUPPORT. What a received Serdo message of a row's type does, and what sending one leaves alone. -/

namespace Sys2Proof.Machine

theorem serdo_typ {b : Block} {port t m} (h : serdoReady b port t m = true) : m.typ = t := by
  simp only [serdoReady, Bool.and_eq_true, decide_eq_true_eq, beq_iff_eq] at h
  exact h.1.1.2

theorem serdo_ready {b : Block} {cs port t m} (h : serdoReady b port t m = true) :
    atUnit (decide (port < nPorts b)) (live (serdoRow t port m) ⟨b, cs⟩) = afterBeat (serdoAct port m b) cs := by
  simp only [serdoReady, Bool.and_eq_true, decide_eq_true_eq, beq_iff_eq] at h
  simp only [Bool.not_eq_true', bne_iff_ne] at h
  obtain ⟨⟨⟨⟨⟨⟨⟨⟨⟨h1, h0⟩, h2⟩, h3⟩, h6⟩, h7⟩, h4⟩, h5⟩, h8⟩, h9⟩ := h
  subst h5
  rw [atUnit_eq (by simpa using h2), live_eq h1, serdoRow, if_pos rfl]
  have h0' : ¬ b.pwr.step < 7 := by omega
  simp only [serdoIn, serdoGate, h3, h4, h6, h8, h9, afterBeat]
  simp [h7, h0']

theorem mos_ready {b b' : Block} {cs port t m k} (h : mosaicReady b port t m k b' = true) :
    atUnit (decide (port < nPorts b)) (live (serdoRow t port m) ⟨b, cs⟩) = afterBeat (serdoAct port m b) cs ∧ m.typ = t ∧ mosaicAccept m b = (some k, b') := by
  simp only [mosaicReady, Bool.and_eq_true, beq_iff_eq] at h
  exact ⟨serdo_ready h.1, serdo_typ h.1, h.2⟩

theorem bat_sendMos (typ : Nat) (body : List Byte) (k d : Nat) (b : Block) : (sendMos typ body k d b).bat = b.bat := by
  unfold sendMos; split <;> rfl
theorem bat_foldSend (typ : Nat) (body : List Byte) (k : Nat) (l : List Nat) (b : Block) :
    (l.foldl (fun b d => sendMos typ body k d b) b).bat = b.bat := by
  induction l generalizing b with
  | nil => rfl
  | cons x l ih => rw [List.foldl_cons, ih, bat_sendMos]
theorem loop_sendDown (typ : Nat) (body : List Byte) (k : Nat) (b : Block) (j : Nat) :
    loopOf (sendDown typ body k b) j = loopOf b j := by
  simp only [loopOf, sendDown, bat_foldSend]

theorem fab_foldEmit (g : Nat → Output) (l : List Nat) (b : Block) :
    (l.foldl (fun b p => emit (g p) b) b).fab = b.fab := by
  induction l generalizing b with
  | nil => rfl
  | cons x l ih => rw [List.foldl_cons, ih]; rfl

end Sys2Proof.Machine
end

