-- ==== Sys2Proof/Laws/Stalemate.lean ====
section
/-! SUPPORT. What the shared operations keep of a block in stalemate: its record, its gone keys and the work it drives. -/

namespace Sys2Proof.Machine

/-- What a step in stalemate keeps. -/
structure Keeps (b c : Block) : Prop where
  st : c.flt.stale = b.flt.stale
  re : c.flt.reason = b.flt.reason
  sr : c.flt.src = b.flt.src
  en : c.flt.entry = b.flt.entry
  fp : b.flt.fatalPin = true → c.flt.fatalPin = true
  kg : keysGone b = true → keysGone c = true
  ou : c.out.filter Output.isWork = b.out.filter Output.isWork

theorem Keeps.refl (b : Block) : Keeps b b := ⟨rfl, rfl, rfl, rfl, id, id, rfl⟩
theorem Keeps.trans {a b c : Block} (h : Keeps a b) (g : Keeps b c) : Keeps a c :=
  ⟨g.st.trans h.st, g.re.trans h.re, g.sr.trans h.sr, g.en.trans h.en, fun x => g.fp (h.fp x), fun x => g.kg (h.kg x), g.ou.trans h.ou⟩
/-- What leaves the faults, the keys and the outputs alone keeps it all. -/
theorem Keeps.same {b c : Block} (h1 : c.flt = b.flt) (h2 : c.sec = b.sec) (h3 : c.out = b.out) : Keeps b c :=
  ⟨by rw [h1], by rw [h1], by rw [h1], by rw [h1], by rw [h1]; exact id, by simp only [keysGone, h2]; exact id, by rw [h3]⟩
theorem Keeps.pre {b b' c : Block} (k : Keeps b' c) (h1 : b'.flt = b.flt) (h2 : b'.sec = b.sec) (h3 : b'.out = b.out) : Keeps b c :=
  (Keeps.same h1 h2 h3).trans k
theorem keeps_emit (o : Output) (b : Block) (h : o.isWork = false) : Keeps b (emit o b) :=
  ⟨rfl, rfl, rfl, rfl, id, id, by simp [Machine.emit, h]⟩
theorem Keeps.emit {b : Block} {o : Output} (h : o.isWork = false) : Keeps b (emit o b) :=
  ⟨rfl, rfl, rfl, rfl, id, id, by simp [Machine.emit, h]⟩
theorem keeps_flt (b : Block) (n : Nat) (f : Flt) (h1 : f.stale = b.flt.stale) (h2 : f.reason = b.flt.reason) (h3 : f.src = b.flt.src)
    (h4 : f.entry = b.flt.entry) (h5 : b.flt.fatalPin = true → f.fatalPin = true) : Keeps b { b with fresh := n, flt := f } :=
  ⟨h1, h2, h3, h4, h5, id, rfl⟩
theorem Keeps.fold {α} {f : Block → α → Block} {P : Block → Prop} (hf : ∀ b x, P b → Keeps b (f b x)) (hP : ∀ b c, P b → Keeps b c → P c) :
    ∀ (l : List α) (b : Block), P b → Keeps b (l.foldl f b)
  | [], b, _ => .refl b
  | x :: l, b, h => by
    simp only [List.foldl_cons]
    exact (hf b x h).trans (Keeps.fold hf hP l _ (hP _ _ h (hf b x h)))

abbrev Stale (b : Block) : Prop := b.flt.stale = true
theorem stale_keeps (b c : Block) (h : Stale b) (k : Keeps b c) : Stale c := by rw [Stale, k.st]; exact h

theorem keeps_wakeOne (d s : Nat) (b : Block) : Keeps b (wakeOne d s b) := by
  simp only [wakeOne]
  repeat' split
  all_goals first | exact .refl b | exact Keeps.same rfl rfl rfl | exact Keeps.trans (Keeps.same (c := modDom d _ b) rfl rfl rfl) (Keeps.emit rfl)

theorem keeps_wake (d s : Nat) (b : Block) : Keeps b (wake d s b) := by
  simp only [wake]; split
  · exact keeps_wakeOne d s b
  · exact (keeps_wakeOne 1 8 b).trans (keeps_wakeOne d s _)

theorem keeps_acceptRead (x : Bool) (a : BitVec 24) (fn : Bool) (id : BitVec 3) (b : Block) (h : Stale b) : Keeps b (acceptRead x a fn id b) := by
  simp only [acceptRead, h]
  repeat' split
  all_goals first | exact Keeps.emit rfl | skip
  all_goals simp_all

theorem keeps_acceptMmio (m : Mmio) (b : Block) (h : Stale b) : Keeps b (acceptMmio m b) := by
  cases m with
  | write x a => simp only [acceptMmio, acceptWrite, h]; exact .refl b
  | read x a fn id => exact keeps_acceptRead x a fn id b h

theorem keeps_mmio (m : Mmio) (b : Block) (h : Stale b) : Keeps b (mmio m b) := by
  simp only [mmio]; repeat' split
  · exact .refl b
  · exact (keeps_acceptMmio m b h).trans (keeps_wake 1 2 _)
  · exact (keeps_wake 1 2 _).pre rfl rfl rfl

theorem keeps_regRow (p a) (b : Block) (h : Stale b) : Keeps b (regRow p a b) := by
  simp only [regRow]; repeat' split
  all_goals first | exact .refl b | exact keeps_mmio _ b h
theorem keeps_bellRow (p a) (b : Block) (h : Stale b) : Keeps b (bellRow p a b) := by
  simp only [bellRow]; repeat' split
  all_goals first | exact .refl b | exact keeps_mmio _ b h

theorem keeps_msix (v) (b : Block) (h : Stale b) : Keeps b (msix v b) := by
  simp [msix, h]; exact .refl b

theorem keeps_admReply (i st d r fin) (b : Block) (_ : Stale b) : Keeps b (admReply i st d r fin b) := by
  simp only [admReply]; split
  · exact .refl b
  · exact Keeps.same rfl rfl rfl

theorem keeps_admFinals (is : List Nat) (st) (b : Block) (h : Stale b) : Keeps b (admFinals is st b) :=
  Keeps.fold (P := Stale) (fun b i h => keeps_admReply i st _ _ _ b h) (fun _ _ h k => stale_keeps _ _ h k) is b h

theorem keeps_admPut (r) (b : Block) (h : Stale b) : Keeps b (admPut r b) := by
  simp only [admPut]; split
  · exact Keeps.pre (keeps_msix _ _ h) rfl rfl rfl
  · exact Keeps.same rfl rfl rfl

theorem keeps_admFlush (b : Block) (h : Stale b) : Keeps b (admFlush b) := by
  unfold admFlush; split
  · exact .refl b
  · exact Keeps.pre (b' := { b with adm := { b.adm with due := [] } })
      (Keeps.fold (P := Stale) (fun b r h => keeps_admPut r b h) (fun _ _ h k => stale_keeps _ _ h k) _ _ h) rfl rfl rfl

theorem keeps_admDone (i st r) (b : Block) (h : Stale b) : Keeps b (admDone i st r b) := by
  simp only [admDone]; split
  · exact .refl b
  · split
    · exact Keeps.same rfl rfl rfl
    · exact keeps_admReply _ _ _ _ _ b h

theorem keeps_startSeq (t v a) (b : Block) : Keeps b (startSeq t v a b) := by
  simp only [startSeq]
  repeat' split
  all_goals exact Keeps.pre (keeps_emit _ _ rfl) rfl rfl rfl

theorem keeps_govern (w) (b : Block) : Keeps b (govern w b) := by
  simp only [govern]
  repeat' split
  all_goals first
    | exact .refl b
    | exact Keeps.same rfl rfl rfl
    | exact Keeps.pre (keeps_startSeq _ _ _ _) rfl rfl rfl

theorem keeps_idleCount (d) (b : Block) : Keeps b (idleCount d b) := by
  simp only [idleCount]; repeat' split
  all_goals first | exact .refl b | exact Keeps.same rfl rfl rfl

theorem keeps_settlePower (b : Block) : Keeps b (settlePower b) := by
  simp only [settlePower]
  have h1 : Keeps b (if b.pwr.dvfs.gov ≠ 0 ∧ b.pwr.dvfs.phase = .idle then govern b.pwr.dvfs.gov (modDvfs (fun d => { d with gov := 0 }) b) else b) := by
    split
    · exact Keeps.pre (keeps_govern _ _) rfl rfl rfl
    · exact .refl b
  exact h1.trans (Keeps.fold (P := fun _ => True) (fun b x _ => keeps_idleCount x b) (fun _ _ _ _ => trivial) _ _ trivial)

theorem serving_stale {b : Block} (h : Stale b) : serving b = false := by simp [serving, running, h]
theorem running_stale {b : Block} (h : Stale b) : running b = false := by simp [running, h]

theorem keeps_note (n) (b : Block) : Keeps b (noteCycle n b) := Keeps.same rfl rfl rfl

theorem keeps_capture (b : Block) : Keeps b (capture b) := by
  unfold capture; split
  · exact .refl b
  · refine Keeps.trans ?_ (keeps_note _ _)
    exact keeps_flt b _ _ rfl rfl rfl rfl id

theorem keeps_sendPort (t body p) (b : Block) : Keeps b (sendPort t body p b) := by
  simp only [sendPort, bumpSeq]
  exact (Keeps.emit (b := b) (o := .serdo p (neighbour b p t body)) rfl).trans (Keeps.same rfl rfl rfl)

theorem keeps_freshHello (b : Block) : Keeps b (freshHello b) := by
  simp only [freshHello]; split
  · have h0 : Keeps b { b with flt := { b.flt with freshDue := false } } := ⟨rfl, rfl, rfl, rfl, id, id, rfl⟩
    refine h0.trans ?_
    simp only [helloAll]
    exact Keeps.fold (P := fun _ => True) (fun b x _ => keeps_sendPort _ _ _ b) (fun _ _ _ _ => trivial) _ _ trivial
  · exact .refl b

theorem keeps_closing (b : Block) : Keeps b (closing b) := (keeps_capture b).trans (keeps_freshHello _)

theorem keeps_ending (b : Block) (h : Stale b) : Keeps b (ending b) := by
  have : Keeps b (settle b) := by
    simp only [settle, serving_stale h]
    split
    · exact keeps_settlePower b
    · exact .refl b
  exact this.trans ((keeps_admFlush _ (stale_keeps _ _ h this)).trans (keeps_closing _))

theorem keeps_domLose (d : Nat) (b : Block) : Keeps b (domLose d b) := by
  unfold domLose; split
  · exact .refl b
  · exact ⟨rfl, rfl, rfl, rfl, id, id, rfl⟩
  · exact Keeps.same rfl rfl rfl
  · exact Keeps.same rfl rfl rfl
  · exact ⟨rfl, rfl, rfl, rfl, id, fun _ => rfl, by simp [Machine.emit, Output.isWork]⟩
  · exact Keeps.same rfl rfl rfl

theorem keeps_replayMmio (b : Block) (h : Stale b) : Keeps b (replayMmio b) := by
  unfold replayMmio; split
  · exact Keeps.pre (b' := { b with hub := { b.hub with held := [] } })
      (Keeps.fold (P := Stale) (fun b m h => keeps_acceptMmio m b h) (fun _ _ h k => stale_keeps _ _ h k) _ _ h) rfl rfl rfl
  · exact .refl b

theorem keeps_domBack (d : Nat) (b : Block) (h : Stale b) : Keeps b (domBack d b) := by
  unfold domBack; rw [running_stale h]
  repeat' split
  all_goals first | exact .refl b | exact keeps_replayMmio b h | simp_all

theorem keeps_entryAbort (d c : Nat) (b : Block) (h : Stale b) : Keeps b (entryAbort d c b) := by
  have e : Keeps b (pdRefuse d c (modDom d (fun m => { m with st := .on, adms := [], entAdm := none, latched := none }) b)) :=
    Keeps.same rfl rfl rfl
  have r' := running_stale (stale_keeps _ _ h e)
  simp only [entryAbort]
  have k := keeps_domBack d _ (stale_keeps _ _ h e)
  cases (domOf b d).entAdm <;> simp only [entryReply, r', if_neg Bool.false_ne_true] <;> exact e.trans k

theorem keeps_entryAction (d n : Nat) (b : Block) (h : Stale b) : Keeps b (entryAction d n b) := by
  unfold entryAction
  split
  · exact Keeps.emit rfl
  · dsimp only; split
    · exact .refl b
    · exact Keeps.emit rfl
  · exact Keeps.emit rfl
  · have e : Keeps b (modDom d (fun m => { m with st := if m.entOff then .off else .ret, entAdm := none }) b) := Keeps.same rfl rfl rfl
    have r := running_stale (stale_keeps _ _ h e)
    have f : ∀ i, entryReply i (fun i b => admFinal i .ok b)
        (modDom d (fun m => { m with st := if m.entOff then .off else .ret, entAdm := none }) b) =
        modDom d (fun m => { m with st := if m.entOff then .off else .ret, entAdm := none }) b := by
      intro i; cases i <;> simp [entryReply, r]
    simp only [f]
    split
    · exact e.trans ((keeps_admFlush _ (stale_keeps _ _ h e)).trans (keeps_domLose d _))
    · exact e
  · exact .refl b

theorem keeps_entrySteps (d : Nat) : ∀ (n : Nat) (b : Block), Stale b → Keeps b (entrySteps d n b)
  | 0, b, _ => .refl b
  | n + 1, b, h => by
    simp only [entrySteps]
    split
    · exact .refl b
    split
    · exact keeps_entryAbort d _ b h
    split
    · exact .refl b
    · have e : Keeps b (modDom d (fun m => { m with entStep := m.entStep + 1 }) b) := Keeps.same rfl rfl rfl
      have a := e.trans (keeps_entryAction d ((domOf b d).entStep + 1) _ (stale_keeps _ _ h e))
      exact a.trans (keeps_entrySteps d n _ (stale_keeps _ _ h a))

theorem keeps_domCycle (d : Nat) (b : Block) (h : Stale b) : Keeps b (domCycle d b) := by
  have e := keeps_entrySteps d 6 b h
  simp only [domCycle]
  split
  · split
    · exact e.trans ((keeps_wake d _ _).pre rfl rfl rfl)
    · exact e
  · exact e

theorem keeps_domCycles (b : Block) (h : Stale b) : Keeps b (domCycles b) := by
  simp only [domCycles]; split
  · exact Keeps.fold (P := Stale) (fun b x h => keeps_domCycle x b h) (fun _ _ h k => stale_keeps _ _ h k) _ _ h
  · exact .refl b

theorem keeps_tick (b : Block) (h : Stale b) : Keeps b (tick b) := by
  have hp : Keeps b (passTime b) := by simp only [passTime]; split <;> exact Keeps.same rfl rfl rfl
  have hd := hp.trans (keeps_domCycles _ (stale_keeps _ _ h hp))
  have hs := stale_keeps _ _ h hd
  have he := hd.trans (keeps_ending _ hs)
  simp only [tick, serving_stale h, if_neg Bool.false_ne_true]
  rw [if_neg (by simp [serving_stale hs])]
  exact he

theorem keeps_sumSet (x : Cls) (b : Block) (h : Stale b) : Keeps b (sumSet x b) := by
  have m : ∀ c : Block, c.flt.stale = true → msix 1025 c = c := by intro c hc; simp [msix, hc]
  cases x <;> simp only [sumSet]
  · rw [m { b with flt := { b.flt with sumCe := true } } h, ite_self]; exact ⟨rfl, rfl, rfl, rfl, id, id, rfl⟩
  · rw [m { b with flt := { b.flt with sumUcc := true } } h, ite_self]; exact ⟨rfl, rfl, rfl, rfl, id, id, rfl⟩
  · exact .refl b

theorem keeps_report (r) (b : Block) (h : Stale b) : Keeps b (report r b) := by
  have key : ∀ (c : Block) (f : Block → Block), Keeps b c → Keeps b (if c.flt.stale then c else f c) := by
    intro c f k; rw [if_pos (stale_keeps b c h k)]; exact k
  let w (s : Src) : Src := { s with
    active := true, cls := r.cls, scope := r.scope, errors := satAdd 32 s.errors 1, dead := hubNow b + 2 ^ b.flt.quietLog2 }
  let c (s : Src) : Block := { b with flt := { b.flt with
    srcs := tset srcZero b.flt.srcs r.src (w s), lastSrc := r.src } }
  have e : ∀ s : Src, Keeps b (if s.active = true then c s else sumSet r.cls (c s)) := by
    intro s
    have k : Keeps b (c s) := ⟨rfl, rfl, rfl, rfl, id, id, rfl⟩
    split
    · exact k
    · exact k.trans (keeps_sumSet r.cls (c s) h)
  exact key _ (fun c =>
    let r := { r with forced := r.forced || b.flt.forcing == r.src + 1 }
    let s := tget srcZero b.flt.srcs r.src
    let c := if r.cls == .ftl then enterStalemate (staleReason r.src) r.src c else c
    if r.cls == .ce && s.active then c else logWrite (logRecord c r (satAdd 32 s.errors 1)) c) (e _)

end Sys2Proof.Machine
end

