-- ==== Sys2Proof/Laws/Tables.lean ====
section
/-! SUPPORT. The laws of sparse tables: a read after a write, and the canonical form that every operation keeps. -/

namespace Sys2Proof.Machine

variable {α : Type}

theorem tget_terase_same (d : α) (t : Table α) (j : Nat) : tget d (terase t j) j = d := by
  induction t with
  | nil => rfl
  | cons e t ih =>
    obtain ⟨k, v⟩ := e
    simp only [terase]
    split
    · exact ih
    · rename_i h; simp only [tget, h, if_false]; exact ih

theorem tget_terase_other (d : α) (t : Table α) {i j : Nat} (h : i ≠ j) : tget d (terase t j) i = tget d t i := by
  induction t with
  | nil => rfl
  | cons e t ih =>
    obtain ⟨k, v⟩ := e
    simp only [terase]
    split
    · rename_i hk
      subst hk
      simp only [tget, h, if_false]
      exact ih
    · simp only [tget]
      split
      · rfl
      · exact ih

theorem tget_tinsert_same (d : α) (t : Table α) (j : Nat) (v : α) (h : ∀ e ∈ t, e.1 ≠ j) :
    tget d (tinsert j v t) j = v := by
  induction t with
  | nil => simp [tinsert, tget]
  | cons e t ih =>
    obtain ⟨k, w⟩ := e
    have hk : k ≠ j := h (k, w) (by simp)
    simp only [tinsert]
    split
    · simp [tget]
    · simp only [tget, Ne.symm hk, if_false]
      exact ih (fun e he => h e (by simp [he]))

theorem tget_tinsert_other (d : α) (t : Table α) {i j : Nat} (v : α) (h : i ≠ j) :
    tget d (tinsert j v t) i = tget d t i := by
  induction t with
  | nil => simp [tinsert, tget, h]
  | cons e t ih =>
    obtain ⟨k, w⟩ := e
    simp only [tinsert]
    split
    · simp [tget, h]
    · simp only [tget]
      split
      · rfl
      · exact ih

theorem terase_key {t : Table α} {j : Nat} {e : Nat × α} (h : e ∈ terase t j) : e ∈ t ∧ e.1 ≠ j := by
  induction t with
  | nil => simp [terase] at h
  | cons x t ih =>
    obtain ⟨k, v⟩ := x
    simp only [terase] at h
    split at h
    · have := ih h
      exact ⟨List.mem_cons_of_mem _ this.1, this.2⟩
    · rename_i hk
      rcases List.mem_cons.mp h with rfl | h
      · exact ⟨by simp, fun e => hk e.symm⟩
      · have := ih h
        exact ⟨List.mem_cons_of_mem _ this.1, this.2⟩

variable [DecidableEq α]

/-- A read of the key just written gives the value written. -/
@[simp] theorem tget_tset_same (d : α) (t : Table α) (j : Nat) (v : α) : tget d (tset d t j v) j = v := by
  simp only [tset]
  split
  · rename_i h; rw [tget_terase_same, h]
  · exact tget_tinsert_same d _ j v (fun e he => (terase_key he).2)

/-- A write leaves every other key alone. -/
theorem tget_tset_other (d : α) (t : Table α) {i j : Nat} (v : α) (h : i ≠ j) : tget d (tset d t j v) i = tget d t i := by
  simp only [tset]
  split
  · exact tget_terase_other d t h
  · rw [tget_tinsert_other d _ v h, tget_terase_other d t h]

@[simp] theorem tget_tmod_same (d : α) (t : Table α) (j : Nat) (f : α → α) : tget d (tmod d t j f) j = f (tget d t j) :=
  tget_tset_same d t j _

theorem tget_tmod_other (d : α) (t : Table α) {i j : Nat} (f : α → α) (h : i ≠ j) :
    tget d (tmod d t j f) i = tget d t i := tget_tset_other d t _ h

/-! ### The canonical form -/

/-- The canonical form as a statement about the list. -/
theorem twf_iff (d : α) (t : Table α) :
    twf d t = true ↔ t.Pairwise (fun a b => a.1 < b.1) ∧ ∀ e ∈ t, e.2 ≠ d := by
  induction t with
  | nil => simp [twf]
  | cons e t ih =>
    obtain ⟨k, v⟩ := e
    cases t with
    | nil => simp [twf]
    | cons e' t =>
      obtain ⟨k', v'⟩ := e'
      simp only [twf, Bool.and_eq_true, decide_eq_true_eq, ih]
      constructor
      · rintro ⟨⟨h1, h2⟩, h3, h4⟩
        refine ⟨List.Pairwise.cons ?_ h3, ?_⟩
        · intro e he
          rcases List.mem_cons.mp he with rfl | he
          · exact h1
          · have := (List.pairwise_cons.mp h3).1 e he
            exact Nat.lt_trans h1 this
        · intro e he
          rcases List.mem_cons.mp he with rfl | he
          · exact h2
          · exact h4 e he
      · rintro ⟨h1, h2⟩
        have h := List.pairwise_cons.mp h1
        exact ⟨⟨h.1 (k', v') (by simp), h2 (k, v) (by simp)⟩, h.2, fun e he => h2 e (List.mem_cons_of_mem _ he)⟩

theorem twf_terase {d : α} {t : Table α} (j : Nat) (h : twf d t = true) : twf d (terase t j) = true := by
  rw [twf_iff] at h ⊢
  refine ⟨?_, fun e he => h.2 e (terase_key he).1⟩
  have hp := h.1
  clear h
  induction t with
  | nil => simp [terase]
  | cons e t ih =>
    obtain ⟨k, v⟩ := e
    have hc := List.pairwise_cons.mp hp
    simp only [terase]
    split
    · exact ih hc.2
    · exact List.Pairwise.cons (fun e he => hc.1 e (terase_key he).1) (ih hc.2)

/-- Entries may be left out of a table. -/
theorem twf_filter {d : α} {t : Table α} (p : Nat × α → Bool) (h : twf d t = true) : twf d (t.filter p) = true := by
  rw [twf_iff] at h ⊢
  exact ⟨h.1.filter p, fun e he => h.2 e (List.mem_filter.mp he).1⟩

omit [DecidableEq α] in
theorem mem_tinsert {j : Nat} {v : α} {t : Table α} {e : Nat × α} (h : e ∈ tinsert j v t) : e = (j, v) ∨ e ∈ t := by
  induction t with
  | nil => simp [tinsert] at h; exact .inl h
  | cons x t ih =>
    obtain ⟨k, w⟩ := x
    simp only [tinsert] at h
    split at h
    · rcases List.mem_cons.mp h with h | h
      · exact .inl h
      · exact .inr h
    · rcases List.mem_cons.mp h with h | h
      · exact .inr (by simp [h])
      · rcases ih h with h | h
        · exact .inl h
        · exact .inr (List.mem_cons_of_mem _ h)

theorem twf_tinsert {d : α} {t : Table α} {j : Nat} {v : α} (h : twf d t = true) (hj : ∀ e ∈ t, e.1 ≠ j) (hv : v ≠ d) :
    twf d (tinsert j v t) = true := by
  rw [twf_iff] at h ⊢
  refine ⟨?_, fun e he => ?_⟩
  · have hp := h.1
    clear h
    induction t with
    | nil => simp [tinsert]
    | cons x t ih =>
      obtain ⟨k, w⟩ := x
      have hc := List.pairwise_cons.mp hp
      have hk : k ≠ j := hj (k, w) (by simp)
      simp only [tinsert]
      split
      · rename_i hl
        refine List.Pairwise.cons (fun e he => ?_) hp
        rcases List.mem_cons.mp he with rfl | he
        · exact hl
        · exact Nat.lt_trans hl (hc.1 e he)
      · rename_i hl
        refine List.Pairwise.cons (fun e he => ?_) (ih (fun e he => hj e (List.mem_cons_of_mem _ he)) hc.2)
        rcases mem_tinsert he with rfl | he
        · have : k ≤ j := Nat.not_lt.mp hl
          exact Nat.lt_of_le_of_ne this hk
        · exact hc.1 e he
  · rcases mem_tinsert he with rfl | he
    · exact hv
    · exact h.2 e he

/-- A write keeps the canonical form. -/
theorem twf_tset {d : α} {t : Table α} (j : Nat) (v : α) (h : twf d t = true) : twf d (tset d t j v) = true := by
  simp only [tset]
  split
  · exact twf_terase j h
  · rename_i hv
    exact twf_tinsert (twf_terase j h) (fun e he => (terase_key he).2) hv

theorem twf_tmod {d : α} {t : Table α} (j : Nat) (f : α → α) (h : twf d t = true) : twf d (tmod d t j f) = true :=
  twf_tset j _ h

theorem mem_tmap {d : α} {t : Table α} {f : Nat → α → α} {e : Nat × α} (h : e ∈ tmap d t f) :
    ∃ v, (e.1, v) ∈ t ∧ e.2 = f e.1 v ∧ e.2 ≠ d := by
  induction t with
  | nil => simp [tmap] at h
  | cons x t ih =>
    obtain ⟨k, w⟩ := x
    simp only [tmap] at h
    split at h
    · obtain ⟨v, h1, h2⟩ := ih h
      exact ⟨v, List.mem_cons_of_mem _ h1, h2⟩
    · rename_i hd
      rcases List.mem_cons.mp h with rfl | h
      · exact ⟨w, by simp, rfl, hd⟩
      · obtain ⟨v, h1, h2⟩ := ih h
        exact ⟨v, List.mem_cons_of_mem _ h1, h2⟩

/-- A change of every entry keeps the canonical form. -/
theorem twf_tmap {d : α} {t : Table α} (f : Nat → α → α) (h : twf d t = true) : twf d (tmap d t f) = true := by
  rw [twf_iff] at h ⊢
  refine ⟨?_, fun e he => (mem_tmap he).elim (fun _ x => x.2.2)⟩
  have hp := h.1
  clear h
  induction t with
  | nil => simp [tmap]
  | cons x t ih =>
    obtain ⟨k, w⟩ := x
    have hc := List.pairwise_cons.mp hp
    simp only [tmap]
    split
    · exact ih hc.2
    · refine List.Pairwise.cons (fun e he => ?_) (ih hc.2)
      obtain ⟨v, h1, _⟩ := mem_tmap he
      exact hc.1 (e.1, v) h1

end Sys2Proof.Machine
end

