-- ==== Sys2Proof/Laws/State.lean ====
section
/-! SUPPORT. What each named update of the block leaves as it was, field by field, and what a read after it gives. -/

namespace Sys2Proof.Machine

variable (b : Block)

/-! `modCtx` -/

@[simp] theorem modCtx_time (c : Nat) (f : CtxRec → CtxRec) : (modCtx c f b).time = b.time := rfl
@[simp] theorem modCtx_fuses (c : Nat) (f : CtxRec → CtxRec) : (modCtx c f b).fuses = b.fuses := rfl
@[simp] theorem modCtx_pwr (c : Nat) (f : CtxRec → CtxRec) : (modCtx c f b).pwr = b.pwr := rfl
@[simp] theorem modCtx_adm (c : Nat) (f : CtxRec → CtxRec) : (modCtx c f b).adm = b.adm := rfl
@[simp] theorem modCtx_dep (c : Nat) (f : CtxRec → CtxRec) : (modCtx c f b).dep = b.dep := rfl
@[simp] theorem modCtx_dsp (c : Nat) (f : CtxRec → CtxRec) : (modCtx c f b).dsp = b.dsp := rfl
@[simp] theorem modCtx_seq (c : Nat) (f : CtxRec → CtxRec) : (modCtx c f b).seq = b.seq := rfl
@[simp] theorem modCtx_bat (c : Nat) (f : CtxRec → CtxRec) : (modCtx c f b).bat = b.bat := rfl
@[simp] theorem modCtx_fab (c : Nat) (f : CtxRec → CtxRec) : (modCtx c f b).fab = b.fab := rfl
@[simp] theorem modCtx_sch (c : Nat) (f : CtxRec → CtxRec) : (modCtx c f b).sch = b.sch := rfl
@[simp] theorem modCtx_sec (c : Nat) (f : CtxRec → CtxRec) : (modCtx c f b).sec = b.sec := rfl
@[simp] theorem modCtx_flt (c : Nat) (f : CtxRec → CtxRec) : (modCtx c f b).flt = b.flt := rfl
@[simp] theorem modCtx_out (c : Nat) (f : CtxRec → CtxRec) : (modCtx c f b).out = b.out := rfl
@[simp] theorem modCtx_fresh (c : Nat) (f : CtxRec → CtxRec) : (modCtx c f b).fresh = b.fresh := rfl
@[simp] theorem modCtx_hub_blkUp (c : Nat) (f : CtxRec → CtxRec) : (modCtx c f b).hub.blkUp = b.hub.blkUp := rfl
@[simp] theorem modCtx_hub_queues (c : Nat) (f : CtxRec → CtxRec) : (modCtx c f b).hub.queues = b.hub.queues := rfl
@[simp] theorem modCtx_hub_nextSid (c : Nat) (f : CtxRec → CtxRec) : (modCtx c f b).hub.nextSid = b.hub.nextSid := rfl
@[simp] theorem modCtx_hub_maxReads (c : Nat) (f : CtxRec → CtxRec) : (modCtx c f b).hub.maxReads = b.hub.maxReads := rfl
@[simp] theorem modCtx_hub_reads (c : Nat) (f : CtxRec → CtxRec) : (modCtx c f b).hub.reads = b.hub.reads := rfl
@[simp] theorem modCtx_hub_writes (c : Nat) (f : CtxRec → CtxRec) : (modCtx c f b).hub.writes = b.hub.writes := rfl
@[simp] theorem modCtx_hub_rr (c : Nat) (f : CtxRec → CtxRec) : (modCtx c f b).hub.rr = b.hub.rr := rfl
@[simp] theorem modCtx_hub_svcValid (c : Nat) (f : CtxRec → CtxRec) : (modCtx c f b).hub.svcValid = b.hub.svcValid := rfl
@[simp] theorem modCtx_hub_svcQueue (c : Nat) (f : CtxRec → CtxRec) : (modCtx c f b).hub.svcQueue = b.hub.svcQueue := rfl
@[simp] theorem modCtx_hub_svcCtx (c : Nat) (f : CtxRec → CtxRec) : (modCtx c f b).hub.svcCtx = b.hub.svcCtx := rfl
@[simp] theorem modCtx_hub_dbStray (c : Nat) (f : CtxRec → CtxRec) : (modCtx c f b).hub.dbStray = b.hub.dbStray := rfl
@[simp] theorem modCtx_hub_leaseExpired (c : Nat) (f : CtxRec → CtxRec) : (modCtx c f b).hub.leaseExpired = b.hub.leaseExpired := rfl
@[simp] theorem modCtx_hub_held (c : Nat) (f : CtxRec → CtxRec) : (modCtx c f b).hub.held = b.hub.held := rfl
@[simp] theorem ctxOf_modCtx_same (c : Nat) (f : CtxRec → CtxRec) : ctxOf (modCtx c f b) c = f (ctxOf b c) := tget_tmod_same _ _ _ _
theorem ctxOf_modCtx_other (c : Nat) (f : CtxRec → CtxRec) {i : Nat} (hne : i ≠ c) : ctxOf (modCtx c f b) i = ctxOf b i := tget_tmod_other _ _ _ hne

/-! `modQueue` -/

@[simp] theorem modQueue_time (q : Nat) (f : QueueRec → QueueRec) : (modQueue q f b).time = b.time := rfl
@[simp] theorem modQueue_fuses (q : Nat) (f : QueueRec → QueueRec) : (modQueue q f b).fuses = b.fuses := rfl
@[simp] theorem modQueue_pwr (q : Nat) (f : QueueRec → QueueRec) : (modQueue q f b).pwr = b.pwr := rfl
@[simp] theorem modQueue_adm (q : Nat) (f : QueueRec → QueueRec) : (modQueue q f b).adm = b.adm := rfl
@[simp] theorem modQueue_dep (q : Nat) (f : QueueRec → QueueRec) : (modQueue q f b).dep = b.dep := rfl
@[simp] theorem modQueue_dsp (q : Nat) (f : QueueRec → QueueRec) : (modQueue q f b).dsp = b.dsp := rfl
@[simp] theorem modQueue_seq (q : Nat) (f : QueueRec → QueueRec) : (modQueue q f b).seq = b.seq := rfl
@[simp] theorem modQueue_bat (q : Nat) (f : QueueRec → QueueRec) : (modQueue q f b).bat = b.bat := rfl
@[simp] theorem modQueue_fab (q : Nat) (f : QueueRec → QueueRec) : (modQueue q f b).fab = b.fab := rfl
@[simp] theorem modQueue_sch (q : Nat) (f : QueueRec → QueueRec) : (modQueue q f b).sch = b.sch := rfl
@[simp] theorem modQueue_sec (q : Nat) (f : QueueRec → QueueRec) : (modQueue q f b).sec = b.sec := rfl
@[simp] theorem modQueue_flt (q : Nat) (f : QueueRec → QueueRec) : (modQueue q f b).flt = b.flt := rfl
@[simp] theorem modQueue_out (q : Nat) (f : QueueRec → QueueRec) : (modQueue q f b).out = b.out := rfl
@[simp] theorem modQueue_fresh (q : Nat) (f : QueueRec → QueueRec) : (modQueue q f b).fresh = b.fresh := rfl
@[simp] theorem modQueue_hub_blkUp (q : Nat) (f : QueueRec → QueueRec) : (modQueue q f b).hub.blkUp = b.hub.blkUp := rfl
@[simp] theorem modQueue_hub_ctxs (q : Nat) (f : QueueRec → QueueRec) : (modQueue q f b).hub.ctxs = b.hub.ctxs := rfl
@[simp] theorem modQueue_hub_nextSid (q : Nat) (f : QueueRec → QueueRec) : (modQueue q f b).hub.nextSid = b.hub.nextSid := rfl
@[simp] theorem modQueue_hub_maxReads (q : Nat) (f : QueueRec → QueueRec) : (modQueue q f b).hub.maxReads = b.hub.maxReads := rfl
@[simp] theorem modQueue_hub_reads (q : Nat) (f : QueueRec → QueueRec) : (modQueue q f b).hub.reads = b.hub.reads := rfl
@[simp] theorem modQueue_hub_writes (q : Nat) (f : QueueRec → QueueRec) : (modQueue q f b).hub.writes = b.hub.writes := rfl
@[simp] theorem modQueue_hub_rr (q : Nat) (f : QueueRec → QueueRec) : (modQueue q f b).hub.rr = b.hub.rr := rfl
@[simp] theorem modQueue_hub_svcValid (q : Nat) (f : QueueRec → QueueRec) : (modQueue q f b).hub.svcValid = b.hub.svcValid := rfl
@[simp] theorem modQueue_hub_svcQueue (q : Nat) (f : QueueRec → QueueRec) : (modQueue q f b).hub.svcQueue = b.hub.svcQueue := rfl
@[simp] theorem modQueue_hub_svcCtx (q : Nat) (f : QueueRec → QueueRec) : (modQueue q f b).hub.svcCtx = b.hub.svcCtx := rfl
@[simp] theorem modQueue_hub_dbStray (q : Nat) (f : QueueRec → QueueRec) : (modQueue q f b).hub.dbStray = b.hub.dbStray := rfl
@[simp] theorem modQueue_hub_leaseExpired (q : Nat) (f : QueueRec → QueueRec) : (modQueue q f b).hub.leaseExpired = b.hub.leaseExpired := rfl
@[simp] theorem modQueue_hub_held (q : Nat) (f : QueueRec → QueueRec) : (modQueue q f b).hub.held = b.hub.held := rfl
@[simp] theorem queueOf_modQueue_same (q : Nat) (f : QueueRec → QueueRec) : queueOf (modQueue q f b) q = f (queueOf b q) := tget_tmod_same _ _ _ _
theorem queueOf_modQueue_other (q : Nat) (f : QueueRec → QueueRec) {i : Nat} (hne : i ≠ q) : queueOf (modQueue q f b) i = queueOf b i := tget_tmod_other _ _ _ hne

/-! `modSub` -/

@[simp] theorem modSub_time (q : Nat) (sid : Nat) (f : Sub → Sub) : (modSub q sid f b).time = b.time := rfl
@[simp] theorem modSub_fuses (q : Nat) (sid : Nat) (f : Sub → Sub) : (modSub q sid f b).fuses = b.fuses := rfl
@[simp] theorem modSub_pwr (q : Nat) (sid : Nat) (f : Sub → Sub) : (modSub q sid f b).pwr = b.pwr := rfl
@[simp] theorem modSub_adm (q : Nat) (sid : Nat) (f : Sub → Sub) : (modSub q sid f b).adm = b.adm := rfl
@[simp] theorem modSub_dep (q : Nat) (sid : Nat) (f : Sub → Sub) : (modSub q sid f b).dep = b.dep := rfl
@[simp] theorem modSub_dsp (q : Nat) (sid : Nat) (f : Sub → Sub) : (modSub q sid f b).dsp = b.dsp := rfl
@[simp] theorem modSub_seq (q : Nat) (sid : Nat) (f : Sub → Sub) : (modSub q sid f b).seq = b.seq := rfl
@[simp] theorem modSub_bat (q : Nat) (sid : Nat) (f : Sub → Sub) : (modSub q sid f b).bat = b.bat := rfl
@[simp] theorem modSub_fab (q : Nat) (sid : Nat) (f : Sub → Sub) : (modSub q sid f b).fab = b.fab := rfl
@[simp] theorem modSub_sch (q : Nat) (sid : Nat) (f : Sub → Sub) : (modSub q sid f b).sch = b.sch := rfl
@[simp] theorem modSub_sec (q : Nat) (sid : Nat) (f : Sub → Sub) : (modSub q sid f b).sec = b.sec := rfl
@[simp] theorem modSub_flt (q : Nat) (sid : Nat) (f : Sub → Sub) : (modSub q sid f b).flt = b.flt := rfl
@[simp] theorem modSub_out (q : Nat) (sid : Nat) (f : Sub → Sub) : (modSub q sid f b).out = b.out := rfl
@[simp] theorem modSub_fresh (q : Nat) (sid : Nat) (f : Sub → Sub) : (modSub q sid f b).fresh = b.fresh := rfl
@[simp] theorem modSub_hub_blkUp (q : Nat) (sid : Nat) (f : Sub → Sub) : (modSub q sid f b).hub.blkUp = b.hub.blkUp := rfl
@[simp] theorem modSub_hub_ctxs (q : Nat) (sid : Nat) (f : Sub → Sub) : (modSub q sid f b).hub.ctxs = b.hub.ctxs := rfl
@[simp] theorem modSub_hub_nextSid (q : Nat) (sid : Nat) (f : Sub → Sub) : (modSub q sid f b).hub.nextSid = b.hub.nextSid := rfl
@[simp] theorem modSub_hub_maxReads (q : Nat) (sid : Nat) (f : Sub → Sub) : (modSub q sid f b).hub.maxReads = b.hub.maxReads := rfl
@[simp] theorem modSub_hub_reads (q : Nat) (sid : Nat) (f : Sub → Sub) : (modSub q sid f b).hub.reads = b.hub.reads := rfl
@[simp] theorem modSub_hub_writes (q : Nat) (sid : Nat) (f : Sub → Sub) : (modSub q sid f b).hub.writes = b.hub.writes := rfl
@[simp] theorem modSub_hub_rr (q : Nat) (sid : Nat) (f : Sub → Sub) : (modSub q sid f b).hub.rr = b.hub.rr := rfl
@[simp] theorem modSub_hub_svcValid (q : Nat) (sid : Nat) (f : Sub → Sub) : (modSub q sid f b).hub.svcValid = b.hub.svcValid := rfl
@[simp] theorem modSub_hub_svcQueue (q : Nat) (sid : Nat) (f : Sub → Sub) : (modSub q sid f b).hub.svcQueue = b.hub.svcQueue := rfl
@[simp] theorem modSub_hub_svcCtx (q : Nat) (sid : Nat) (f : Sub → Sub) : (modSub q sid f b).hub.svcCtx = b.hub.svcCtx := rfl
@[simp] theorem modSub_hub_dbStray (q : Nat) (sid : Nat) (f : Sub → Sub) : (modSub q sid f b).hub.dbStray = b.hub.dbStray := rfl
@[simp] theorem modSub_hub_leaseExpired (q : Nat) (sid : Nat) (f : Sub → Sub) : (modSub q sid f b).hub.leaseExpired = b.hub.leaseExpired := rfl
@[simp] theorem modSub_hub_held (q : Nat) (sid : Nat) (f : Sub → Sub) : (modSub q sid f b).hub.held = b.hub.held := rfl

/-! `modOp` -/

@[simp] theorem modOp_time (oid : Nat) (f : Op → Op) : (modOp oid f b).time = b.time := rfl
@[simp] theorem modOp_fuses (oid : Nat) (f : Op → Op) : (modOp oid f b).fuses = b.fuses := rfl
@[simp] theorem modOp_pwr (oid : Nat) (f : Op → Op) : (modOp oid f b).pwr = b.pwr := rfl
@[simp] theorem modOp_adm (oid : Nat) (f : Op → Op) : (modOp oid f b).adm = b.adm := rfl
@[simp] theorem modOp_hub (oid : Nat) (f : Op → Op) : (modOp oid f b).hub = b.hub := rfl
@[simp] theorem modOp_dsp (oid : Nat) (f : Op → Op) : (modOp oid f b).dsp = b.dsp := rfl
@[simp] theorem modOp_seq (oid : Nat) (f : Op → Op) : (modOp oid f b).seq = b.seq := rfl
@[simp] theorem modOp_bat (oid : Nat) (f : Op → Op) : (modOp oid f b).bat = b.bat := rfl
@[simp] theorem modOp_fab (oid : Nat) (f : Op → Op) : (modOp oid f b).fab = b.fab := rfl
@[simp] theorem modOp_sch (oid : Nat) (f : Op → Op) : (modOp oid f b).sch = b.sch := rfl
@[simp] theorem modOp_sec (oid : Nat) (f : Op → Op) : (modOp oid f b).sec = b.sec := rfl
@[simp] theorem modOp_flt (oid : Nat) (f : Op → Op) : (modOp oid f b).flt = b.flt := rfl
@[simp] theorem modOp_out (oid : Nat) (f : Op → Op) : (modOp oid f b).out = b.out := rfl
@[simp] theorem modOp_fresh (oid : Nat) (f : Op → Op) : (modOp oid f b).fresh = b.fresh := rfl
@[simp] theorem modOp_dep_flags (oid : Nat) (f : Op → Op) : (modOp oid f b).dep.flags = b.dep.flags := rfl
@[simp] theorem modOp_dep_maps (oid : Nat) (f : Op → Op) : (modOp oid f b).dep.maps = b.dep.maps := rfl
@[simp] theorem modOp_dep_wcdHalt (oid : Nat) (f : Op → Op) : (modOp oid f b).dep.wcdHalt = b.dep.wcdHalt := rfl
@[simp] theorem modOp_dep_candidate (oid : Nat) (f : Op → Op) : (modOp oid f b).dep.candidate = b.dep.candidate := rfl
@[simp] theorem modOp_dep_flagSel (oid : Nat) (f : Op → Op) : (modOp oid f b).dep.flagSel = b.dep.flagSel := rfl
@[simp] theorem modOp_dep_nextOid (oid : Nat) (f : Op → Op) : (modOp oid f b).dep.nextOid = b.dep.nextOid := rfl
@[simp] theorem modOp_dep_nextRel (oid : Nat) (f : Op → Op) : (modOp oid f b).dep.nextRel = b.dep.nextRel := rfl
@[simp] theorem modOp_dep_pageSel (oid : Nat) (f : Op → Op) : (modOp oid f b).dep.pageSel = b.dep.pageSel := rfl
@[simp] theorem modOp_dep_pages (oid : Nat) (f : Op → Op) : (modOp oid f b).dep.pages = b.dep.pages := rfl
@[simp] theorem modOp_dep_wcdEnable (oid : Nat) (f : Op → Op) : (modOp oid f b).dep.wcdEnable = b.dep.wcdEnable := rfl
@[simp] theorem modOp_dep_wcdSettle (oid : Nat) (f : Op → Op) : (modOp oid f b).dep.wcdSettle = b.dep.wcdSettle := rfl
@[simp] theorem modOp_dep_first (oid : Nat) (f : Op → Op) : (modOp oid f b).dep.first = b.dep.first := rfl
@[simp] theorem modOp_dep_maxOut (oid : Nat) (f : Op → Op) : (modOp oid f b).dep.maxOut = b.dep.maxOut := rfl
@[simp] theorem modOp_dep_interval (oid : Nat) (f : Op → Op) : (modOp oid f b).dep.interval = b.dep.interval := rfl
@[simp] theorem modOp_dep_remoteDrop (oid : Nat) (f : Op → Op) : (modOp oid f b).dep.remoteDrop = b.dep.remoteDrop := rfl
@[simp] theorem modOp_dep_wcdCount (oid : Nat) (f : Op → Op) : (modOp oid f b).dep.wcdCount = b.dep.wcdCount := rfl
@[simp] theorem modOp_dep_remote (oid : Nat) (f : Op → Op) : (modOp oid f b).dep.remote = b.dep.remote := rfl
@[simp] theorem modOp_dep_nextRelMsg (oid : Nat) (f : Op → Op) : (modOp oid f b).dep.nextRelMsg = b.dep.nextRelMsg := rfl

/-! `modSeqr` -/

@[simp] theorem modSeqr_time (n : Nat) (f : Seqr → Seqr) : (modSeqr n f b).time = b.time := rfl
@[simp] theorem modSeqr_fuses (n : Nat) (f : Seqr → Seqr) : (modSeqr n f b).fuses = b.fuses := rfl
@[simp] theorem modSeqr_pwr (n : Nat) (f : Seqr → Seqr) : (modSeqr n f b).pwr = b.pwr := rfl
@[simp] theorem modSeqr_adm (n : Nat) (f : Seqr → Seqr) : (modSeqr n f b).adm = b.adm := rfl
@[simp] theorem modSeqr_hub (n : Nat) (f : Seqr → Seqr) : (modSeqr n f b).hub = b.hub := rfl
@[simp] theorem modSeqr_dep (n : Nat) (f : Seqr → Seqr) : (modSeqr n f b).dep = b.dep := rfl
@[simp] theorem modSeqr_dsp (n : Nat) (f : Seqr → Seqr) : (modSeqr n f b).dsp = b.dsp := rfl
@[simp] theorem modSeqr_bat (n : Nat) (f : Seqr → Seqr) : (modSeqr n f b).bat = b.bat := rfl
@[simp] theorem modSeqr_fab (n : Nat) (f : Seqr → Seqr) : (modSeqr n f b).fab = b.fab := rfl
@[simp] theorem modSeqr_sch (n : Nat) (f : Seqr → Seqr) : (modSeqr n f b).sch = b.sch := rfl
@[simp] theorem modSeqr_sec (n : Nat) (f : Seqr → Seqr) : (modSeqr n f b).sec = b.sec := rfl
@[simp] theorem modSeqr_flt (n : Nat) (f : Seqr → Seqr) : (modSeqr n f b).flt = b.flt := rfl
@[simp] theorem modSeqr_out (n : Nat) (f : Seqr → Seqr) : (modSeqr n f b).out = b.out := rfl
@[simp] theorem modSeqr_fresh (n : Nat) (f : Seqr → Seqr) : (modSeqr n f b).fresh = b.fresh := rfl
@[simp] theorem modSeqr_seq_hintEn (n : Nat) (f : Seqr → Seqr) : (modSeqr n f b).seq.hintEn = b.seq.hintEn := rfl
@[simp] theorem seqrOf_modSeqr_same (n : Nat) (f : Seqr → Seqr) : seqrOf (modSeqr n f b) n = f (seqrOf b n) := tget_tmod_same _ _ _ _
theorem seqrOf_modSeqr_other (n : Nat) (f : Seqr → Seqr) {i : Nat} (hne : i ≠ n) : seqrOf (modSeqr n f b) i = seqrOf b i := tget_tmod_other _ _ _ hne

/-! `modPass` -/

@[simp] theorem modPass_time (n : Nat) (f : Pass → Pass) : (modPass n f b).time = b.time := rfl
@[simp] theorem modPass_fuses (n : Nat) (f : Pass → Pass) : (modPass n f b).fuses = b.fuses := rfl
@[simp] theorem modPass_pwr (n : Nat) (f : Pass → Pass) : (modPass n f b).pwr = b.pwr := rfl
@[simp] theorem modPass_adm (n : Nat) (f : Pass → Pass) : (modPass n f b).adm = b.adm := rfl
@[simp] theorem modPass_hub (n : Nat) (f : Pass → Pass) : (modPass n f b).hub = b.hub := rfl
@[simp] theorem modPass_dep (n : Nat) (f : Pass → Pass) : (modPass n f b).dep = b.dep := rfl
@[simp] theorem modPass_dsp (n : Nat) (f : Pass → Pass) : (modPass n f b).dsp = b.dsp := rfl
@[simp] theorem modPass_bat (n : Nat) (f : Pass → Pass) : (modPass n f b).bat = b.bat := rfl
@[simp] theorem modPass_fab (n : Nat) (f : Pass → Pass) : (modPass n f b).fab = b.fab := rfl
@[simp] theorem modPass_sch (n : Nat) (f : Pass → Pass) : (modPass n f b).sch = b.sch := rfl
@[simp] theorem modPass_sec (n : Nat) (f : Pass → Pass) : (modPass n f b).sec = b.sec := rfl
@[simp] theorem modPass_flt (n : Nat) (f : Pass → Pass) : (modPass n f b).flt = b.flt := rfl
@[simp] theorem modPass_out (n : Nat) (f : Pass → Pass) : (modPass n f b).out = b.out := rfl
@[simp] theorem modPass_fresh (n : Nat) (f : Pass → Pass) : (modPass n f b).fresh = b.fresh := rfl
@[simp] theorem modPass_seq_hintEn (n : Nat) (f : Pass → Pass) : (modPass n f b).seq.hintEn = b.seq.hintEn := rfl

/-! `modLane` -/

@[simp] theorem modLane_time (n : Nat) (l : Nat) (f : Lane → Lane) : (modLane n l f b).time = b.time := rfl
@[simp] theorem modLane_fuses (n : Nat) (l : Nat) (f : Lane → Lane) : (modLane n l f b).fuses = b.fuses := rfl
@[simp] theorem modLane_pwr (n : Nat) (l : Nat) (f : Lane → Lane) : (modLane n l f b).pwr = b.pwr := rfl
@[simp] theorem modLane_adm (n : Nat) (l : Nat) (f : Lane → Lane) : (modLane n l f b).adm = b.adm := rfl
@[simp] theorem modLane_hub (n : Nat) (l : Nat) (f : Lane → Lane) : (modLane n l f b).hub = b.hub := rfl
@[simp] theorem modLane_dep (n : Nat) (l : Nat) (f : Lane → Lane) : (modLane n l f b).dep = b.dep := rfl
@[simp] theorem modLane_dsp (n : Nat) (l : Nat) (f : Lane → Lane) : (modLane n l f b).dsp = b.dsp := rfl
@[simp] theorem modLane_bat (n : Nat) (l : Nat) (f : Lane → Lane) : (modLane n l f b).bat = b.bat := rfl
@[simp] theorem modLane_fab (n : Nat) (l : Nat) (f : Lane → Lane) : (modLane n l f b).fab = b.fab := rfl
@[simp] theorem modLane_sch (n : Nat) (l : Nat) (f : Lane → Lane) : (modLane n l f b).sch = b.sch := rfl
@[simp] theorem modLane_sec (n : Nat) (l : Nat) (f : Lane → Lane) : (modLane n l f b).sec = b.sec := rfl
@[simp] theorem modLane_flt (n : Nat) (l : Nat) (f : Lane → Lane) : (modLane n l f b).flt = b.flt := rfl
@[simp] theorem modLane_out (n : Nat) (l : Nat) (f : Lane → Lane) : (modLane n l f b).out = b.out := rfl
@[simp] theorem modLane_fresh (n : Nat) (l : Nat) (f : Lane → Lane) : (modLane n l f b).fresh = b.fresh := rfl
@[simp] theorem modLane_seq_hintEn (n : Nat) (l : Nat) (f : Lane → Lane) : (modLane n l f b).seq.hintEn = b.seq.hintEn := rfl

/-! `modCore` -/

@[simp] theorem modCore_time (k : Nat) (f : CoreRec → CoreRec) : (modCore k f b).time = b.time := rfl
@[simp] theorem modCore_fuses (k : Nat) (f : CoreRec → CoreRec) : (modCore k f b).fuses = b.fuses := rfl
@[simp] theorem modCore_pwr (k : Nat) (f : CoreRec → CoreRec) : (modCore k f b).pwr = b.pwr := rfl
@[simp] theorem modCore_adm (k : Nat) (f : CoreRec → CoreRec) : (modCore k f b).adm = b.adm := rfl
@[simp] theorem modCore_hub (k : Nat) (f : CoreRec → CoreRec) : (modCore k f b).hub = b.hub := rfl
@[simp] theorem modCore_dep (k : Nat) (f : CoreRec → CoreRec) : (modCore k f b).dep = b.dep := rfl
@[simp] theorem modCore_seq (k : Nat) (f : CoreRec → CoreRec) : (modCore k f b).seq = b.seq := rfl
@[simp] theorem modCore_bat (k : Nat) (f : CoreRec → CoreRec) : (modCore k f b).bat = b.bat := rfl
@[simp] theorem modCore_fab (k : Nat) (f : CoreRec → CoreRec) : (modCore k f b).fab = b.fab := rfl
@[simp] theorem modCore_sch (k : Nat) (f : CoreRec → CoreRec) : (modCore k f b).sch = b.sch := rfl
@[simp] theorem modCore_sec (k : Nat) (f : CoreRec → CoreRec) : (modCore k f b).sec = b.sec := rfl
@[simp] theorem modCore_flt (k : Nat) (f : CoreRec → CoreRec) : (modCore k f b).flt = b.flt := rfl
@[simp] theorem modCore_out (k : Nat) (f : CoreRec → CoreRec) : (modCore k f b).out = b.out := rfl
@[simp] theorem modCore_fresh (k : Nat) (f : CoreRec → CoreRec) : (modCore k f b).fresh = b.fresh := rfl
@[simp] theorem modCore_dsp_jobs (k : Nat) (f : CoreRec → CoreRec) : (modCore k f b).dsp.jobs = b.dsp.jobs := rfl
@[simp] theorem modCore_dsp_scratch (k : Nat) (f : CoreRec → CoreRec) : (modCore k f b).dsp.scratch = b.dsp.scratch := rfl
@[simp] theorem modCore_dsp_boundLog2 (k : Nat) (f : CoreRec → CoreRec) : (modCore k f b).dsp.boundLog2 = b.dsp.boundLog2 := rfl
@[simp] theorem modCore_dsp_coreSel (k : Nat) (f : CoreRec → CoreRec) : (modCore k f b).dsp.coreSel = b.dsp.coreSel := rfl
@[simp] theorem modCore_dsp_slotSel (k : Nat) (f : CoreRec → CoreRec) : (modCore k f b).dsp.slotSel = b.dsp.slotSel := rfl
@[simp] theorem modCore_dsp_laneStray (k : Nat) (f : CoreRec → CoreRec) : (modCore k f b).dsp.laneStray = b.dsp.laneStray := rfl
@[simp] theorem modCore_dsp_redispatch (k : Nat) (f : CoreRec → CoreRec) : (modCore k f b).dsp.redispatch = b.dsp.redispatch := rfl
@[simp] theorem coreOf_modCore_same (k : Nat) (f : CoreRec → CoreRec) : coreOf (modCore k f b) k = f (coreOf b k) := tget_tmod_same _ _ _ _
theorem coreOf_modCore_other (k : Nat) (f : CoreRec → CoreRec) {i : Nat} (hne : i ≠ k) : coreOf (modCore k f b) i = coreOf b i := tget_tmod_other _ _ _ hne

/-! `modJob` -/

@[simp] theorem modJob_time (oid : Nat) (f : Job → Job) : (modJob oid f b).time = b.time := rfl
@[simp] theorem modJob_fuses (oid : Nat) (f : Job → Job) : (modJob oid f b).fuses = b.fuses := rfl
@[simp] theorem modJob_pwr (oid : Nat) (f : Job → Job) : (modJob oid f b).pwr = b.pwr := rfl
@[simp] theorem modJob_adm (oid : Nat) (f : Job → Job) : (modJob oid f b).adm = b.adm := rfl
@[simp] theorem modJob_hub (oid : Nat) (f : Job → Job) : (modJob oid f b).hub = b.hub := rfl
@[simp] theorem modJob_dep (oid : Nat) (f : Job → Job) : (modJob oid f b).dep = b.dep := rfl
@[simp] theorem modJob_seq (oid : Nat) (f : Job → Job) : (modJob oid f b).seq = b.seq := rfl
@[simp] theorem modJob_bat (oid : Nat) (f : Job → Job) : (modJob oid f b).bat = b.bat := rfl
@[simp] theorem modJob_fab (oid : Nat) (f : Job → Job) : (modJob oid f b).fab = b.fab := rfl
@[simp] theorem modJob_sch (oid : Nat) (f : Job → Job) : (modJob oid f b).sch = b.sch := rfl
@[simp] theorem modJob_sec (oid : Nat) (f : Job → Job) : (modJob oid f b).sec = b.sec := rfl
@[simp] theorem modJob_flt (oid : Nat) (f : Job → Job) : (modJob oid f b).flt = b.flt := rfl
@[simp] theorem modJob_out (oid : Nat) (f : Job → Job) : (modJob oid f b).out = b.out := rfl
@[simp] theorem modJob_fresh (oid : Nat) (f : Job → Job) : (modJob oid f b).fresh = b.fresh := rfl
@[simp] theorem modJob_dsp_cores (oid : Nat) (f : Job → Job) : (modJob oid f b).dsp.cores = b.dsp.cores := rfl
@[simp] theorem modJob_dsp_scratch (oid : Nat) (f : Job → Job) : (modJob oid f b).dsp.scratch = b.dsp.scratch := rfl
@[simp] theorem modJob_dsp_boundLog2 (oid : Nat) (f : Job → Job) : (modJob oid f b).dsp.boundLog2 = b.dsp.boundLog2 := rfl
@[simp] theorem modJob_dsp_coreSel (oid : Nat) (f : Job → Job) : (modJob oid f b).dsp.coreSel = b.dsp.coreSel := rfl
@[simp] theorem modJob_dsp_slotSel (oid : Nat) (f : Job → Job) : (modJob oid f b).dsp.slotSel = b.dsp.slotSel := rfl
@[simp] theorem modJob_dsp_laneStray (oid : Nat) (f : Job → Job) : (modJob oid f b).dsp.laneStray = b.dsp.laneStray := rfl
@[simp] theorem modJob_dsp_redispatch (oid : Nat) (f : Job → Job) : (modJob oid f b).dsp.redispatch = b.dsp.redispatch := rfl

/-! `modMos` -/

@[simp] theorem modMos_time (k : Nat) (f : MosRec → MosRec) : (modMos k f b).time = b.time := rfl
@[simp] theorem modMos_fuses (k : Nat) (f : MosRec → MosRec) : (modMos k f b).fuses = b.fuses := rfl
@[simp] theorem modMos_pwr (k : Nat) (f : MosRec → MosRec) : (modMos k f b).pwr = b.pwr := rfl
@[simp] theorem modMos_adm (k : Nat) (f : MosRec → MosRec) : (modMos k f b).adm = b.adm := rfl
@[simp] theorem modMos_hub (k : Nat) (f : MosRec → MosRec) : (modMos k f b).hub = b.hub := rfl
@[simp] theorem modMos_dep (k : Nat) (f : MosRec → MosRec) : (modMos k f b).dep = b.dep := rfl
@[simp] theorem modMos_dsp (k : Nat) (f : MosRec → MosRec) : (modMos k f b).dsp = b.dsp := rfl
@[simp] theorem modMos_seq (k : Nat) (f : MosRec → MosRec) : (modMos k f b).seq = b.seq := rfl
@[simp] theorem modMos_bat (k : Nat) (f : MosRec → MosRec) : (modMos k f b).bat = b.bat := rfl
@[simp] theorem modMos_sch (k : Nat) (f : MosRec → MosRec) : (modMos k f b).sch = b.sch := rfl
@[simp] theorem modMos_sec (k : Nat) (f : MosRec → MosRec) : (modMos k f b).sec = b.sec := rfl
@[simp] theorem modMos_flt (k : Nat) (f : MosRec → MosRec) : (modMos k f b).flt = b.flt := rfl
@[simp] theorem modMos_out (k : Nat) (f : MosRec → MosRec) : (modMos k f b).out = b.out := rfl
@[simp] theorem modMos_fresh (k : Nat) (f : MosRec → MosRec) : (modMos k f b).fresh = b.fresh := rfl
@[simp] theorem modMos_fab_phase (k : Nat) (f : MosRec → MosRec) : (modMos k f b).fab.phase = b.fab.phase := rfl
@[simp] theorem modMos_fab_node (k : Nat) (f : MosRec → MosRec) : (modMos k f b).fab.node = b.fab.node := rfl
@[simp] theorem modMos_fab_isRoot (k : Nat) (f : MosRec → MosRec) : (modMos k f b).fab.isRoot = b.fab.isRoot := rfl
@[simp] theorem modMos_fab_rootNode (k : Nat) (f : MosRec → MosRec) : (modMos k f b).fab.rootNode = b.fab.rootNode := rfl
@[simp] theorem modMos_fab_rootSerial (k : Nat) (f : MosRec → MosRec) : (modMos k f b).fab.rootSerial = b.fab.rootSerial := rfl
@[simp] theorem modMos_fab_tie (k : Nat) (f : MosRec → MosRec) : (modMos k f b).fab.tie = b.fab.tie := rfl
@[simp] theorem modMos_fab_fru (k : Nat) (f : MosRec → MosRec) : (modMos k f b).fab.fru = b.fab.fru := rfl
@[simp] theorem modMos_fab_ports (k : Nat) (f : MosRec → MosRec) : (modMos k f b).fab.ports = b.fab.ports := rfl
@[simp] theorem modMos_fab_portSel (k : Nat) (f : MosRec → MosRec) : (modMos k f b).fab.portSel = b.fab.portSel := rfl
@[simp] theorem modMos_fab_routeSel (k : Nat) (f : MosRec → MosRec) : (modMos k f b).fab.routeSel = b.fab.routeSel := rfl
@[simp] theorem modMos_fab_mosSel (k : Nat) (f : MosRec → MosRec) : (modMos k f b).fab.mosSel = b.fab.mosSel := rfl
@[simp] theorem modMos_fab_train (k : Nat) (f : MosRec → MosRec) : (modMos k f b).fab.train = b.fab.train := rfl
@[simp] theorem modMos_fab_waveLog2 (k : Nat) (f : MosRec → MosRec) : (modMos k f b).fab.waveLog2 = b.fab.waveLog2 := rfl
@[simp] theorem modMos_fab_trainUse (k : Nat) (f : MosRec → MosRec) : (modMos k f b).fab.trainUse = b.fab.trainUse := rfl
@[simp] theorem modMos_fab_waveUse (k : Nat) (f : MosRec → MosRec) : (modMos k f b).fab.waveUse = b.fab.waveUse := rfl
@[simp] theorem modMos_fab_trainDead (k : Nat) (f : MosRec → MosRec) : (modMos k f b).fab.trainDead = b.fab.trainDead := rfl
@[simp] theorem modMos_fab_helloDead (k : Nat) (f : MosRec → MosRec) : (modMos k f b).fab.helloDead = b.fab.helloDead := rfl
@[simp] theorem modMos_fab_waveDead (k : Nat) (f : MosRec → MosRec) : (modMos k f b).fab.waveDead = b.fab.waveDead := rfl
@[simp] theorem modMos_fab_restarts (k : Nat) (f : MosRec → MosRec) : (modMos k f b).fab.restarts = b.fab.restarts := rfl
@[simp] theorem modMos_fab_error (k : Nat) (f : MosRec → MosRec) : (modMos k f b).fab.error = b.fab.error := rfl
@[simp] theorem modMos_fab_pinMode (k : Nat) (f : MosRec → MosRec) : (modMos k f b).fab.pinMode = b.fab.pinMode := rfl
@[simp] theorem modMos_fab_height (k : Nat) (f : MosRec → MosRec) : (modMos k f b).fab.height = b.fab.height := rfl
@[simp] theorem modMos_fab_nodes (k : Nat) (f : MosRec → MosRec) : (modMos k f b).fab.nodes = b.fab.nodes := rfl
@[simp] theorem modMos_fab_elect (k : Nat) (f : MosRec → MosRec) : (modMos k f b).fab.elect = b.fab.elect := rfl
@[simp] theorem modMos_fab_electing (k : Nat) (f : MosRec → MosRec) : (modMos k f b).fab.electing = b.fab.electing := rfl
@[simp] theorem modMos_fab_fabNodes (k : Nat) (f : MosRec → MosRec) : (modMos k f b).fab.fabNodes = b.fab.fabNodes := rfl
@[simp] theorem modMos_fab_tables (k : Nat) (f : MosRec → MosRec) : (modMos k f b).fab.tables = b.fab.tables := rfl
@[simp] theorem modMos_fab_map (k : Nat) (f : MosRec → MosRec) : (modMos k f b).fab.map = b.fab.map := rfl
@[simp] theorem modMos_fab_serials (k : Nat) (f : MosRec → MosRec) : (modMos k f b).fab.serials = b.fab.serials := rfl
@[simp] theorem modMos_fab_epoch (k : Nat) (f : MosRec → MosRec) : (modMos k f b).fab.epoch = b.fab.epoch := rfl
@[simp] theorem modMos_fab_epochs (k : Nat) (f : MosRec → MosRec) : (modMos k f b).fab.epochs = b.fab.epochs := rfl
@[simp] theorem modMos_fab_swAt (k : Nat) (f : MosRec → MosRec) : (modMos k f b).fab.swAt = b.fab.swAt := rfl
@[simp] theorem modMos_fab_change (k : Nat) (f : MosRec → MosRec) : (modMos k f b).fab.change = b.fab.change := rfl
@[simp] theorem modMos_fab_waiting (k : Nat) (f : MosRec → MosRec) : (modMos k f b).fab.waiting = b.fab.waiting := rfl
@[simp] theorem modMos_fab_drains (k : Nat) (f : MosRec → MosRec) : (modMos k f b).fab.drains = b.fab.drains := rfl
@[simp] theorem modMos_fab_joining (k : Nat) (f : MosRec → MosRec) : (modMos k f b).fab.joining = b.fab.joining := rfl
@[simp] theorem modMos_fab_flooded (k : Nat) (f : MosRec → MosRec) : (modMos k f b).fab.flooded = b.fab.flooded := rfl
@[simp] theorem modMos_fab_fresh (k : Nat) (f : MosRec → MosRec) : (modMos k f b).fab.fresh = b.fab.fresh := rfl
@[simp] theorem modMos_fab_joins (k : Nat) (f : MosRec → MosRec) : (modMos k f b).fab.joins = b.fab.joins := rfl
@[simp] theorem modMos_fab_via (k : Nat) (f : MosRec → MosRec) : (modMos k f b).fab.via = b.fab.via := rfl
@[simp] theorem modMos_fab_relays (k : Nat) (f : MosRec → MosRec) : (modMos k f b).fab.relays = b.fab.relays := rfl
@[simp] theorem modMos_fab_dups (k : Nat) (f : MosRec → MosRec) : (modMos k f b).fab.dups = b.fab.dups := rfl
@[simp] theorem modMos_fab_withdrawn (k : Nat) (f : MosRec → MosRec) : (modMos k f b).fab.withdrawn = b.fab.withdrawn := rfl
@[simp] theorem modMos_fab_downs (k : Nat) (f : MosRec → MosRec) : (modMos k f b).fab.downs = b.fab.downs := rfl
@[simp] theorem modMos_fab_stray (k : Nat) (f : MosRec → MosRec) : (modMos k f b).fab.stray = b.fab.stray := rfl
@[simp] theorem modMos_fab_seqOut (k : Nat) (f : MosRec → MosRec) : (modMos k f b).fab.seqOut = b.fab.seqOut := rfl
@[simp] theorem modMos_fab_dropAuth (k : Nat) (f : MosRec → MosRec) : (modMos k f b).fab.dropAuth = b.fab.dropAuth := rfl
@[simp] theorem modMos_fab_dropReplay (k : Nat) (f : MosRec → MosRec) : (modMos k f b).fab.dropReplay = b.fab.dropReplay := rfl
@[simp] theorem modMos_fab_dropNoroute (k : Nat) (f : MosRec → MosRec) : (modMos k f b).fab.dropNoroute = b.fab.dropNoroute := rfl
@[simp] theorem modMos_fab_dropOverflow (k : Nat) (f : MosRec → MosRec) : (modMos k f b).fab.dropOverflow = b.fab.dropOverflow := rfl
@[simp] theorem modMos_fab_idMode (k : Nat) (f : MosRec → MosRec) : (modMos k f b).fab.idMode = b.fab.idMode := rfl
@[simp] theorem modMos_fab_rescan (k : Nat) (f : MosRec → MosRec) : (modMos k f b).fab.rescan = b.fab.rescan := rfl
@[simp] theorem modMos_fab_fruDead (k : Nat) (f : MosRec → MosRec) : (modMos k f b).fab.fruDead = b.fab.fruDead := rfl
@[simp] theorem modMos_fab_cmisDead (k : Nat) (f : MosRec → MosRec) : (modMos k f b).fab.cmisDead = b.fab.cmisDead := rfl
@[simp] theorem modMos_fab_cmisLeft (k : Nat) (f : MosRec → MosRec) : (modMos k f b).fab.cmisLeft = b.fab.cmisLeft := rfl
@[simp] theorem modMos_fab_quiesce (k : Nat) (f : MosRec → MosRec) : (modMos k f b).fab.quiesce = b.fab.quiesce := rfl
@[simp] theorem modMos_fab_passes (k : Nat) (f : MosRec → MosRec) : (modMos k f b).fab.passes = b.fab.passes := rfl
@[simp] theorem modMos_fab_mig (k : Nat) (f : MosRec → MosRec) : (modMos k f b).fab.mig = b.fab.mig := rfl
@[simp] theorem modMos_fab_redirects (k : Nat) (f : MosRec → MosRec) : (modMos k f b).fab.redirects = b.fab.redirects := rfl
@[simp] theorem modMos_fab_redirOwner (k : Nat) (f : MosRec → MosRec) : (modMos k f b).fab.redirOwner = b.fab.redirOwner := rfl
@[simp] theorem modMos_fab_colls (k : Nat) (f : MosRec → MosRec) : (modMos k f b).fab.colls = b.fab.colls := rfl
@[simp] theorem modMos_fab_collMsgs (k : Nat) (f : MosRec → MosRec) : (modMos k f b).fab.collMsgs = b.fab.collMsgs := rfl
@[simp] theorem modMos_fab_collZero (k : Nat) (f : MosRec → MosRec) : (modMos k f b).fab.collZero = b.fab.collZero := rfl
@[simp] theorem modMos_fab_heldRx (k : Nat) (f : MosRec → MosRec) : (modMos k f b).fab.heldRx = b.fab.heldRx := rfl
@[simp] theorem modMos_fab_heldBeats (k : Nat) (f : MosRec → MosRec) : (modMos k f b).fab.heldBeats = b.fab.heldBeats := rfl
@[simp] theorem mosOf_modMos_same (k : Nat) (f : MosRec → MosRec) : mosOf (modMos k f b) k = f (mosOf b k) := tget_tmod_same _ _ _ _
theorem mosOf_modMos_other (k : Nat) (f : MosRec → MosRec) {i : Nat} (hne : i ≠ k) : mosOf (modMos k f b) i = mosOf b i := tget_tmod_other _ _ _ hne

/-! `modPort` -/

@[simp] theorem modPort_time (p : Nat) (f : Port → Port) : (modPort p f b).time = b.time := rfl
@[simp] theorem modPort_fuses (p : Nat) (f : Port → Port) : (modPort p f b).fuses = b.fuses := rfl
@[simp] theorem modPort_pwr (p : Nat) (f : Port → Port) : (modPort p f b).pwr = b.pwr := rfl
@[simp] theorem modPort_adm (p : Nat) (f : Port → Port) : (modPort p f b).adm = b.adm := rfl
@[simp] theorem modPort_hub (p : Nat) (f : Port → Port) : (modPort p f b).hub = b.hub := rfl
@[simp] theorem modPort_dep (p : Nat) (f : Port → Port) : (modPort p f b).dep = b.dep := rfl
@[simp] theorem modPort_dsp (p : Nat) (f : Port → Port) : (modPort p f b).dsp = b.dsp := rfl
@[simp] theorem modPort_seq (p : Nat) (f : Port → Port) : (modPort p f b).seq = b.seq := rfl
@[simp] theorem modPort_bat (p : Nat) (f : Port → Port) : (modPort p f b).bat = b.bat := rfl
@[simp] theorem modPort_sch (p : Nat) (f : Port → Port) : (modPort p f b).sch = b.sch := rfl
@[simp] theorem modPort_sec (p : Nat) (f : Port → Port) : (modPort p f b).sec = b.sec := rfl
@[simp] theorem modPort_flt (p : Nat) (f : Port → Port) : (modPort p f b).flt = b.flt := rfl
@[simp] theorem modPort_out (p : Nat) (f : Port → Port) : (modPort p f b).out = b.out := rfl
@[simp] theorem modPort_fresh (p : Nat) (f : Port → Port) : (modPort p f b).fresh = b.fresh := rfl
@[simp] theorem modPort_fab_phase (p : Nat) (f : Port → Port) : (modPort p f b).fab.phase = b.fab.phase := rfl
@[simp] theorem modPort_fab_node (p : Nat) (f : Port → Port) : (modPort p f b).fab.node = b.fab.node := rfl
@[simp] theorem modPort_fab_isRoot (p : Nat) (f : Port → Port) : (modPort p f b).fab.isRoot = b.fab.isRoot := rfl
@[simp] theorem modPort_fab_rootNode (p : Nat) (f : Port → Port) : (modPort p f b).fab.rootNode = b.fab.rootNode := rfl
@[simp] theorem modPort_fab_rootSerial (p : Nat) (f : Port → Port) : (modPort p f b).fab.rootSerial = b.fab.rootSerial := rfl
@[simp] theorem modPort_fab_tie (p : Nat) (f : Port → Port) : (modPort p f b).fab.tie = b.fab.tie := rfl
@[simp] theorem modPort_fab_fru (p : Nat) (f : Port → Port) : (modPort p f b).fab.fru = b.fab.fru := rfl
@[simp] theorem modPort_fab_portSel (p : Nat) (f : Port → Port) : (modPort p f b).fab.portSel = b.fab.portSel := rfl
@[simp] theorem modPort_fab_routeSel (p : Nat) (f : Port → Port) : (modPort p f b).fab.routeSel = b.fab.routeSel := rfl
@[simp] theorem modPort_fab_mosSel (p : Nat) (f : Port → Port) : (modPort p f b).fab.mosSel = b.fab.mosSel := rfl
@[simp] theorem modPort_fab_train (p : Nat) (f : Port → Port) : (modPort p f b).fab.train = b.fab.train := rfl
@[simp] theorem modPort_fab_waveLog2 (p : Nat) (f : Port → Port) : (modPort p f b).fab.waveLog2 = b.fab.waveLog2 := rfl
@[simp] theorem modPort_fab_trainUse (p : Nat) (f : Port → Port) : (modPort p f b).fab.trainUse = b.fab.trainUse := rfl
@[simp] theorem modPort_fab_waveUse (p : Nat) (f : Port → Port) : (modPort p f b).fab.waveUse = b.fab.waveUse := rfl
@[simp] theorem modPort_fab_trainDead (p : Nat) (f : Port → Port) : (modPort p f b).fab.trainDead = b.fab.trainDead := rfl
@[simp] theorem modPort_fab_helloDead (p : Nat) (f : Port → Port) : (modPort p f b).fab.helloDead = b.fab.helloDead := rfl
@[simp] theorem modPort_fab_waveDead (p : Nat) (f : Port → Port) : (modPort p f b).fab.waveDead = b.fab.waveDead := rfl
@[simp] theorem modPort_fab_restarts (p : Nat) (f : Port → Port) : (modPort p f b).fab.restarts = b.fab.restarts := rfl
@[simp] theorem modPort_fab_error (p : Nat) (f : Port → Port) : (modPort p f b).fab.error = b.fab.error := rfl
@[simp] theorem modPort_fab_pinMode (p : Nat) (f : Port → Port) : (modPort p f b).fab.pinMode = b.fab.pinMode := rfl
@[simp] theorem modPort_fab_height (p : Nat) (f : Port → Port) : (modPort p f b).fab.height = b.fab.height := rfl
@[simp] theorem modPort_fab_nodes (p : Nat) (f : Port → Port) : (modPort p f b).fab.nodes = b.fab.nodes := rfl
@[simp] theorem modPort_fab_elect (p : Nat) (f : Port → Port) : (modPort p f b).fab.elect = b.fab.elect := rfl
@[simp] theorem modPort_fab_electing (p : Nat) (f : Port → Port) : (modPort p f b).fab.electing = b.fab.electing := rfl
@[simp] theorem modPort_fab_fabNodes (p : Nat) (f : Port → Port) : (modPort p f b).fab.fabNodes = b.fab.fabNodes := rfl
@[simp] theorem modPort_fab_tables (p : Nat) (f : Port → Port) : (modPort p f b).fab.tables = b.fab.tables := rfl
@[simp] theorem modPort_fab_map (p : Nat) (f : Port → Port) : (modPort p f b).fab.map = b.fab.map := rfl
@[simp] theorem modPort_fab_serials (p : Nat) (f : Port → Port) : (modPort p f b).fab.serials = b.fab.serials := rfl
@[simp] theorem modPort_fab_epoch (p : Nat) (f : Port → Port) : (modPort p f b).fab.epoch = b.fab.epoch := rfl
@[simp] theorem modPort_fab_epochs (p : Nat) (f : Port → Port) : (modPort p f b).fab.epochs = b.fab.epochs := rfl
@[simp] theorem modPort_fab_swAt (p : Nat) (f : Port → Port) : (modPort p f b).fab.swAt = b.fab.swAt := rfl
@[simp] theorem modPort_fab_change (p : Nat) (f : Port → Port) : (modPort p f b).fab.change = b.fab.change := rfl
@[simp] theorem modPort_fab_waiting (p : Nat) (f : Port → Port) : (modPort p f b).fab.waiting = b.fab.waiting := rfl
@[simp] theorem modPort_fab_drains (p : Nat) (f : Port → Port) : (modPort p f b).fab.drains = b.fab.drains := rfl
@[simp] theorem modPort_fab_joining (p : Nat) (f : Port → Port) : (modPort p f b).fab.joining = b.fab.joining := rfl
@[simp] theorem modPort_fab_flooded (p : Nat) (f : Port → Port) : (modPort p f b).fab.flooded = b.fab.flooded := rfl
@[simp] theorem modPort_fab_fresh (p : Nat) (f : Port → Port) : (modPort p f b).fab.fresh = b.fab.fresh := rfl
@[simp] theorem modPort_fab_joins (p : Nat) (f : Port → Port) : (modPort p f b).fab.joins = b.fab.joins := rfl
@[simp] theorem modPort_fab_via (p : Nat) (f : Port → Port) : (modPort p f b).fab.via = b.fab.via := rfl
@[simp] theorem modPort_fab_relays (p : Nat) (f : Port → Port) : (modPort p f b).fab.relays = b.fab.relays := rfl
@[simp] theorem modPort_fab_dups (p : Nat) (f : Port → Port) : (modPort p f b).fab.dups = b.fab.dups := rfl
@[simp] theorem modPort_fab_withdrawn (p : Nat) (f : Port → Port) : (modPort p f b).fab.withdrawn = b.fab.withdrawn := rfl
@[simp] theorem modPort_fab_downs (p : Nat) (f : Port → Port) : (modPort p f b).fab.downs = b.fab.downs := rfl
@[simp] theorem modPort_fab_stray (p : Nat) (f : Port → Port) : (modPort p f b).fab.stray = b.fab.stray := rfl
@[simp] theorem modPort_fab_seqOut (p : Nat) (f : Port → Port) : (modPort p f b).fab.seqOut = b.fab.seqOut := rfl
@[simp] theorem modPort_fab_dropAuth (p : Nat) (f : Port → Port) : (modPort p f b).fab.dropAuth = b.fab.dropAuth := rfl
@[simp] theorem modPort_fab_dropReplay (p : Nat) (f : Port → Port) : (modPort p f b).fab.dropReplay = b.fab.dropReplay := rfl
@[simp] theorem modPort_fab_dropNoroute (p : Nat) (f : Port → Port) : (modPort p f b).fab.dropNoroute = b.fab.dropNoroute := rfl
@[simp] theorem modPort_fab_dropOverflow (p : Nat) (f : Port → Port) : (modPort p f b).fab.dropOverflow = b.fab.dropOverflow := rfl
@[simp] theorem modPort_fab_idMode (p : Nat) (f : Port → Port) : (modPort p f b).fab.idMode = b.fab.idMode := rfl
@[simp] theorem modPort_fab_rescan (p : Nat) (f : Port → Port) : (modPort p f b).fab.rescan = b.fab.rescan := rfl
@[simp] theorem modPort_fab_fruDead (p : Nat) (f : Port → Port) : (modPort p f b).fab.fruDead = b.fab.fruDead := rfl
@[simp] theorem modPort_fab_cmisDead (p : Nat) (f : Port → Port) : (modPort p f b).fab.cmisDead = b.fab.cmisDead := rfl
@[simp] theorem modPort_fab_cmisLeft (p : Nat) (f : Port → Port) : (modPort p f b).fab.cmisLeft = b.fab.cmisLeft := rfl
@[simp] theorem modPort_fab_slots (p : Nat) (f : Port → Port) : (modPort p f b).fab.slots = b.fab.slots := rfl
@[simp] theorem modPort_fab_quiesce (p : Nat) (f : Port → Port) : (modPort p f b).fab.quiesce = b.fab.quiesce := rfl
@[simp] theorem modPort_fab_passes (p : Nat) (f : Port → Port) : (modPort p f b).fab.passes = b.fab.passes := rfl
@[simp] theorem modPort_fab_mig (p : Nat) (f : Port → Port) : (modPort p f b).fab.mig = b.fab.mig := rfl
@[simp] theorem modPort_fab_redirects (p : Nat) (f : Port → Port) : (modPort p f b).fab.redirects = b.fab.redirects := rfl
@[simp] theorem modPort_fab_redirOwner (p : Nat) (f : Port → Port) : (modPort p f b).fab.redirOwner = b.fab.redirOwner := rfl
@[simp] theorem modPort_fab_colls (p : Nat) (f : Port → Port) : (modPort p f b).fab.colls = b.fab.colls := rfl
@[simp] theorem modPort_fab_collMsgs (p : Nat) (f : Port → Port) : (modPort p f b).fab.collMsgs = b.fab.collMsgs := rfl
@[simp] theorem modPort_fab_collZero (p : Nat) (f : Port → Port) : (modPort p f b).fab.collZero = b.fab.collZero := rfl
@[simp] theorem modPort_fab_heldRx (p : Nat) (f : Port → Port) : (modPort p f b).fab.heldRx = b.fab.heldRx := rfl
@[simp] theorem modPort_fab_heldBeats (p : Nat) (f : Port → Port) : (modPort p f b).fab.heldBeats = b.fab.heldBeats := rfl
@[simp] theorem portOf_modPort_same (p : Nat) (f : Port → Port) : portOf (modPort p f b) p = f (portOf b p) := tget_tmod_same _ _ _ _
theorem portOf_modPort_other (p : Nat) (f : Port → Port) {i : Nat} (hne : i ≠ p) : portOf (modPort p f b) i = portOf b i := tget_tmod_other _ _ _ hne

/-! `modEpoch` -/

@[simp] theorem modEpoch_time (t : Nat) (f : Epoch → Epoch) : (modEpoch t f b).time = b.time := rfl
@[simp] theorem modEpoch_fuses (t : Nat) (f : Epoch → Epoch) : (modEpoch t f b).fuses = b.fuses := rfl
@[simp] theorem modEpoch_pwr (t : Nat) (f : Epoch → Epoch) : (modEpoch t f b).pwr = b.pwr := rfl
@[simp] theorem modEpoch_adm (t : Nat) (f : Epoch → Epoch) : (modEpoch t f b).adm = b.adm := rfl
@[simp] theorem modEpoch_hub (t : Nat) (f : Epoch → Epoch) : (modEpoch t f b).hub = b.hub := rfl
@[simp] theorem modEpoch_dep (t : Nat) (f : Epoch → Epoch) : (modEpoch t f b).dep = b.dep := rfl
@[simp] theorem modEpoch_dsp (t : Nat) (f : Epoch → Epoch) : (modEpoch t f b).dsp = b.dsp := rfl
@[simp] theorem modEpoch_seq (t : Nat) (f : Epoch → Epoch) : (modEpoch t f b).seq = b.seq := rfl
@[simp] theorem modEpoch_bat (t : Nat) (f : Epoch → Epoch) : (modEpoch t f b).bat = b.bat := rfl
@[simp] theorem modEpoch_sch (t : Nat) (f : Epoch → Epoch) : (modEpoch t f b).sch = b.sch := rfl
@[simp] theorem modEpoch_sec (t : Nat) (f : Epoch → Epoch) : (modEpoch t f b).sec = b.sec := rfl
@[simp] theorem modEpoch_flt (t : Nat) (f : Epoch → Epoch) : (modEpoch t f b).flt = b.flt := rfl
@[simp] theorem modEpoch_out (t : Nat) (f : Epoch → Epoch) : (modEpoch t f b).out = b.out := rfl
@[simp] theorem modEpoch_fresh (t : Nat) (f : Epoch → Epoch) : (modEpoch t f b).fresh = b.fresh := rfl
@[simp] theorem modEpoch_fab_phase (t : Nat) (f : Epoch → Epoch) : (modEpoch t f b).fab.phase = b.fab.phase := rfl
@[simp] theorem modEpoch_fab_node (t : Nat) (f : Epoch → Epoch) : (modEpoch t f b).fab.node = b.fab.node := rfl
@[simp] theorem modEpoch_fab_isRoot (t : Nat) (f : Epoch → Epoch) : (modEpoch t f b).fab.isRoot = b.fab.isRoot := rfl
@[simp] theorem modEpoch_fab_rootNode (t : Nat) (f : Epoch → Epoch) : (modEpoch t f b).fab.rootNode = b.fab.rootNode := rfl
@[simp] theorem modEpoch_fab_rootSerial (t : Nat) (f : Epoch → Epoch) : (modEpoch t f b).fab.rootSerial = b.fab.rootSerial := rfl
@[simp] theorem modEpoch_fab_tie (t : Nat) (f : Epoch → Epoch) : (modEpoch t f b).fab.tie = b.fab.tie := rfl
@[simp] theorem modEpoch_fab_fru (t : Nat) (f : Epoch → Epoch) : (modEpoch t f b).fab.fru = b.fab.fru := rfl
@[simp] theorem modEpoch_fab_ports (t : Nat) (f : Epoch → Epoch) : (modEpoch t f b).fab.ports = b.fab.ports := rfl
@[simp] theorem modEpoch_fab_portSel (t : Nat) (f : Epoch → Epoch) : (modEpoch t f b).fab.portSel = b.fab.portSel := rfl
@[simp] theorem modEpoch_fab_routeSel (t : Nat) (f : Epoch → Epoch) : (modEpoch t f b).fab.routeSel = b.fab.routeSel := rfl
@[simp] theorem modEpoch_fab_mosSel (t : Nat) (f : Epoch → Epoch) : (modEpoch t f b).fab.mosSel = b.fab.mosSel := rfl
@[simp] theorem modEpoch_fab_train (t : Nat) (f : Epoch → Epoch) : (modEpoch t f b).fab.train = b.fab.train := rfl
@[simp] theorem modEpoch_fab_waveLog2 (t : Nat) (f : Epoch → Epoch) : (modEpoch t f b).fab.waveLog2 = b.fab.waveLog2 := rfl
@[simp] theorem modEpoch_fab_trainUse (t : Nat) (f : Epoch → Epoch) : (modEpoch t f b).fab.trainUse = b.fab.trainUse := rfl
@[simp] theorem modEpoch_fab_waveUse (t : Nat) (f : Epoch → Epoch) : (modEpoch t f b).fab.waveUse = b.fab.waveUse := rfl
@[simp] theorem modEpoch_fab_trainDead (t : Nat) (f : Epoch → Epoch) : (modEpoch t f b).fab.trainDead = b.fab.trainDead := rfl
@[simp] theorem modEpoch_fab_helloDead (t : Nat) (f : Epoch → Epoch) : (modEpoch t f b).fab.helloDead = b.fab.helloDead := rfl
@[simp] theorem modEpoch_fab_waveDead (t : Nat) (f : Epoch → Epoch) : (modEpoch t f b).fab.waveDead = b.fab.waveDead := rfl
@[simp] theorem modEpoch_fab_restarts (t : Nat) (f : Epoch → Epoch) : (modEpoch t f b).fab.restarts = b.fab.restarts := rfl
@[simp] theorem modEpoch_fab_error (t : Nat) (f : Epoch → Epoch) : (modEpoch t f b).fab.error = b.fab.error := rfl
@[simp] theorem modEpoch_fab_pinMode (t : Nat) (f : Epoch → Epoch) : (modEpoch t f b).fab.pinMode = b.fab.pinMode := rfl
@[simp] theorem modEpoch_fab_height (t : Nat) (f : Epoch → Epoch) : (modEpoch t f b).fab.height = b.fab.height := rfl
@[simp] theorem modEpoch_fab_nodes (t : Nat) (f : Epoch → Epoch) : (modEpoch t f b).fab.nodes = b.fab.nodes := rfl
@[simp] theorem modEpoch_fab_elect (t : Nat) (f : Epoch → Epoch) : (modEpoch t f b).fab.elect = b.fab.elect := rfl
@[simp] theorem modEpoch_fab_electing (t : Nat) (f : Epoch → Epoch) : (modEpoch t f b).fab.electing = b.fab.electing := rfl
@[simp] theorem modEpoch_fab_fabNodes (t : Nat) (f : Epoch → Epoch) : (modEpoch t f b).fab.fabNodes = b.fab.fabNodes := rfl
@[simp] theorem modEpoch_fab_tables (t : Nat) (f : Epoch → Epoch) : (modEpoch t f b).fab.tables = b.fab.tables := rfl
@[simp] theorem modEpoch_fab_map (t : Nat) (f : Epoch → Epoch) : (modEpoch t f b).fab.map = b.fab.map := rfl
@[simp] theorem modEpoch_fab_serials (t : Nat) (f : Epoch → Epoch) : (modEpoch t f b).fab.serials = b.fab.serials := rfl
@[simp] theorem modEpoch_fab_epoch (t : Nat) (f : Epoch → Epoch) : (modEpoch t f b).fab.epoch = b.fab.epoch := rfl
@[simp] theorem modEpoch_fab_swAt (t : Nat) (f : Epoch → Epoch) : (modEpoch t f b).fab.swAt = b.fab.swAt := rfl
@[simp] theorem modEpoch_fab_change (t : Nat) (f : Epoch → Epoch) : (modEpoch t f b).fab.change = b.fab.change := rfl
@[simp] theorem modEpoch_fab_waiting (t : Nat) (f : Epoch → Epoch) : (modEpoch t f b).fab.waiting = b.fab.waiting := rfl
@[simp] theorem modEpoch_fab_drains (t : Nat) (f : Epoch → Epoch) : (modEpoch t f b).fab.drains = b.fab.drains := rfl
@[simp] theorem modEpoch_fab_joining (t : Nat) (f : Epoch → Epoch) : (modEpoch t f b).fab.joining = b.fab.joining := rfl
@[simp] theorem modEpoch_fab_flooded (t : Nat) (f : Epoch → Epoch) : (modEpoch t f b).fab.flooded = b.fab.flooded := rfl
@[simp] theorem modEpoch_fab_fresh (t : Nat) (f : Epoch → Epoch) : (modEpoch t f b).fab.fresh = b.fab.fresh := rfl
@[simp] theorem modEpoch_fab_joins (t : Nat) (f : Epoch → Epoch) : (modEpoch t f b).fab.joins = b.fab.joins := rfl
@[simp] theorem modEpoch_fab_via (t : Nat) (f : Epoch → Epoch) : (modEpoch t f b).fab.via = b.fab.via := rfl
@[simp] theorem modEpoch_fab_relays (t : Nat) (f : Epoch → Epoch) : (modEpoch t f b).fab.relays = b.fab.relays := rfl
@[simp] theorem modEpoch_fab_dups (t : Nat) (f : Epoch → Epoch) : (modEpoch t f b).fab.dups = b.fab.dups := rfl
@[simp] theorem modEpoch_fab_withdrawn (t : Nat) (f : Epoch → Epoch) : (modEpoch t f b).fab.withdrawn = b.fab.withdrawn := rfl
@[simp] theorem modEpoch_fab_downs (t : Nat) (f : Epoch → Epoch) : (modEpoch t f b).fab.downs = b.fab.downs := rfl
@[simp] theorem modEpoch_fab_stray (t : Nat) (f : Epoch → Epoch) : (modEpoch t f b).fab.stray = b.fab.stray := rfl
@[simp] theorem modEpoch_fab_seqOut (t : Nat) (f : Epoch → Epoch) : (modEpoch t f b).fab.seqOut = b.fab.seqOut := rfl
@[simp] theorem modEpoch_fab_dropAuth (t : Nat) (f : Epoch → Epoch) : (modEpoch t f b).fab.dropAuth = b.fab.dropAuth := rfl
@[simp] theorem modEpoch_fab_dropReplay (t : Nat) (f : Epoch → Epoch) : (modEpoch t f b).fab.dropReplay = b.fab.dropReplay := rfl
@[simp] theorem modEpoch_fab_dropNoroute (t : Nat) (f : Epoch → Epoch) : (modEpoch t f b).fab.dropNoroute = b.fab.dropNoroute := rfl
@[simp] theorem modEpoch_fab_dropOverflow (t : Nat) (f : Epoch → Epoch) : (modEpoch t f b).fab.dropOverflow = b.fab.dropOverflow := rfl
@[simp] theorem modEpoch_fab_idMode (t : Nat) (f : Epoch → Epoch) : (modEpoch t f b).fab.idMode = b.fab.idMode := rfl
@[simp] theorem modEpoch_fab_rescan (t : Nat) (f : Epoch → Epoch) : (modEpoch t f b).fab.rescan = b.fab.rescan := rfl
@[simp] theorem modEpoch_fab_fruDead (t : Nat) (f : Epoch → Epoch) : (modEpoch t f b).fab.fruDead = b.fab.fruDead := rfl
@[simp] theorem modEpoch_fab_cmisDead (t : Nat) (f : Epoch → Epoch) : (modEpoch t f b).fab.cmisDead = b.fab.cmisDead := rfl
@[simp] theorem modEpoch_fab_cmisLeft (t : Nat) (f : Epoch → Epoch) : (modEpoch t f b).fab.cmisLeft = b.fab.cmisLeft := rfl
@[simp] theorem modEpoch_fab_slots (t : Nat) (f : Epoch → Epoch) : (modEpoch t f b).fab.slots = b.fab.slots := rfl
@[simp] theorem modEpoch_fab_quiesce (t : Nat) (f : Epoch → Epoch) : (modEpoch t f b).fab.quiesce = b.fab.quiesce := rfl
@[simp] theorem modEpoch_fab_passes (t : Nat) (f : Epoch → Epoch) : (modEpoch t f b).fab.passes = b.fab.passes := rfl
@[simp] theorem modEpoch_fab_mig (t : Nat) (f : Epoch → Epoch) : (modEpoch t f b).fab.mig = b.fab.mig := rfl
@[simp] theorem modEpoch_fab_redirects (t : Nat) (f : Epoch → Epoch) : (modEpoch t f b).fab.redirects = b.fab.redirects := rfl
@[simp] theorem modEpoch_fab_redirOwner (t : Nat) (f : Epoch → Epoch) : (modEpoch t f b).fab.redirOwner = b.fab.redirOwner := rfl
@[simp] theorem modEpoch_fab_colls (t : Nat) (f : Epoch → Epoch) : (modEpoch t f b).fab.colls = b.fab.colls := rfl
@[simp] theorem modEpoch_fab_collMsgs (t : Nat) (f : Epoch → Epoch) : (modEpoch t f b).fab.collMsgs = b.fab.collMsgs := rfl
@[simp] theorem modEpoch_fab_collZero (t : Nat) (f : Epoch → Epoch) : (modEpoch t f b).fab.collZero = b.fab.collZero := rfl
@[simp] theorem modEpoch_fab_heldRx (t : Nat) (f : Epoch → Epoch) : (modEpoch t f b).fab.heldRx = b.fab.heldRx := rfl
@[simp] theorem modEpoch_fab_heldBeats (t : Nat) (f : Epoch → Epoch) : (modEpoch t f b).fab.heldBeats = b.fab.heldBeats := rfl
@[simp] theorem epochOf_modEpoch_same (t : Nat) (f : Epoch → Epoch) : epochOf (modEpoch t f b) t = f (epochOf b t) := tget_tmod_same _ _ _ _
theorem epochOf_modEpoch_other (t : Nat) (f : Epoch → Epoch) {i : Nat} (hne : i ≠ t) : epochOf (modEpoch t f b) i = epochOf b i := tget_tmod_other _ _ _ hne

/-! `modMap` -/

@[simp] theorem modMap_time (n : Nat) (f : MapNode → MapNode) : (modMap n f b).time = b.time := rfl
@[simp] theorem modMap_fuses (n : Nat) (f : MapNode → MapNode) : (modMap n f b).fuses = b.fuses := rfl
@[simp] theorem modMap_pwr (n : Nat) (f : MapNode → MapNode) : (modMap n f b).pwr = b.pwr := rfl
@[simp] theorem modMap_adm (n : Nat) (f : MapNode → MapNode) : (modMap n f b).adm = b.adm := rfl
@[simp] theorem modMap_hub (n : Nat) (f : MapNode → MapNode) : (modMap n f b).hub = b.hub := rfl
@[simp] theorem modMap_dep (n : Nat) (f : MapNode → MapNode) : (modMap n f b).dep = b.dep := rfl
@[simp] theorem modMap_dsp (n : Nat) (f : MapNode → MapNode) : (modMap n f b).dsp = b.dsp := rfl
@[simp] theorem modMap_seq (n : Nat) (f : MapNode → MapNode) : (modMap n f b).seq = b.seq := rfl
@[simp] theorem modMap_bat (n : Nat) (f : MapNode → MapNode) : (modMap n f b).bat = b.bat := rfl
@[simp] theorem modMap_sch (n : Nat) (f : MapNode → MapNode) : (modMap n f b).sch = b.sch := rfl
@[simp] theorem modMap_sec (n : Nat) (f : MapNode → MapNode) : (modMap n f b).sec = b.sec := rfl
@[simp] theorem modMap_flt (n : Nat) (f : MapNode → MapNode) : (modMap n f b).flt = b.flt := rfl
@[simp] theorem modMap_out (n : Nat) (f : MapNode → MapNode) : (modMap n f b).out = b.out := rfl
@[simp] theorem modMap_fresh (n : Nat) (f : MapNode → MapNode) : (modMap n f b).fresh = b.fresh := rfl
@[simp] theorem modMap_fab_phase (n : Nat) (f : MapNode → MapNode) : (modMap n f b).fab.phase = b.fab.phase := rfl
@[simp] theorem modMap_fab_node (n : Nat) (f : MapNode → MapNode) : (modMap n f b).fab.node = b.fab.node := rfl
@[simp] theorem modMap_fab_isRoot (n : Nat) (f : MapNode → MapNode) : (modMap n f b).fab.isRoot = b.fab.isRoot := rfl
@[simp] theorem modMap_fab_rootNode (n : Nat) (f : MapNode → MapNode) : (modMap n f b).fab.rootNode = b.fab.rootNode := rfl
@[simp] theorem modMap_fab_rootSerial (n : Nat) (f : MapNode → MapNode) : (modMap n f b).fab.rootSerial = b.fab.rootSerial := rfl
@[simp] theorem modMap_fab_tie (n : Nat) (f : MapNode → MapNode) : (modMap n f b).fab.tie = b.fab.tie := rfl
@[simp] theorem modMap_fab_fru (n : Nat) (f : MapNode → MapNode) : (modMap n f b).fab.fru = b.fab.fru := rfl
@[simp] theorem modMap_fab_ports (n : Nat) (f : MapNode → MapNode) : (modMap n f b).fab.ports = b.fab.ports := rfl
@[simp] theorem modMap_fab_portSel (n : Nat) (f : MapNode → MapNode) : (modMap n f b).fab.portSel = b.fab.portSel := rfl
@[simp] theorem modMap_fab_routeSel (n : Nat) (f : MapNode → MapNode) : (modMap n f b).fab.routeSel = b.fab.routeSel := rfl
@[simp] theorem modMap_fab_mosSel (n : Nat) (f : MapNode → MapNode) : (modMap n f b).fab.mosSel = b.fab.mosSel := rfl
@[simp] theorem modMap_fab_train (n : Nat) (f : MapNode → MapNode) : (modMap n f b).fab.train = b.fab.train := rfl
@[simp] theorem modMap_fab_waveLog2 (n : Nat) (f : MapNode → MapNode) : (modMap n f b).fab.waveLog2 = b.fab.waveLog2 := rfl
@[simp] theorem modMap_fab_trainUse (n : Nat) (f : MapNode → MapNode) : (modMap n f b).fab.trainUse = b.fab.trainUse := rfl
@[simp] theorem modMap_fab_waveUse (n : Nat) (f : MapNode → MapNode) : (modMap n f b).fab.waveUse = b.fab.waveUse := rfl
@[simp] theorem modMap_fab_trainDead (n : Nat) (f : MapNode → MapNode) : (modMap n f b).fab.trainDead = b.fab.trainDead := rfl
@[simp] theorem modMap_fab_helloDead (n : Nat) (f : MapNode → MapNode) : (modMap n f b).fab.helloDead = b.fab.helloDead := rfl
@[simp] theorem modMap_fab_waveDead (n : Nat) (f : MapNode → MapNode) : (modMap n f b).fab.waveDead = b.fab.waveDead := rfl
@[simp] theorem modMap_fab_restarts (n : Nat) (f : MapNode → MapNode) : (modMap n f b).fab.restarts = b.fab.restarts := rfl
@[simp] theorem modMap_fab_error (n : Nat) (f : MapNode → MapNode) : (modMap n f b).fab.error = b.fab.error := rfl
@[simp] theorem modMap_fab_pinMode (n : Nat) (f : MapNode → MapNode) : (modMap n f b).fab.pinMode = b.fab.pinMode := rfl
@[simp] theorem modMap_fab_height (n : Nat) (f : MapNode → MapNode) : (modMap n f b).fab.height = b.fab.height := rfl
@[simp] theorem modMap_fab_nodes (n : Nat) (f : MapNode → MapNode) : (modMap n f b).fab.nodes = b.fab.nodes := rfl
@[simp] theorem modMap_fab_elect (n : Nat) (f : MapNode → MapNode) : (modMap n f b).fab.elect = b.fab.elect := rfl
@[simp] theorem modMap_fab_electing (n : Nat) (f : MapNode → MapNode) : (modMap n f b).fab.electing = b.fab.electing := rfl
@[simp] theorem modMap_fab_fabNodes (n : Nat) (f : MapNode → MapNode) : (modMap n f b).fab.fabNodes = b.fab.fabNodes := rfl
@[simp] theorem modMap_fab_tables (n : Nat) (f : MapNode → MapNode) : (modMap n f b).fab.tables = b.fab.tables := rfl
@[simp] theorem modMap_fab_serials (n : Nat) (f : MapNode → MapNode) : (modMap n f b).fab.serials = b.fab.serials := rfl
@[simp] theorem modMap_fab_epoch (n : Nat) (f : MapNode → MapNode) : (modMap n f b).fab.epoch = b.fab.epoch := rfl
@[simp] theorem modMap_fab_epochs (n : Nat) (f : MapNode → MapNode) : (modMap n f b).fab.epochs = b.fab.epochs := rfl
@[simp] theorem modMap_fab_swAt (n : Nat) (f : MapNode → MapNode) : (modMap n f b).fab.swAt = b.fab.swAt := rfl
@[simp] theorem modMap_fab_change (n : Nat) (f : MapNode → MapNode) : (modMap n f b).fab.change = b.fab.change := rfl
@[simp] theorem modMap_fab_waiting (n : Nat) (f : MapNode → MapNode) : (modMap n f b).fab.waiting = b.fab.waiting := rfl
@[simp] theorem modMap_fab_drains (n : Nat) (f : MapNode → MapNode) : (modMap n f b).fab.drains = b.fab.drains := rfl
@[simp] theorem modMap_fab_joining (n : Nat) (f : MapNode → MapNode) : (modMap n f b).fab.joining = b.fab.joining := rfl
@[simp] theorem modMap_fab_flooded (n : Nat) (f : MapNode → MapNode) : (modMap n f b).fab.flooded = b.fab.flooded := rfl
@[simp] theorem modMap_fab_fresh (n : Nat) (f : MapNode → MapNode) : (modMap n f b).fab.fresh = b.fab.fresh := rfl
@[simp] theorem modMap_fab_joins (n : Nat) (f : MapNode → MapNode) : (modMap n f b).fab.joins = b.fab.joins := rfl
@[simp] theorem modMap_fab_via (n : Nat) (f : MapNode → MapNode) : (modMap n f b).fab.via = b.fab.via := rfl
@[simp] theorem modMap_fab_relays (n : Nat) (f : MapNode → MapNode) : (modMap n f b).fab.relays = b.fab.relays := rfl
@[simp] theorem modMap_fab_dups (n : Nat) (f : MapNode → MapNode) : (modMap n f b).fab.dups = b.fab.dups := rfl
@[simp] theorem modMap_fab_withdrawn (n : Nat) (f : MapNode → MapNode) : (modMap n f b).fab.withdrawn = b.fab.withdrawn := rfl
@[simp] theorem modMap_fab_downs (n : Nat) (f : MapNode → MapNode) : (modMap n f b).fab.downs = b.fab.downs := rfl
@[simp] theorem modMap_fab_stray (n : Nat) (f : MapNode → MapNode) : (modMap n f b).fab.stray = b.fab.stray := rfl
@[simp] theorem modMap_fab_seqOut (n : Nat) (f : MapNode → MapNode) : (modMap n f b).fab.seqOut = b.fab.seqOut := rfl
@[simp] theorem modMap_fab_dropAuth (n : Nat) (f : MapNode → MapNode) : (modMap n f b).fab.dropAuth = b.fab.dropAuth := rfl
@[simp] theorem modMap_fab_dropReplay (n : Nat) (f : MapNode → MapNode) : (modMap n f b).fab.dropReplay = b.fab.dropReplay := rfl
@[simp] theorem modMap_fab_dropNoroute (n : Nat) (f : MapNode → MapNode) : (modMap n f b).fab.dropNoroute = b.fab.dropNoroute := rfl
@[simp] theorem modMap_fab_dropOverflow (n : Nat) (f : MapNode → MapNode) : (modMap n f b).fab.dropOverflow = b.fab.dropOverflow := rfl
@[simp] theorem modMap_fab_idMode (n : Nat) (f : MapNode → MapNode) : (modMap n f b).fab.idMode = b.fab.idMode := rfl
@[simp] theorem modMap_fab_rescan (n : Nat) (f : MapNode → MapNode) : (modMap n f b).fab.rescan = b.fab.rescan := rfl
@[simp] theorem modMap_fab_fruDead (n : Nat) (f : MapNode → MapNode) : (modMap n f b).fab.fruDead = b.fab.fruDead := rfl
@[simp] theorem modMap_fab_cmisDead (n : Nat) (f : MapNode → MapNode) : (modMap n f b).fab.cmisDead = b.fab.cmisDead := rfl
@[simp] theorem modMap_fab_cmisLeft (n : Nat) (f : MapNode → MapNode) : (modMap n f b).fab.cmisLeft = b.fab.cmisLeft := rfl
@[simp] theorem modMap_fab_slots (n : Nat) (f : MapNode → MapNode) : (modMap n f b).fab.slots = b.fab.slots := rfl
@[simp] theorem modMap_fab_quiesce (n : Nat) (f : MapNode → MapNode) : (modMap n f b).fab.quiesce = b.fab.quiesce := rfl
@[simp] theorem modMap_fab_passes (n : Nat) (f : MapNode → MapNode) : (modMap n f b).fab.passes = b.fab.passes := rfl
@[simp] theorem modMap_fab_mig (n : Nat) (f : MapNode → MapNode) : (modMap n f b).fab.mig = b.fab.mig := rfl
@[simp] theorem modMap_fab_redirects (n : Nat) (f : MapNode → MapNode) : (modMap n f b).fab.redirects = b.fab.redirects := rfl
@[simp] theorem modMap_fab_redirOwner (n : Nat) (f : MapNode → MapNode) : (modMap n f b).fab.redirOwner = b.fab.redirOwner := rfl
@[simp] theorem modMap_fab_colls (n : Nat) (f : MapNode → MapNode) : (modMap n f b).fab.colls = b.fab.colls := rfl
@[simp] theorem modMap_fab_collMsgs (n : Nat) (f : MapNode → MapNode) : (modMap n f b).fab.collMsgs = b.fab.collMsgs := rfl
@[simp] theorem modMap_fab_collZero (n : Nat) (f : MapNode → MapNode) : (modMap n f b).fab.collZero = b.fab.collZero := rfl
@[simp] theorem modMap_fab_heldRx (n : Nat) (f : MapNode → MapNode) : (modMap n f b).fab.heldRx = b.fab.heldRx := rfl
@[simp] theorem modMap_fab_heldBeats (n : Nat) (f : MapNode → MapNode) : (modMap n f b).fab.heldBeats = b.fab.heldBeats := rfl

/-! `modPool` -/

@[simp] theorem modPool_time (p : Nat) (f : Pool → Pool) : (modPool p f b).time = b.time := rfl
@[simp] theorem modPool_fuses (p : Nat) (f : Pool → Pool) : (modPool p f b).fuses = b.fuses := rfl
@[simp] theorem modPool_pwr (p : Nat) (f : Pool → Pool) : (modPool p f b).pwr = b.pwr := rfl
@[simp] theorem modPool_adm (p : Nat) (f : Pool → Pool) : (modPool p f b).adm = b.adm := rfl
@[simp] theorem modPool_hub (p : Nat) (f : Pool → Pool) : (modPool p f b).hub = b.hub := rfl
@[simp] theorem modPool_dep (p : Nat) (f : Pool → Pool) : (modPool p f b).dep = b.dep := rfl
@[simp] theorem modPool_dsp (p : Nat) (f : Pool → Pool) : (modPool p f b).dsp = b.dsp := rfl
@[simp] theorem modPool_seq (p : Nat) (f : Pool → Pool) : (modPool p f b).seq = b.seq := rfl
@[simp] theorem modPool_fab (p : Nat) (f : Pool → Pool) : (modPool p f b).fab = b.fab := rfl
@[simp] theorem modPool_sch (p : Nat) (f : Pool → Pool) : (modPool p f b).sch = b.sch := rfl
@[simp] theorem modPool_sec (p : Nat) (f : Pool → Pool) : (modPool p f b).sec = b.sec := rfl
@[simp] theorem modPool_flt (p : Nat) (f : Pool → Pool) : (modPool p f b).flt = b.flt := rfl
@[simp] theorem modPool_out (p : Nat) (f : Pool → Pool) : (modPool p f b).out = b.out := rfl
@[simp] theorem modPool_fresh (p : Nat) (f : Pool → Pool) : (modPool p f b).fresh = b.fresh := rfl
@[simp] theorem modPool_bat_seqs (p : Nat) (f : Pool → Pool) : (modPool p f b).bat.seqs = b.bat.seqs := rfl
@[simp] theorem modPool_bat_seqSel (p : Nat) (f : Pool → Pool) : (modPool p f b).bat.seqSel = b.bat.seqSel := rfl
@[simp] theorem modPool_bat_pairSel (p : Nat) (f : Pool → Pool) : (modPool p f b).bat.pairSel = b.bat.pairSel := rfl
@[simp] theorem modPool_bat_poolSel (p : Nat) (f : Pool → Pool) : (modPool p f b).bat.poolSel = b.bat.poolSel := rfl
@[simp] theorem modPool_bat_mosSel (p : Nat) (f : Pool → Pool) : (modPool p f b).bat.mosSel = b.bat.mosSel := rfl
@[simp] theorem modPool_bat_timeout (p : Nat) (f : Pool → Pool) : (modPool p f b).bat.timeout = b.bat.timeout := rfl
@[simp] theorem modPool_bat_stray (p : Nat) (f : Pool → Pool) : (modPool p f b).bat.stray = b.bat.stray := rfl
@[simp] theorem modPool_bat_loops (p : Nat) (f : Pool → Pool) : (modPool p f b).bat.loops = b.bat.loops := rfl
@[simp] theorem modPool_bat_rings (p : Nat) (f : Pool → Pool) : (modPool p f b).bat.rings = b.bat.rings := rfl
@[simp] theorem modPool_bat_wrq (p : Nat) (f : Pool → Pool) : (modPool p f b).bat.wrq = b.bat.wrq := rfl
@[simp] theorem modPool_bat_insts (p : Nat) (f : Pool → Pool) : (modPool p f b).bat.insts = b.bat.insts := rfl
@[simp] theorem modPool_bat_nextInst (p : Nat) (f : Pool → Pool) : (modPool p f b).bat.nextInst = b.bat.nextInst := rfl
@[simp] theorem poolOf_modPool_same (p : Nat) (f : Pool → Pool) : poolOf (modPool p f b) p = f (poolOf b p) := tget_tmod_same _ _ _ _
theorem poolOf_modPool_other (p : Nat) (f : Pool → Pool) {i : Nat} (hne : i ≠ p) : poolOf (modPool p f b) i = poolOf b i := tget_tmod_other _ _ _ hne

/-! `modSeqn` -/

@[simp] theorem modSeqn_time (i : Nat) (f : Seqn → Seqn) : (modSeqn i f b).time = b.time := rfl
@[simp] theorem modSeqn_fuses (i : Nat) (f : Seqn → Seqn) : (modSeqn i f b).fuses = b.fuses := rfl
@[simp] theorem modSeqn_pwr (i : Nat) (f : Seqn → Seqn) : (modSeqn i f b).pwr = b.pwr := rfl
@[simp] theorem modSeqn_adm (i : Nat) (f : Seqn → Seqn) : (modSeqn i f b).adm = b.adm := rfl
@[simp] theorem modSeqn_hub (i : Nat) (f : Seqn → Seqn) : (modSeqn i f b).hub = b.hub := rfl
@[simp] theorem modSeqn_dep (i : Nat) (f : Seqn → Seqn) : (modSeqn i f b).dep = b.dep := rfl
@[simp] theorem modSeqn_dsp (i : Nat) (f : Seqn → Seqn) : (modSeqn i f b).dsp = b.dsp := rfl
@[simp] theorem modSeqn_seq (i : Nat) (f : Seqn → Seqn) : (modSeqn i f b).seq = b.seq := rfl
@[simp] theorem modSeqn_fab (i : Nat) (f : Seqn → Seqn) : (modSeqn i f b).fab = b.fab := rfl
@[simp] theorem modSeqn_sch (i : Nat) (f : Seqn → Seqn) : (modSeqn i f b).sch = b.sch := rfl
@[simp] theorem modSeqn_sec (i : Nat) (f : Seqn → Seqn) : (modSeqn i f b).sec = b.sec := rfl
@[simp] theorem modSeqn_flt (i : Nat) (f : Seqn → Seqn) : (modSeqn i f b).flt = b.flt := rfl
@[simp] theorem modSeqn_out (i : Nat) (f : Seqn → Seqn) : (modSeqn i f b).out = b.out := rfl
@[simp] theorem modSeqn_fresh (i : Nat) (f : Seqn → Seqn) : (modSeqn i f b).fresh = b.fresh := rfl
@[simp] theorem modSeqn_bat_seqSel (i : Nat) (f : Seqn → Seqn) : (modSeqn i f b).bat.seqSel = b.bat.seqSel := rfl
@[simp] theorem modSeqn_bat_pairSel (i : Nat) (f : Seqn → Seqn) : (modSeqn i f b).bat.pairSel = b.bat.pairSel := rfl
@[simp] theorem modSeqn_bat_poolSel (i : Nat) (f : Seqn → Seqn) : (modSeqn i f b).bat.poolSel = b.bat.poolSel := rfl
@[simp] theorem modSeqn_bat_mosSel (i : Nat) (f : Seqn → Seqn) : (modSeqn i f b).bat.mosSel = b.bat.mosSel := rfl
@[simp] theorem modSeqn_bat_timeout (i : Nat) (f : Seqn → Seqn) : (modSeqn i f b).bat.timeout = b.bat.timeout := rfl
@[simp] theorem modSeqn_bat_stray (i : Nat) (f : Seqn → Seqn) : (modSeqn i f b).bat.stray = b.bat.stray := rfl
@[simp] theorem modSeqn_bat_pools (i : Nat) (f : Seqn → Seqn) : (modSeqn i f b).bat.pools = b.bat.pools := rfl
@[simp] theorem modSeqn_bat_loops (i : Nat) (f : Seqn → Seqn) : (modSeqn i f b).bat.loops = b.bat.loops := rfl
@[simp] theorem modSeqn_bat_rings (i : Nat) (f : Seqn → Seqn) : (modSeqn i f b).bat.rings = b.bat.rings := rfl
@[simp] theorem modSeqn_bat_wrq (i : Nat) (f : Seqn → Seqn) : (modSeqn i f b).bat.wrq = b.bat.wrq := rfl
@[simp] theorem modSeqn_bat_insts (i : Nat) (f : Seqn → Seqn) : (modSeqn i f b).bat.insts = b.bat.insts := rfl
@[simp] theorem modSeqn_bat_nextInst (i : Nat) (f : Seqn → Seqn) : (modSeqn i f b).bat.nextInst = b.bat.nextInst := rfl
@[simp] theorem seqnOf_modSeqn_same (i : Nat) (f : Seqn → Seqn) : seqnOf (modSeqn i f b) i = f (seqnOf b i) := tget_tmod_same _ _ _ _
theorem seqnOf_modSeqn_other (j : Nat) (f : Seqn → Seqn) {i : Nat} (hne : i ≠ j) : seqnOf (modSeqn j f b) i = seqnOf b i := tget_tmod_other _ _ _ hne

/-! `modLoop` -/

@[simp] theorem modLoop_time (k : Nat) (f : Loop → Loop) : (modLoop k f b).time = b.time := rfl
@[simp] theorem modLoop_fuses (k : Nat) (f : Loop → Loop) : (modLoop k f b).fuses = b.fuses := rfl
@[simp] theorem modLoop_pwr (k : Nat) (f : Loop → Loop) : (modLoop k f b).pwr = b.pwr := rfl
@[simp] theorem modLoop_adm (k : Nat) (f : Loop → Loop) : (modLoop k f b).adm = b.adm := rfl
@[simp] theorem modLoop_hub (k : Nat) (f : Loop → Loop) : (modLoop k f b).hub = b.hub := rfl
@[simp] theorem modLoop_dep (k : Nat) (f : Loop → Loop) : (modLoop k f b).dep = b.dep := rfl
@[simp] theorem modLoop_dsp (k : Nat) (f : Loop → Loop) : (modLoop k f b).dsp = b.dsp := rfl
@[simp] theorem modLoop_seq (k : Nat) (f : Loop → Loop) : (modLoop k f b).seq = b.seq := rfl
@[simp] theorem modLoop_fab (k : Nat) (f : Loop → Loop) : (modLoop k f b).fab = b.fab := rfl
@[simp] theorem modLoop_sch (k : Nat) (f : Loop → Loop) : (modLoop k f b).sch = b.sch := rfl
@[simp] theorem modLoop_sec (k : Nat) (f : Loop → Loop) : (modLoop k f b).sec = b.sec := rfl
@[simp] theorem modLoop_flt (k : Nat) (f : Loop → Loop) : (modLoop k f b).flt = b.flt := rfl
@[simp] theorem modLoop_out (k : Nat) (f : Loop → Loop) : (modLoop k f b).out = b.out := rfl
@[simp] theorem modLoop_fresh (k : Nat) (f : Loop → Loop) : (modLoop k f b).fresh = b.fresh := rfl
@[simp] theorem modLoop_bat_seqs (k : Nat) (f : Loop → Loop) : (modLoop k f b).bat.seqs = b.bat.seqs := rfl
@[simp] theorem modLoop_bat_seqSel (k : Nat) (f : Loop → Loop) : (modLoop k f b).bat.seqSel = b.bat.seqSel := rfl
@[simp] theorem modLoop_bat_pairSel (k : Nat) (f : Loop → Loop) : (modLoop k f b).bat.pairSel = b.bat.pairSel := rfl
@[simp] theorem modLoop_bat_poolSel (k : Nat) (f : Loop → Loop) : (modLoop k f b).bat.poolSel = b.bat.poolSel := rfl
@[simp] theorem modLoop_bat_mosSel (k : Nat) (f : Loop → Loop) : (modLoop k f b).bat.mosSel = b.bat.mosSel := rfl
@[simp] theorem modLoop_bat_timeout (k : Nat) (f : Loop → Loop) : (modLoop k f b).bat.timeout = b.bat.timeout := rfl
@[simp] theorem modLoop_bat_stray (k : Nat) (f : Loop → Loop) : (modLoop k f b).bat.stray = b.bat.stray := rfl
@[simp] theorem modLoop_bat_pools (k : Nat) (f : Loop → Loop) : (modLoop k f b).bat.pools = b.bat.pools := rfl
@[simp] theorem modLoop_bat_rings (k : Nat) (f : Loop → Loop) : (modLoop k f b).bat.rings = b.bat.rings := rfl
@[simp] theorem modLoop_bat_wrq (k : Nat) (f : Loop → Loop) : (modLoop k f b).bat.wrq = b.bat.wrq := rfl
@[simp] theorem modLoop_bat_insts (k : Nat) (f : Loop → Loop) : (modLoop k f b).bat.insts = b.bat.insts := rfl
@[simp] theorem modLoop_bat_nextInst (k : Nat) (f : Loop → Loop) : (modLoop k f b).bat.nextInst = b.bat.nextInst := rfl
@[simp] theorem loopOf_modLoop_same (k : Nat) (f : Loop → Loop) : loopOf (modLoop k f b) k = f (loopOf b k) := tget_tmod_same _ _ _ _
theorem loopOf_modLoop_other (k : Nat) (f : Loop → Loop) {i : Nat} (hne : i ≠ k) : loopOf (modLoop k f b) i = loopOf b i := tget_tmod_other _ _ _ hne

/-! `modRing` -/

@[simp] theorem modRing_time (c : Nat) (f : TokRing → TokRing) : (modRing c f b).time = b.time := rfl
@[simp] theorem modRing_fuses (c : Nat) (f : TokRing → TokRing) : (modRing c f b).fuses = b.fuses := rfl
@[simp] theorem modRing_pwr (c : Nat) (f : TokRing → TokRing) : (modRing c f b).pwr = b.pwr := rfl
@[simp] theorem modRing_adm (c : Nat) (f : TokRing → TokRing) : (modRing c f b).adm = b.adm := rfl
@[simp] theorem modRing_hub (c : Nat) (f : TokRing → TokRing) : (modRing c f b).hub = b.hub := rfl
@[simp] theorem modRing_dep (c : Nat) (f : TokRing → TokRing) : (modRing c f b).dep = b.dep := rfl
@[simp] theorem modRing_dsp (c : Nat) (f : TokRing → TokRing) : (modRing c f b).dsp = b.dsp := rfl
@[simp] theorem modRing_seq (c : Nat) (f : TokRing → TokRing) : (modRing c f b).seq = b.seq := rfl
@[simp] theorem modRing_fab (c : Nat) (f : TokRing → TokRing) : (modRing c f b).fab = b.fab := rfl
@[simp] theorem modRing_sch (c : Nat) (f : TokRing → TokRing) : (modRing c f b).sch = b.sch := rfl
@[simp] theorem modRing_sec (c : Nat) (f : TokRing → TokRing) : (modRing c f b).sec = b.sec := rfl
@[simp] theorem modRing_flt (c : Nat) (f : TokRing → TokRing) : (modRing c f b).flt = b.flt := rfl
@[simp] theorem modRing_out (c : Nat) (f : TokRing → TokRing) : (modRing c f b).out = b.out := rfl
@[simp] theorem modRing_fresh (c : Nat) (f : TokRing → TokRing) : (modRing c f b).fresh = b.fresh := rfl
@[simp] theorem modRing_bat_seqs (c : Nat) (f : TokRing → TokRing) : (modRing c f b).bat.seqs = b.bat.seqs := rfl
@[simp] theorem modRing_bat_seqSel (c : Nat) (f : TokRing → TokRing) : (modRing c f b).bat.seqSel = b.bat.seqSel := rfl
@[simp] theorem modRing_bat_pairSel (c : Nat) (f : TokRing → TokRing) : (modRing c f b).bat.pairSel = b.bat.pairSel := rfl
@[simp] theorem modRing_bat_poolSel (c : Nat) (f : TokRing → TokRing) : (modRing c f b).bat.poolSel = b.bat.poolSel := rfl
@[simp] theorem modRing_bat_mosSel (c : Nat) (f : TokRing → TokRing) : (modRing c f b).bat.mosSel = b.bat.mosSel := rfl
@[simp] theorem modRing_bat_timeout (c : Nat) (f : TokRing → TokRing) : (modRing c f b).bat.timeout = b.bat.timeout := rfl
@[simp] theorem modRing_bat_stray (c : Nat) (f : TokRing → TokRing) : (modRing c f b).bat.stray = b.bat.stray := rfl
@[simp] theorem modRing_bat_pools (c : Nat) (f : TokRing → TokRing) : (modRing c f b).bat.pools = b.bat.pools := rfl
@[simp] theorem modRing_bat_loops (c : Nat) (f : TokRing → TokRing) : (modRing c f b).bat.loops = b.bat.loops := rfl
@[simp] theorem modRing_bat_wrq (c : Nat) (f : TokRing → TokRing) : (modRing c f b).bat.wrq = b.bat.wrq := rfl
@[simp] theorem modRing_bat_insts (c : Nat) (f : TokRing → TokRing) : (modRing c f b).bat.insts = b.bat.insts := rfl
@[simp] theorem modRing_bat_nextInst (c : Nat) (f : TokRing → TokRing) : (modRing c f b).bat.nextInst = b.bat.nextInst := rfl
@[simp] theorem ringOf_modRing_same (c : Nat) (f : TokRing → TokRing) : ringOf (modRing c f b) c = f (ringOf b c) := tget_tmod_same _ _ _ _
theorem ringOf_modRing_other (c : Nat) (f : TokRing → TokRing) {i : Nat} (hne : i ≠ c) : ringOf (modRing c f b) i = ringOf b i := tget_tmod_other _ _ _ hne

/-! `modInst` -/

@[simp] theorem modInst_time (i : Nat) (f : Inst → Inst) : (modInst i f b).time = b.time := rfl
@[simp] theorem modInst_fuses (i : Nat) (f : Inst → Inst) : (modInst i f b).fuses = b.fuses := rfl
@[simp] theorem modInst_pwr (i : Nat) (f : Inst → Inst) : (modInst i f b).pwr = b.pwr := rfl
@[simp] theorem modInst_adm (i : Nat) (f : Inst → Inst) : (modInst i f b).adm = b.adm := rfl
@[simp] theorem modInst_hub (i : Nat) (f : Inst → Inst) : (modInst i f b).hub = b.hub := rfl
@[simp] theorem modInst_dep (i : Nat) (f : Inst → Inst) : (modInst i f b).dep = b.dep := rfl
@[simp] theorem modInst_dsp (i : Nat) (f : Inst → Inst) : (modInst i f b).dsp = b.dsp := rfl
@[simp] theorem modInst_seq (i : Nat) (f : Inst → Inst) : (modInst i f b).seq = b.seq := rfl
@[simp] theorem modInst_fab (i : Nat) (f : Inst → Inst) : (modInst i f b).fab = b.fab := rfl
@[simp] theorem modInst_sch (i : Nat) (f : Inst → Inst) : (modInst i f b).sch = b.sch := rfl
@[simp] theorem modInst_sec (i : Nat) (f : Inst → Inst) : (modInst i f b).sec = b.sec := rfl
@[simp] theorem modInst_flt (i : Nat) (f : Inst → Inst) : (modInst i f b).flt = b.flt := rfl
@[simp] theorem modInst_out (i : Nat) (f : Inst → Inst) : (modInst i f b).out = b.out := rfl
@[simp] theorem modInst_fresh (i : Nat) (f : Inst → Inst) : (modInst i f b).fresh = b.fresh := rfl
@[simp] theorem modInst_bat_seqs (i : Nat) (f : Inst → Inst) : (modInst i f b).bat.seqs = b.bat.seqs := rfl
@[simp] theorem modInst_bat_seqSel (i : Nat) (f : Inst → Inst) : (modInst i f b).bat.seqSel = b.bat.seqSel := rfl
@[simp] theorem modInst_bat_pairSel (i : Nat) (f : Inst → Inst) : (modInst i f b).bat.pairSel = b.bat.pairSel := rfl
@[simp] theorem modInst_bat_poolSel (i : Nat) (f : Inst → Inst) : (modInst i f b).bat.poolSel = b.bat.poolSel := rfl
@[simp] theorem modInst_bat_mosSel (i : Nat) (f : Inst → Inst) : (modInst i f b).bat.mosSel = b.bat.mosSel := rfl
@[simp] theorem modInst_bat_timeout (i : Nat) (f : Inst → Inst) : (modInst i f b).bat.timeout = b.bat.timeout := rfl
@[simp] theorem modInst_bat_stray (i : Nat) (f : Inst → Inst) : (modInst i f b).bat.stray = b.bat.stray := rfl
@[simp] theorem modInst_bat_pools (i : Nat) (f : Inst → Inst) : (modInst i f b).bat.pools = b.bat.pools := rfl
@[simp] theorem modInst_bat_loops (i : Nat) (f : Inst → Inst) : (modInst i f b).bat.loops = b.bat.loops := rfl
@[simp] theorem modInst_bat_rings (i : Nat) (f : Inst → Inst) : (modInst i f b).bat.rings = b.bat.rings := rfl
@[simp] theorem modInst_bat_wrq (i : Nat) (f : Inst → Inst) : (modInst i f b).bat.wrq = b.bat.wrq := rfl
@[simp] theorem modInst_bat_nextInst (i : Nat) (f : Inst → Inst) : (modInst i f b).bat.nextInst = b.bat.nextInst := rfl

/-! `modSch` -/

@[simp] theorem modSch_time (k : Nat) (f : SchSlot → SchSlot) : (modSch k f b).time = b.time := rfl
@[simp] theorem modSch_fuses (k : Nat) (f : SchSlot → SchSlot) : (modSch k f b).fuses = b.fuses := rfl
@[simp] theorem modSch_pwr (k : Nat) (f : SchSlot → SchSlot) : (modSch k f b).pwr = b.pwr := rfl
@[simp] theorem modSch_adm (k : Nat) (f : SchSlot → SchSlot) : (modSch k f b).adm = b.adm := rfl
@[simp] theorem modSch_hub (k : Nat) (f : SchSlot → SchSlot) : (modSch k f b).hub = b.hub := rfl
@[simp] theorem modSch_dep (k : Nat) (f : SchSlot → SchSlot) : (modSch k f b).dep = b.dep := rfl
@[simp] theorem modSch_dsp (k : Nat) (f : SchSlot → SchSlot) : (modSch k f b).dsp = b.dsp := rfl
@[simp] theorem modSch_seq (k : Nat) (f : SchSlot → SchSlot) : (modSch k f b).seq = b.seq := rfl
@[simp] theorem modSch_bat (k : Nat) (f : SchSlot → SchSlot) : (modSch k f b).bat = b.bat := rfl
@[simp] theorem modSch_fab (k : Nat) (f : SchSlot → SchSlot) : (modSch k f b).fab = b.fab := rfl
@[simp] theorem modSch_sec (k : Nat) (f : SchSlot → SchSlot) : (modSch k f b).sec = b.sec := rfl
@[simp] theorem modSch_flt (k : Nat) (f : SchSlot → SchSlot) : (modSch k f b).flt = b.flt := rfl
@[simp] theorem modSch_out (k : Nat) (f : SchSlot → SchSlot) : (modSch k f b).out = b.out := rfl
@[simp] theorem modSch_fresh (k : Nat) (f : SchSlot → SchSlot) : (modSch k f b).fresh = b.fresh := rfl
@[simp] theorem modSch_sch_quantumLog2 (k : Nat) (f : SchSlot → SchSlot) : (modSch k f b).sch.quantumLog2 = b.sch.quantumLog2 := rfl
@[simp] theorem modSch_sch_slotSel (k : Nat) (f : SchSlot → SchSlot) : (modSch k f b).sch.slotSel = b.sch.slotSel := rfl
@[simp] theorem modSch_sch_sqSel (k : Nat) (f : SchSlot → SchSlot) : (modSch k f b).sch.sqSel = b.sch.sqSel := rfl
@[simp] theorem modSch_sch_ctxs (k : Nat) (f : SchSlot → SchSlot) : (modSch k f b).sch.ctxs = b.sch.ctxs := rfl
@[simp] theorem modSch_sch_spans (k : Nat) (f : SchSlot → SchSlot) : (modSch k f b).sch.spans = b.sch.spans := rfl
@[simp] theorem modSch_sch_watts (k : Nat) (f : SchSlot → SchSlot) : (modSch k f b).sch.watts = b.sch.watts := rfl
@[simp] theorem modSch_sch_window (k : Nat) (f : SchSlot → SchSlot) : (modSch k f b).sch.window = b.sch.window := rfl
@[simp] theorem modSch_sch_powSum (k : Nat) (f : SchSlot → SchSlot) : (modSch k f b).sch.powSum = b.sch.powSum := rfl
@[simp] theorem modSch_sch_powN (k : Nat) (f : SchSlot → SchSlot) : (modSch k f b).sch.powN = b.sch.powN := rfl
@[simp] theorem modSch_sch_powDue (k : Nat) (f : SchSlot → SchSlot) : (modSch k f b).sch.powDue = b.sch.powDue := rfl
@[simp] theorem modSch_sch_edges (k : Nat) (f : SchSlot → SchSlot) : (modSch k f b).sch.edges = b.sch.edges := rfl
@[simp] theorem schOf_modSch_same (k : Nat) (f : SchSlot → SchSlot) : schOf (modSch k f b) k = f (schOf b k) := tget_tmod_same _ _ _ _
theorem schOf_modSch_other (k : Nat) (f : SchSlot → SchSlot) {i : Nat} (hne : i ≠ k) : schOf (modSch k f b) i = schOf b i := tget_tmod_other _ _ _ hne

/-! `modSchCtx` -/

@[simp] theorem modSchCtx_time (c : Nat) (f : SchCtx → SchCtx) : (modSchCtx c f b).time = b.time := rfl
@[simp] theorem modSchCtx_fuses (c : Nat) (f : SchCtx → SchCtx) : (modSchCtx c f b).fuses = b.fuses := rfl
@[simp] theorem modSchCtx_pwr (c : Nat) (f : SchCtx → SchCtx) : (modSchCtx c f b).pwr = b.pwr := rfl
@[simp] theorem modSchCtx_adm (c : Nat) (f : SchCtx → SchCtx) : (modSchCtx c f b).adm = b.adm := rfl
@[simp] theorem modSchCtx_hub (c : Nat) (f : SchCtx → SchCtx) : (modSchCtx c f b).hub = b.hub := rfl
@[simp] theorem modSchCtx_dep (c : Nat) (f : SchCtx → SchCtx) : (modSchCtx c f b).dep = b.dep := rfl
@[simp] theorem modSchCtx_dsp (c : Nat) (f : SchCtx → SchCtx) : (modSchCtx c f b).dsp = b.dsp := rfl
@[simp] theorem modSchCtx_seq (c : Nat) (f : SchCtx → SchCtx) : (modSchCtx c f b).seq = b.seq := rfl
@[simp] theorem modSchCtx_bat (c : Nat) (f : SchCtx → SchCtx) : (modSchCtx c f b).bat = b.bat := rfl
@[simp] theorem modSchCtx_fab (c : Nat) (f : SchCtx → SchCtx) : (modSchCtx c f b).fab = b.fab := rfl
@[simp] theorem modSchCtx_sec (c : Nat) (f : SchCtx → SchCtx) : (modSchCtx c f b).sec = b.sec := rfl
@[simp] theorem modSchCtx_flt (c : Nat) (f : SchCtx → SchCtx) : (modSchCtx c f b).flt = b.flt := rfl
@[simp] theorem modSchCtx_out (c : Nat) (f : SchCtx → SchCtx) : (modSchCtx c f b).out = b.out := rfl
@[simp] theorem modSchCtx_fresh (c : Nat) (f : SchCtx → SchCtx) : (modSchCtx c f b).fresh = b.fresh := rfl
@[simp] theorem modSchCtx_sch_quantumLog2 (c : Nat) (f : SchCtx → SchCtx) : (modSchCtx c f b).sch.quantumLog2 = b.sch.quantumLog2 := rfl
@[simp] theorem modSchCtx_sch_slotSel (c : Nat) (f : SchCtx → SchCtx) : (modSchCtx c f b).sch.slotSel = b.sch.slotSel := rfl
@[simp] theorem modSchCtx_sch_sqSel (c : Nat) (f : SchCtx → SchCtx) : (modSchCtx c f b).sch.sqSel = b.sch.sqSel := rfl
@[simp] theorem modSchCtx_sch_slots (c : Nat) (f : SchCtx → SchCtx) : (modSchCtx c f b).sch.slots = b.sch.slots := rfl
@[simp] theorem modSchCtx_sch_spans (c : Nat) (f : SchCtx → SchCtx) : (modSchCtx c f b).sch.spans = b.sch.spans := rfl
@[simp] theorem modSchCtx_sch_watts (c : Nat) (f : SchCtx → SchCtx) : (modSchCtx c f b).sch.watts = b.sch.watts := rfl
@[simp] theorem modSchCtx_sch_window (c : Nat) (f : SchCtx → SchCtx) : (modSchCtx c f b).sch.window = b.sch.window := rfl
@[simp] theorem modSchCtx_sch_powSum (c : Nat) (f : SchCtx → SchCtx) : (modSchCtx c f b).sch.powSum = b.sch.powSum := rfl
@[simp] theorem modSchCtx_sch_powN (c : Nat) (f : SchCtx → SchCtx) : (modSchCtx c f b).sch.powN = b.sch.powN := rfl
@[simp] theorem modSchCtx_sch_powDue (c : Nat) (f : SchCtx → SchCtx) : (modSchCtx c f b).sch.powDue = b.sch.powDue := rfl
@[simp] theorem modSchCtx_sch_edges (c : Nat) (f : SchCtx → SchCtx) : (modSchCtx c f b).sch.edges = b.sch.edges := rfl
@[simp] theorem schCtx_modSchCtx_same (c : Nat) (f : SchCtx → SchCtx) : schCtx (modSchCtx c f b) c = f (schCtx b c) := tget_tmod_same _ _ _ _
theorem schCtx_modSchCtx_other (c : Nat) (f : SchCtx → SchCtx) {i : Nat} (hne : i ≠ c) : schCtx (modSchCtx c f b) i = schCtx b i := tget_tmod_other _ _ _ hne

/-! `modKey` -/

@[simp] theorem modKey_time (h : Nat) (f : KeySlot → KeySlot) : (modKey h f b).time = b.time := rfl
@[simp] theorem modKey_fuses (h : Nat) (f : KeySlot → KeySlot) : (modKey h f b).fuses = b.fuses := rfl
@[simp] theorem modKey_pwr (h : Nat) (f : KeySlot → KeySlot) : (modKey h f b).pwr = b.pwr := rfl
@[simp] theorem modKey_adm (h : Nat) (f : KeySlot → KeySlot) : (modKey h f b).adm = b.adm := rfl
@[simp] theorem modKey_hub (h : Nat) (f : KeySlot → KeySlot) : (modKey h f b).hub = b.hub := rfl
@[simp] theorem modKey_dep (h : Nat) (f : KeySlot → KeySlot) : (modKey h f b).dep = b.dep := rfl
@[simp] theorem modKey_dsp (h : Nat) (f : KeySlot → KeySlot) : (modKey h f b).dsp = b.dsp := rfl
@[simp] theorem modKey_seq (h : Nat) (f : KeySlot → KeySlot) : (modKey h f b).seq = b.seq := rfl
@[simp] theorem modKey_bat (h : Nat) (f : KeySlot → KeySlot) : (modKey h f b).bat = b.bat := rfl
@[simp] theorem modKey_fab (h : Nat) (f : KeySlot → KeySlot) : (modKey h f b).fab = b.fab := rfl
@[simp] theorem modKey_sch (h : Nat) (f : KeySlot → KeySlot) : (modKey h f b).sch = b.sch := rfl
@[simp] theorem modKey_flt (h : Nat) (f : KeySlot → KeySlot) : (modKey h f b).flt = b.flt := rfl
@[simp] theorem modKey_out (h : Nat) (f : KeySlot → KeySlot) : (modKey h f b).out = b.out := rfl
@[simp] theorem modKey_fresh (h : Nat) (f : KeySlot → KeySlot) : (modKey h f b).fresh = b.fresh := rfl
@[simp] theorem modKey_sec_idkValid (h : Nat) (f : KeySlot → KeySlot) : (modKey h f b).sec.idkValid = b.sec.idkValid := rfl
@[simp] theorem modKey_sec_cert0 (h : Nat) (f : KeySlot → KeySlot) : (modKey h f b).sec.cert0 = b.sec.cert0 := rfl
@[simp] theorem modKey_sec_scalar (h : Nat) (f : KeySlot → KeySlot) : (modKey h f b).sec.scalar = b.sec.scalar := rfl
@[simp] theorem modKey_sec_pub (h : Nat) (f : KeySlot → KeySlot) : (modKey h f b).sec.pub = b.sec.pub := rfl
@[simp] theorem modKey_sec_nego (h : Nat) (f : KeySlot → KeySlot) : (modKey h f b).sec.nego = b.sec.nego := rfl
@[simp] theorem modKey_sec_spdm (h : Nat) (f : KeySlot → KeySlot) : (modKey h f b).sec.spdm = b.sec.spdm := rfl
@[simp] theorem modKey_sec_drbg (h : Nat) (f : KeySlot → KeySlot) : (modKey h f b).sec.drbg = b.sec.drbg := rfl
@[simp] theorem modKey_sec_sessions (h : Nat) (f : KeySlot → KeySlot) : (modKey h f b).sec.sessions = b.sec.sessions := rfl
@[simp] theorem modKey_sec_nextSess (h : Nat) (f : KeySlot → KeySlot) : (modKey h f b).sec.nextSess = b.sec.nextSess := rfl
@[simp] theorem modKey_sec_spdmErr (h : Nat) (f : KeySlot → KeySlot) : (modKey h f b).sec.spdmErr = b.sec.spdmErr := rfl
@[simp] theorem modKey_sec_idSel (h : Nat) (f : KeySlot → KeySlot) : (modKey h f b).sec.idSel = b.sec.idSel := rfl
@[simp] theorem modKey_sec_measSel (h : Nat) (f : KeySlot → KeySlot) : (modKey h f b).sec.measSel = b.sec.measSel := rfl
@[simp] theorem modKey_sec_slotSel (h : Nat) (f : KeySlot → KeySlot) : (modKey h f b).sec.slotSel = b.sec.slotSel := rfl
@[simp] theorem modKey_sec_bindings (h : Nat) (f : KeySlot → KeySlot) : (modKey h f b).sec.bindings = b.sec.bindings := rfl
@[simp] theorem modKey_sec_jobs (h : Nat) (f : KeySlot → KeySlot) : (modKey h f b).sec.jobs = b.sec.jobs := rfl
@[simp] theorem modKey_sec_kinv (h : Nat) (f : KeySlot → KeySlot) : (modKey h f b).sec.kinv = b.sec.kinv := rfl
@[simp] theorem modKey_sec_revokes (h : Nat) (f : KeySlot → KeySlot) : (modKey h f b).sec.revokes = b.sec.revokes := rfl
@[simp] theorem modKey_sec_tds (h : Nat) (f : KeySlot → KeySlot) : (modKey h f b).sec.tds = b.sec.tds := rfl
@[simp] theorem modKey_sec_tdLog2 (h : Nat) (f : KeySlot → KeySlot) : (modKey h f b).sec.tdLog2 = b.sec.tdLog2 := rfl
@[simp] theorem modKey_sec_tdTimeout (h : Nat) (f : KeySlot → KeySlot) : (modKey h f b).sec.tdTimeout = b.sec.tdTimeout := rfl
@[simp] theorem modKey_sec_tdCtx (h : Nat) (f : KeySlot → KeySlot) : (modKey h f b).sec.tdCtx = b.sec.tdCtx := rfl
@[simp] theorem modKey_sec_tdDrain (h : Nat) (f : KeySlot → KeySlot) : (modKey h f b).sec.tdDrain = b.sec.tdDrain := rfl
@[simp] theorem modKey_sec_tdDd (h : Nat) (f : KeySlot → KeySlot) : (modKey h f b).sec.tdDd = b.sec.tdDd := rfl
@[simp] theorem modKey_sec_tdLink (h : Nat) (f : KeySlot → KeySlot) : (modKey h f b).sec.tdLink = b.sec.tdLink := rfl
@[simp] theorem modKey_sec_tr (h : Nat) (f : KeySlot → KeySlot) : (modKey h f b).sec.tr = b.sec.tr := rfl
@[simp] theorem modKey_sec_late (h : Nat) (f : KeySlot → KeySlot) : (modKey h f b).sec.late = b.sec.late := rfl
@[simp] theorem modKey_sec_authFail (h : Nat) (f : KeySlot → KeySlot) : (modKey h f b).sec.authFail = b.sec.authFail := rfl
@[simp] theorem modKey_sec_chains (h : Nat) (f : KeySlot → KeySlot) : (modKey h f b).sec.chains = b.sec.chains := rfl
@[simp] theorem modKey_sec_folds (h : Nat) (f : KeySlot → KeySlot) : (modKey h f b).sec.folds = b.sec.folds := rfl
@[simp] theorem modKey_sec_marks (h : Nat) (f : KeySlot → KeySlot) : (modKey h f b).sec.marks = b.sec.marks := rfl
@[simp] theorem modKey_sec_skey (h : Nat) (f : KeySlot → KeySlot) : (modKey h f b).sec.skey = b.sec.skey := rfl
@[simp] theorem modKey_sec_confBlk (h : Nat) (f : KeySlot → KeySlot) : (modKey h f b).sec.confBlk = b.sec.confBlk := rfl
@[simp] theorem keyOf_modKey_same (h : Nat) (f : KeySlot → KeySlot) : keyOf (modKey h f b) h = f (keyOf b h) := tget_tmod_same _ _ _ _
theorem keyOf_modKey_other (h : Nat) (f : KeySlot → KeySlot) {i : Nat} (hne : i ≠ h) : keyOf (modKey h f b) i = keyOf b i := tget_tmod_other _ _ _ hne

/-! `modRevoke` -/

@[simp] theorem modRevoke_time (h : Nat) (f : Revoke → Revoke) : (modRevoke h f b).time = b.time := rfl
@[simp] theorem modRevoke_fuses (h : Nat) (f : Revoke → Revoke) : (modRevoke h f b).fuses = b.fuses := rfl
@[simp] theorem modRevoke_pwr (h : Nat) (f : Revoke → Revoke) : (modRevoke h f b).pwr = b.pwr := rfl
@[simp] theorem modRevoke_adm (h : Nat) (f : Revoke → Revoke) : (modRevoke h f b).adm = b.adm := rfl
@[simp] theorem modRevoke_hub (h : Nat) (f : Revoke → Revoke) : (modRevoke h f b).hub = b.hub := rfl
@[simp] theorem modRevoke_dep (h : Nat) (f : Revoke → Revoke) : (modRevoke h f b).dep = b.dep := rfl
@[simp] theorem modRevoke_dsp (h : Nat) (f : Revoke → Revoke) : (modRevoke h f b).dsp = b.dsp := rfl
@[simp] theorem modRevoke_seq (h : Nat) (f : Revoke → Revoke) : (modRevoke h f b).seq = b.seq := rfl
@[simp] theorem modRevoke_bat (h : Nat) (f : Revoke → Revoke) : (modRevoke h f b).bat = b.bat := rfl
@[simp] theorem modRevoke_fab (h : Nat) (f : Revoke → Revoke) : (modRevoke h f b).fab = b.fab := rfl
@[simp] theorem modRevoke_sch (h : Nat) (f : Revoke → Revoke) : (modRevoke h f b).sch = b.sch := rfl
@[simp] theorem modRevoke_flt (h : Nat) (f : Revoke → Revoke) : (modRevoke h f b).flt = b.flt := rfl
@[simp] theorem modRevoke_out (h : Nat) (f : Revoke → Revoke) : (modRevoke h f b).out = b.out := rfl
@[simp] theorem modRevoke_fresh (h : Nat) (f : Revoke → Revoke) : (modRevoke h f b).fresh = b.fresh := rfl
@[simp] theorem modRevoke_sec_idkValid (h : Nat) (f : Revoke → Revoke) : (modRevoke h f b).sec.idkValid = b.sec.idkValid := rfl
@[simp] theorem modRevoke_sec_cert0 (h : Nat) (f : Revoke → Revoke) : (modRevoke h f b).sec.cert0 = b.sec.cert0 := rfl
@[simp] theorem modRevoke_sec_scalar (h : Nat) (f : Revoke → Revoke) : (modRevoke h f b).sec.scalar = b.sec.scalar := rfl
@[simp] theorem modRevoke_sec_pub (h : Nat) (f : Revoke → Revoke) : (modRevoke h f b).sec.pub = b.sec.pub := rfl
@[simp] theorem modRevoke_sec_nego (h : Nat) (f : Revoke → Revoke) : (modRevoke h f b).sec.nego = b.sec.nego := rfl
@[simp] theorem modRevoke_sec_spdm (h : Nat) (f : Revoke → Revoke) : (modRevoke h f b).sec.spdm = b.sec.spdm := rfl
@[simp] theorem modRevoke_sec_drbg (h : Nat) (f : Revoke → Revoke) : (modRevoke h f b).sec.drbg = b.sec.drbg := rfl
@[simp] theorem modRevoke_sec_sessions (h : Nat) (f : Revoke → Revoke) : (modRevoke h f b).sec.sessions = b.sec.sessions := rfl
@[simp] theorem modRevoke_sec_nextSess (h : Nat) (f : Revoke → Revoke) : (modRevoke h f b).sec.nextSess = b.sec.nextSess := rfl
@[simp] theorem modRevoke_sec_spdmErr (h : Nat) (f : Revoke → Revoke) : (modRevoke h f b).sec.spdmErr = b.sec.spdmErr := rfl
@[simp] theorem modRevoke_sec_idSel (h : Nat) (f : Revoke → Revoke) : (modRevoke h f b).sec.idSel = b.sec.idSel := rfl
@[simp] theorem modRevoke_sec_measSel (h : Nat) (f : Revoke → Revoke) : (modRevoke h f b).sec.measSel = b.sec.measSel := rfl
@[simp] theorem modRevoke_sec_slotSel (h : Nat) (f : Revoke → Revoke) : (modRevoke h f b).sec.slotSel = b.sec.slotSel := rfl
@[simp] theorem modRevoke_sec_slots (h : Nat) (f : Revoke → Revoke) : (modRevoke h f b).sec.slots = b.sec.slots := rfl
@[simp] theorem modRevoke_sec_bindings (h : Nat) (f : Revoke → Revoke) : (modRevoke h f b).sec.bindings = b.sec.bindings := rfl
@[simp] theorem modRevoke_sec_jobs (h : Nat) (f : Revoke → Revoke) : (modRevoke h f b).sec.jobs = b.sec.jobs := rfl
@[simp] theorem modRevoke_sec_kinv (h : Nat) (f : Revoke → Revoke) : (modRevoke h f b).sec.kinv = b.sec.kinv := rfl
@[simp] theorem modRevoke_sec_tds (h : Nat) (f : Revoke → Revoke) : (modRevoke h f b).sec.tds = b.sec.tds := rfl
@[simp] theorem modRevoke_sec_tdLog2 (h : Nat) (f : Revoke → Revoke) : (modRevoke h f b).sec.tdLog2 = b.sec.tdLog2 := rfl
@[simp] theorem modRevoke_sec_tdTimeout (h : Nat) (f : Revoke → Revoke) : (modRevoke h f b).sec.tdTimeout = b.sec.tdTimeout := rfl
@[simp] theorem modRevoke_sec_tdCtx (h : Nat) (f : Revoke → Revoke) : (modRevoke h f b).sec.tdCtx = b.sec.tdCtx := rfl
@[simp] theorem modRevoke_sec_tdDrain (h : Nat) (f : Revoke → Revoke) : (modRevoke h f b).sec.tdDrain = b.sec.tdDrain := rfl
@[simp] theorem modRevoke_sec_tdDd (h : Nat) (f : Revoke → Revoke) : (modRevoke h f b).sec.tdDd = b.sec.tdDd := rfl
@[simp] theorem modRevoke_sec_tdLink (h : Nat) (f : Revoke → Revoke) : (modRevoke h f b).sec.tdLink = b.sec.tdLink := rfl
@[simp] theorem modRevoke_sec_tr (h : Nat) (f : Revoke → Revoke) : (modRevoke h f b).sec.tr = b.sec.tr := rfl
@[simp] theorem modRevoke_sec_late (h : Nat) (f : Revoke → Revoke) : (modRevoke h f b).sec.late = b.sec.late := rfl
@[simp] theorem modRevoke_sec_authFail (h : Nat) (f : Revoke → Revoke) : (modRevoke h f b).sec.authFail = b.sec.authFail := rfl
@[simp] theorem modRevoke_sec_chains (h : Nat) (f : Revoke → Revoke) : (modRevoke h f b).sec.chains = b.sec.chains := rfl
@[simp] theorem modRevoke_sec_folds (h : Nat) (f : Revoke → Revoke) : (modRevoke h f b).sec.folds = b.sec.folds := rfl
@[simp] theorem modRevoke_sec_marks (h : Nat) (f : Revoke → Revoke) : (modRevoke h f b).sec.marks = b.sec.marks := rfl
@[simp] theorem modRevoke_sec_skey (h : Nat) (f : Revoke → Revoke) : (modRevoke h f b).sec.skey = b.sec.skey := rfl
@[simp] theorem modRevoke_sec_confBlk (h : Nat) (f : Revoke → Revoke) : (modRevoke h f b).sec.confBlk = b.sec.confBlk := rfl

/-! `modPart` -/

@[simp] theorem modPart_time (k : Nat) (f : PartRst → PartRst) : (modPart k f b).time = b.time := rfl
@[simp] theorem modPart_fuses (k : Nat) (f : PartRst → PartRst) : (modPart k f b).fuses = b.fuses := rfl
@[simp] theorem modPart_pwr (k : Nat) (f : PartRst → PartRst) : (modPart k f b).pwr = b.pwr := rfl
@[simp] theorem modPart_adm (k : Nat) (f : PartRst → PartRst) : (modPart k f b).adm = b.adm := rfl
@[simp] theorem modPart_hub (k : Nat) (f : PartRst → PartRst) : (modPart k f b).hub = b.hub := rfl
@[simp] theorem modPart_dep (k : Nat) (f : PartRst → PartRst) : (modPart k f b).dep = b.dep := rfl
@[simp] theorem modPart_dsp (k : Nat) (f : PartRst → PartRst) : (modPart k f b).dsp = b.dsp := rfl
@[simp] theorem modPart_seq (k : Nat) (f : PartRst → PartRst) : (modPart k f b).seq = b.seq := rfl
@[simp] theorem modPart_bat (k : Nat) (f : PartRst → PartRst) : (modPart k f b).bat = b.bat := rfl
@[simp] theorem modPart_fab (k : Nat) (f : PartRst → PartRst) : (modPart k f b).fab = b.fab := rfl
@[simp] theorem modPart_sch (k : Nat) (f : PartRst → PartRst) : (modPart k f b).sch = b.sch := rfl
@[simp] theorem modPart_sec (k : Nat) (f : PartRst → PartRst) : (modPart k f b).sec = b.sec := rfl
@[simp] theorem modPart_out (k : Nat) (f : PartRst → PartRst) : (modPart k f b).out = b.out := rfl
@[simp] theorem modPart_fresh (k : Nat) (f : PartRst → PartRst) : (modPart k f b).fresh = b.fresh := rfl
@[simp] theorem modPart_flt_stale (k : Nat) (f : PartRst → PartRst) : (modPart k f b).flt.stale = b.flt.stale := rfl
@[simp] theorem modPart_flt_reason (k : Nat) (f : PartRst → PartRst) : (modPart k f b).flt.reason = b.flt.reason := rfl
@[simp] theorem modPart_flt_src (k : Nat) (f : PartRst → PartRst) : (modPart k f b).flt.src = b.flt.src := rfl
@[simp] theorem modPart_flt_entry (k : Nat) (f : PartRst → PartRst) : (modPart k f b).flt.entry = b.flt.entry := rfl
@[simp] theorem modPart_flt_stalemates (k : Nat) (f : PartRst → PartRst) : (modPart k f b).flt.stalemates = b.flt.stalemates := rfl
@[simp] theorem modPart_flt_fatalPin (k : Nat) (f : PartRst → PartRst) : (modPart k f b).flt.fatalPin = b.flt.fatalPin := rfl
@[simp] theorem modPart_flt_lastSrc (k : Nat) (f : PartRst → PartRst) : (modPart k f b).flt.lastSrc = b.flt.lastSrc := rfl
@[simp] theorem modPart_flt_sumUcc (k : Nat) (f : PartRst → PartRst) : (modPart k f b).flt.sumUcc = b.flt.sumUcc := rfl
@[simp] theorem modPart_flt_sumCe (k : Nat) (f : PartRst → PartRst) : (modPart k f b).flt.sumCe = b.flt.sumCe := rfl
@[simp] theorem modPart_flt_quietLog2 (k : Nat) (f : PartRst → PartRst) : (modPart k f b).flt.quietLog2 = b.flt.quietLog2 := rfl
@[simp] theorem modPart_flt_dumpOnPart (k : Nat) (f : PartRst → PartRst) : (modPart k f b).flt.dumpOnPart = b.flt.dumpOnPart := rfl
@[simp] theorem modPart_flt_ceIrq (k : Nat) (f : PartRst → PartRst) : (modPart k f b).flt.ceIrq = b.flt.ceIrq := rfl
@[simp] theorem modPart_flt_fUe (k : Nat) (f : PartRst → PartRst) : (modPart k f b).flt.fUe = b.flt.fUe := rfl
@[simp] theorem modPart_flt_fSrc (k : Nat) (f : PartRst → PartRst) : (modPart k f b).flt.fSrc = b.flt.fSrc := rfl
@[simp] theorem modPart_flt_fTarget (k : Nat) (f : PartRst → PartRst) : (modPart k f b).flt.fTarget = b.flt.fTarget := rfl
@[simp] theorem modPart_flt_unlock (k : Nat) (f : PartRst → PartRst) : (modPart k f b).flt.unlock = b.flt.unlock := rfl
@[simp] theorem modPart_flt_refused (k : Nat) (f : PartRst → PartRst) : (modPart k f b).flt.refused = b.flt.refused := rfl
@[simp] theorem modPart_flt_wdEn (k : Nat) (f : PartRst → PartRst) : (modPart k f b).flt.wdEn = b.flt.wdEn := rfl
@[simp] theorem modPart_flt_wdLog2 (k : Nat) (f : PartRst → PartRst) : (modPart k f b).flt.wdLog2 = b.flt.wdLog2 := rfl
@[simp] theorem modPart_flt_escLog2 (k : Nat) (f : PartRst → PartRst) : (modPart k f b).flt.escLog2 = b.flt.escLog2 := rfl
@[simp] theorem modPart_flt_escCount (k : Nat) (f : PartRst → PartRst) : (modPart k f b).flt.escCount = b.flt.escCount := rfl
@[simp] theorem modPart_flt_stamps (k : Nat) (f : PartRst → PartRst) : (modPart k f b).flt.stamps = b.flt.stamps := rfl
@[simp] theorem modPart_flt_partResets (k : Nat) (f : PartRst → PartRst) : (modPart k f b).flt.partResets = b.flt.partResets := rfl
@[simp] theorem modPart_flt_srcs (k : Nat) (f : PartRst → PartRst) : (modPart k f b).flt.srcs = b.flt.srcs := rfl
@[simp] theorem modPart_flt_logRecs (k : Nat) (f : PartRst → PartRst) : (modPart k f b).flt.logRecs = b.flt.logRecs := rfl
@[simp] theorem modPart_flt_written (k : Nat) (f : PartRst → PartRst) : (modPart k f b).flt.written = b.flt.written := rfl
@[simp] theorem modPart_flt_dump (k : Nat) (f : PartRst → PartRst) : (modPart k f b).flt.dump = b.flt.dump := rfl
@[simp] theorem modPart_flt_dumpValid (k : Nat) (f : PartRst → PartRst) : (modPart k f b).flt.dumpValid = b.flt.dumpValid := rfl
@[simp] theorem modPart_flt_dumpLocked (k : Nat) (f : PartRst → PartRst) : (modPart k f b).flt.dumpLocked = b.flt.dumpLocked := rfl
@[simp] theorem modPart_flt_dumpReason (k : Nat) (f : PartRst → PartRst) : (modPart k f b).flt.dumpReason = b.flt.dumpReason := rfl
@[simp] theorem modPart_flt_captures (k : Nat) (f : PartRst → PartRst) : (modPart k f b).flt.captures = b.flt.captures := rfl
@[simp] theorem modPart_flt_capDue (k : Nat) (f : PartRst → PartRst) : (modPart k f b).flt.capDue = b.flt.capDue := rfl
@[simp] theorem modPart_flt_freshDue (k : Nat) (f : PartRst → PartRst) : (modPart k f b).flt.freshDue = b.flt.freshDue := rfl
@[simp] theorem modPart_flt_warm (k : Nat) (f : PartRst → PartRst) : (modPart k f b).flt.warm = b.flt.warm := rfl
@[simp] theorem modPart_flt_leaseLog2 (k : Nat) (f : PartRst → PartRst) : (modPart k f b).flt.leaseLog2 = b.flt.leaseLog2 := rfl
@[simp] theorem modPart_flt_leaseOff (k : Nat) (f : PartRst → PartRst) : (modPart k f b).flt.leaseOff = b.flt.leaseOff := rfl
@[simp] theorem modPart_flt_leaseDead (k : Nat) (f : PartRst → PartRst) : (modPart k f b).flt.leaseDead = b.flt.leaseDead := rfl
@[simp] theorem modPart_flt_expiries (k : Nat) (f : PartRst → PartRst) : (modPart k f b).flt.expiries = b.flt.expiries := rfl
@[simp] theorem modPart_flt_wd (k : Nat) (f : PartRst → PartRst) : (modPart k f b).flt.wd = b.flt.wd := rfl
@[simp] theorem modPart_flt_pkts (k : Nat) (f : PartRst → PartRst) : (modPart k f b).flt.pkts = b.flt.pkts := rfl
@[simp] theorem modPart_flt_admLog (k : Nat) (f : PartRst → PartRst) : (modPart k f b).flt.admLog = b.flt.admLog := rfl
@[simp] theorem modPart_flt_badFlags (k : Nat) (f : PartRst → PartRst) : (modPart k f b).flt.badFlags = b.flt.badFlags := rfl
@[simp] theorem modPart_flt_tapSel (k : Nat) (f : PartRst → PartRst) : (modPart k f b).flt.tapSel = b.flt.tapSel := rfl
@[simp] theorem modPart_flt_forcing (k : Nat) (f : PartRst → PartRst) : (modPart k f b).flt.forcing = b.flt.forcing := rfl
@[simp] theorem modPart_flt_clockLost (k : Nat) (f : PartRst → PartRst) : (modPart k f b).flt.clockLost = b.flt.clockLost := rfl

/-! `modDom` -/

@[simp] theorem modDom_time (d : Nat) (f : Dom → Dom) : (modDom d f b).time = b.time := rfl
@[simp] theorem modDom_fuses (d : Nat) (f : Dom → Dom) : (modDom d f b).fuses = b.fuses := rfl
@[simp] theorem modDom_adm (d : Nat) (f : Dom → Dom) : (modDom d f b).adm = b.adm := rfl
@[simp] theorem modDom_hub (d : Nat) (f : Dom → Dom) : (modDom d f b).hub = b.hub := rfl
@[simp] theorem modDom_dep (d : Nat) (f : Dom → Dom) : (modDom d f b).dep = b.dep := rfl
@[simp] theorem modDom_dsp (d : Nat) (f : Dom → Dom) : (modDom d f b).dsp = b.dsp := rfl
@[simp] theorem modDom_seq (d : Nat) (f : Dom → Dom) : (modDom d f b).seq = b.seq := rfl
@[simp] theorem modDom_bat (d : Nat) (f : Dom → Dom) : (modDom d f b).bat = b.bat := rfl
@[simp] theorem modDom_fab (d : Nat) (f : Dom → Dom) : (modDom d f b).fab = b.fab := rfl
@[simp] theorem modDom_sch (d : Nat) (f : Dom → Dom) : (modDom d f b).sch = b.sch := rfl
@[simp] theorem modDom_sec (d : Nat) (f : Dom → Dom) : (modDom d f b).sec = b.sec := rfl
@[simp] theorem modDom_flt (d : Nat) (f : Dom → Dom) : (modDom d f b).flt = b.flt := rfl
@[simp] theorem modDom_out (d : Nat) (f : Dom → Dom) : (modDom d f b).out = b.out := rfl
@[simp] theorem modDom_fresh (d : Nat) (f : Dom → Dom) : (modDom d f b).fresh = b.fresh := rfl
@[simp] theorem modDom_pwr_ifrev (d : Nat) (f : Dom → Dom) : (modDom d f b).pwr.ifrev = b.pwr.ifrev := rfl
@[simp] theorem modDom_pwr_g1 (d : Nat) (f : Dom → Dom) : (modDom d f b).pwr.g1 = b.pwr.g1 := rfl
@[simp] theorem modDom_pwr_meas (d : Nat) (f : Dom → Dom) : (modDom d f b).pwr.meas = b.pwr.meas := rfl
@[simp] theorem modDom_pwr_step (d : Nat) (f : Dom → Dom) : (modDom d f b).pwr.step = b.pwr.step := rfl
@[simp] theorem modDom_pwr_warm (d : Nat) (f : Dom → Dom) : (modDom d f b).pwr.warm = b.pwr.warm := rfl
@[simp] theorem modDom_pwr_relAt (d : Nat) (f : Dom → Dom) : (modDom d f b).pwr.relAt = b.pwr.relAt := rfl
@[simp] theorem modDom_pwr_startCycles (d : Nat) (f : Dom → Dom) : (modDom d f b).pwr.startCycles = b.pwr.startCycles := rfl
@[simp] theorem modDom_pwr_dvfs (d : Nat) (f : Dom → Dom) : (modDom d f b).pwr.dvfs = b.pwr.dvfs := rfl
@[simp] theorem modDom_pwr_ceiling (d : Nat) (f : Dom → Dom) : (modDom d f b).pwr.ceiling = b.pwr.ceiling := rfl
@[simp] theorem modDom_pwr_samples (d : Nat) (f : Dom → Dom) : (modDom d f b).pwr.samples = b.pwr.samples := rfl
@[simp] theorem modDom_pwr_milliwatts (d : Nat) (f : Dom → Dom) : (modDom d f b).pwr.milliwatts = b.pwr.milliwatts := rfl
@[simp] theorem modDom_pwr_sampleDue (d : Nat) (f : Dom → Dom) : (modDom d f b).pwr.sampleDue = b.pwr.sampleDue := rfl
@[simp] theorem modDom_pwr_emerg (d : Nat) (f : Dom → Dom) : (modDom d f b).pwr.emerg = b.pwr.emerg := rfl
@[simp] theorem modDom_pwr_img (d : Nat) (f : Dom → Dom) : (modDom d f b).pwr.img = b.pwr.img := rfl
@[simp] theorem modDom_pwr_certChain (d : Nat) (f : Dom → Dom) : (modDom d f b).pwr.certChain = b.pwr.certChain := rfl

/-! `modDvfs` -/

@[simp] theorem modDvfs_time (f : Dvfs → Dvfs) : (modDvfs f b).time = b.time := rfl
@[simp] theorem modDvfs_fuses (f : Dvfs → Dvfs) : (modDvfs f b).fuses = b.fuses := rfl
@[simp] theorem modDvfs_adm (f : Dvfs → Dvfs) : (modDvfs f b).adm = b.adm := rfl
@[simp] theorem modDvfs_hub (f : Dvfs → Dvfs) : (modDvfs f b).hub = b.hub := rfl
@[simp] theorem modDvfs_dep (f : Dvfs → Dvfs) : (modDvfs f b).dep = b.dep := rfl
@[simp] theorem modDvfs_dsp (f : Dvfs → Dvfs) : (modDvfs f b).dsp = b.dsp := rfl
@[simp] theorem modDvfs_seq (f : Dvfs → Dvfs) : (modDvfs f b).seq = b.seq := rfl
@[simp] theorem modDvfs_bat (f : Dvfs → Dvfs) : (modDvfs f b).bat = b.bat := rfl
@[simp] theorem modDvfs_fab (f : Dvfs → Dvfs) : (modDvfs f b).fab = b.fab := rfl
@[simp] theorem modDvfs_sch (f : Dvfs → Dvfs) : (modDvfs f b).sch = b.sch := rfl
@[simp] theorem modDvfs_sec (f : Dvfs → Dvfs) : (modDvfs f b).sec = b.sec := rfl
@[simp] theorem modDvfs_flt (f : Dvfs → Dvfs) : (modDvfs f b).flt = b.flt := rfl
@[simp] theorem modDvfs_out (f : Dvfs → Dvfs) : (modDvfs f b).out = b.out := rfl
@[simp] theorem modDvfs_fresh (f : Dvfs → Dvfs) : (modDvfs f b).fresh = b.fresh := rfl
@[simp] theorem modDvfs_pwr_ifrev (f : Dvfs → Dvfs) : (modDvfs f b).pwr.ifrev = b.pwr.ifrev := rfl
@[simp] theorem modDvfs_pwr_g1 (f : Dvfs → Dvfs) : (modDvfs f b).pwr.g1 = b.pwr.g1 := rfl
@[simp] theorem modDvfs_pwr_meas (f : Dvfs → Dvfs) : (modDvfs f b).pwr.meas = b.pwr.meas := rfl
@[simp] theorem modDvfs_pwr_step (f : Dvfs → Dvfs) : (modDvfs f b).pwr.step = b.pwr.step := rfl
@[simp] theorem modDvfs_pwr_warm (f : Dvfs → Dvfs) : (modDvfs f b).pwr.warm = b.pwr.warm := rfl
@[simp] theorem modDvfs_pwr_relAt (f : Dvfs → Dvfs) : (modDvfs f b).pwr.relAt = b.pwr.relAt := rfl
@[simp] theorem modDvfs_pwr_startCycles (f : Dvfs → Dvfs) : (modDvfs f b).pwr.startCycles = b.pwr.startCycles := rfl
@[simp] theorem modDvfs_pwr_doms (f : Dvfs → Dvfs) : (modDvfs f b).pwr.doms = b.pwr.doms := rfl
@[simp] theorem modDvfs_pwr_ceiling (f : Dvfs → Dvfs) : (modDvfs f b).pwr.ceiling = b.pwr.ceiling := rfl
@[simp] theorem modDvfs_pwr_samples (f : Dvfs → Dvfs) : (modDvfs f b).pwr.samples = b.pwr.samples := rfl
@[simp] theorem modDvfs_pwr_milliwatts (f : Dvfs → Dvfs) : (modDvfs f b).pwr.milliwatts = b.pwr.milliwatts := rfl
@[simp] theorem modDvfs_pwr_sampleDue (f : Dvfs → Dvfs) : (modDvfs f b).pwr.sampleDue = b.pwr.sampleDue := rfl
@[simp] theorem modDvfs_pwr_emerg (f : Dvfs → Dvfs) : (modDvfs f b).pwr.emerg = b.pwr.emerg := rfl
@[simp] theorem modDvfs_pwr_img (f : Dvfs → Dvfs) : (modDvfs f b).pwr.img = b.pwr.img := rfl
@[simp] theorem modDvfs_pwr_certChain (f : Dvfs → Dvfs) : (modDvfs f b).pwr.certChain = b.pwr.certChain := rfl

/-! `modImg` -/

@[simp] theorem modImg_time (f : Img → Img) : (modImg f b).time = b.time := rfl
@[simp] theorem modImg_fuses (f : Img → Img) : (modImg f b).fuses = b.fuses := rfl
@[simp] theorem modImg_adm (f : Img → Img) : (modImg f b).adm = b.adm := rfl
@[simp] theorem modImg_hub (f : Img → Img) : (modImg f b).hub = b.hub := rfl
@[simp] theorem modImg_dep (f : Img → Img) : (modImg f b).dep = b.dep := rfl
@[simp] theorem modImg_dsp (f : Img → Img) : (modImg f b).dsp = b.dsp := rfl
@[simp] theorem modImg_seq (f : Img → Img) : (modImg f b).seq = b.seq := rfl
@[simp] theorem modImg_bat (f : Img → Img) : (modImg f b).bat = b.bat := rfl
@[simp] theorem modImg_fab (f : Img → Img) : (modImg f b).fab = b.fab := rfl
@[simp] theorem modImg_sch (f : Img → Img) : (modImg f b).sch = b.sch := rfl
@[simp] theorem modImg_sec (f : Img → Img) : (modImg f b).sec = b.sec := rfl
@[simp] theorem modImg_flt (f : Img → Img) : (modImg f b).flt = b.flt := rfl
@[simp] theorem modImg_out (f : Img → Img) : (modImg f b).out = b.out := rfl
@[simp] theorem modImg_fresh (f : Img → Img) : (modImg f b).fresh = b.fresh := rfl
@[simp] theorem modImg_pwr_ifrev (f : Img → Img) : (modImg f b).pwr.ifrev = b.pwr.ifrev := rfl
@[simp] theorem modImg_pwr_g1 (f : Img → Img) : (modImg f b).pwr.g1 = b.pwr.g1 := rfl
@[simp] theorem modImg_pwr_meas (f : Img → Img) : (modImg f b).pwr.meas = b.pwr.meas := rfl
@[simp] theorem modImg_pwr_step (f : Img → Img) : (modImg f b).pwr.step = b.pwr.step := rfl
@[simp] theorem modImg_pwr_warm (f : Img → Img) : (modImg f b).pwr.warm = b.pwr.warm := rfl
@[simp] theorem modImg_pwr_relAt (f : Img → Img) : (modImg f b).pwr.relAt = b.pwr.relAt := rfl
@[simp] theorem modImg_pwr_startCycles (f : Img → Img) : (modImg f b).pwr.startCycles = b.pwr.startCycles := rfl
@[simp] theorem modImg_pwr_doms (f : Img → Img) : (modImg f b).pwr.doms = b.pwr.doms := rfl
@[simp] theorem modImg_pwr_dvfs (f : Img → Img) : (modImg f b).pwr.dvfs = b.pwr.dvfs := rfl
@[simp] theorem modImg_pwr_ceiling (f : Img → Img) : (modImg f b).pwr.ceiling = b.pwr.ceiling := rfl
@[simp] theorem modImg_pwr_samples (f : Img → Img) : (modImg f b).pwr.samples = b.pwr.samples := rfl
@[simp] theorem modImg_pwr_milliwatts (f : Img → Img) : (modImg f b).pwr.milliwatts = b.pwr.milliwatts := rfl
@[simp] theorem modImg_pwr_sampleDue (f : Img → Img) : (modImg f b).pwr.sampleDue = b.pwr.sampleDue := rfl
@[simp] theorem modImg_pwr_emerg (f : Img → Img) : (modImg f b).pwr.emerg = b.pwr.emerg := rfl
@[simp] theorem modImg_pwr_certChain (f : Img → Img) : (modImg f b).pwr.certChain = b.pwr.certChain := rfl

/-! `modEmerg` -/

@[simp] theorem modEmerg_time (f : Emerg → Emerg) : (modEmerg f b).time = b.time := rfl
@[simp] theorem modEmerg_fuses (f : Emerg → Emerg) : (modEmerg f b).fuses = b.fuses := rfl
@[simp] theorem modEmerg_adm (f : Emerg → Emerg) : (modEmerg f b).adm = b.adm := rfl
@[simp] theorem modEmerg_hub (f : Emerg → Emerg) : (modEmerg f b).hub = b.hub := rfl
@[simp] theorem modEmerg_dep (f : Emerg → Emerg) : (modEmerg f b).dep = b.dep := rfl
@[simp] theorem modEmerg_dsp (f : Emerg → Emerg) : (modEmerg f b).dsp = b.dsp := rfl
@[simp] theorem modEmerg_seq (f : Emerg → Emerg) : (modEmerg f b).seq = b.seq := rfl
@[simp] theorem modEmerg_bat (f : Emerg → Emerg) : (modEmerg f b).bat = b.bat := rfl
@[simp] theorem modEmerg_fab (f : Emerg → Emerg) : (modEmerg f b).fab = b.fab := rfl
@[simp] theorem modEmerg_sch (f : Emerg → Emerg) : (modEmerg f b).sch = b.sch := rfl
@[simp] theorem modEmerg_sec (f : Emerg → Emerg) : (modEmerg f b).sec = b.sec := rfl
@[simp] theorem modEmerg_flt (f : Emerg → Emerg) : (modEmerg f b).flt = b.flt := rfl
@[simp] theorem modEmerg_out (f : Emerg → Emerg) : (modEmerg f b).out = b.out := rfl
@[simp] theorem modEmerg_fresh (f : Emerg → Emerg) : (modEmerg f b).fresh = b.fresh := rfl
@[simp] theorem modEmerg_pwr_ifrev (f : Emerg → Emerg) : (modEmerg f b).pwr.ifrev = b.pwr.ifrev := rfl
@[simp] theorem modEmerg_pwr_g1 (f : Emerg → Emerg) : (modEmerg f b).pwr.g1 = b.pwr.g1 := rfl
@[simp] theorem modEmerg_pwr_meas (f : Emerg → Emerg) : (modEmerg f b).pwr.meas = b.pwr.meas := rfl
@[simp] theorem modEmerg_pwr_step (f : Emerg → Emerg) : (modEmerg f b).pwr.step = b.pwr.step := rfl
@[simp] theorem modEmerg_pwr_warm (f : Emerg → Emerg) : (modEmerg f b).pwr.warm = b.pwr.warm := rfl
@[simp] theorem modEmerg_pwr_relAt (f : Emerg → Emerg) : (modEmerg f b).pwr.relAt = b.pwr.relAt := rfl
@[simp] theorem modEmerg_pwr_startCycles (f : Emerg → Emerg) : (modEmerg f b).pwr.startCycles = b.pwr.startCycles := rfl
@[simp] theorem modEmerg_pwr_doms (f : Emerg → Emerg) : (modEmerg f b).pwr.doms = b.pwr.doms := rfl
@[simp] theorem modEmerg_pwr_dvfs (f : Emerg → Emerg) : (modEmerg f b).pwr.dvfs = b.pwr.dvfs := rfl
@[simp] theorem modEmerg_pwr_ceiling (f : Emerg → Emerg) : (modEmerg f b).pwr.ceiling = b.pwr.ceiling := rfl
@[simp] theorem modEmerg_pwr_samples (f : Emerg → Emerg) : (modEmerg f b).pwr.samples = b.pwr.samples := rfl
@[simp] theorem modEmerg_pwr_milliwatts (f : Emerg → Emerg) : (modEmerg f b).pwr.milliwatts = b.pwr.milliwatts := rfl
@[simp] theorem modEmerg_pwr_sampleDue (f : Emerg → Emerg) : (modEmerg f b).pwr.sampleDue = b.pwr.sampleDue := rfl
@[simp] theorem modEmerg_pwr_img (f : Emerg → Emerg) : (modEmerg f b).pwr.img = b.pwr.img := rfl
@[simp] theorem modEmerg_pwr_certChain (f : Emerg → Emerg) : (modEmerg f b).pwr.certChain = b.pwr.certChain := rfl

/-! `modAdm` -/

@[simp] theorem modAdm_time (i : Nat) (f : AdmCmd → AdmCmd) : (modAdm i f b).time = b.time := rfl
@[simp] theorem modAdm_fuses (i : Nat) (f : AdmCmd → AdmCmd) : (modAdm i f b).fuses = b.fuses := rfl
@[simp] theorem modAdm_pwr (i : Nat) (f : AdmCmd → AdmCmd) : (modAdm i f b).pwr = b.pwr := rfl
@[simp] theorem modAdm_hub (i : Nat) (f : AdmCmd → AdmCmd) : (modAdm i f b).hub = b.hub := rfl
@[simp] theorem modAdm_dep (i : Nat) (f : AdmCmd → AdmCmd) : (modAdm i f b).dep = b.dep := rfl
@[simp] theorem modAdm_dsp (i : Nat) (f : AdmCmd → AdmCmd) : (modAdm i f b).dsp = b.dsp := rfl
@[simp] theorem modAdm_seq (i : Nat) (f : AdmCmd → AdmCmd) : (modAdm i f b).seq = b.seq := rfl
@[simp] theorem modAdm_bat (i : Nat) (f : AdmCmd → AdmCmd) : (modAdm i f b).bat = b.bat := rfl
@[simp] theorem modAdm_fab (i : Nat) (f : AdmCmd → AdmCmd) : (modAdm i f b).fab = b.fab := rfl
@[simp] theorem modAdm_sch (i : Nat) (f : AdmCmd → AdmCmd) : (modAdm i f b).sch = b.sch := rfl
@[simp] theorem modAdm_sec (i : Nat) (f : AdmCmd → AdmCmd) : (modAdm i f b).sec = b.sec := rfl
@[simp] theorem modAdm_flt (i : Nat) (f : AdmCmd → AdmCmd) : (modAdm i f b).flt = b.flt := rfl
@[simp] theorem modAdm_out (i : Nat) (f : AdmCmd → AdmCmd) : (modAdm i f b).out = b.out := rfl
@[simp] theorem modAdm_fresh (i : Nat) (f : AdmCmd → AdmCmd) : (modAdm i f b).fresh = b.fresh := rfl
@[simp] theorem modAdm_adm_cmd (i : Nat) (f : AdmCmd → AdmCmd) : (modAdm i f b).adm.cmd = b.adm.cmd := rfl
@[simp] theorem modAdm_adm_rpl (i : Nat) (f : AdmCmd → AdmCmd) : (modAdm i f b).adm.rpl = b.adm.rpl := rfl
@[simp] theorem modAdm_adm_cmdTail (i : Nat) (f : AdmCmd → AdmCmd) : (modAdm i f b).adm.cmdTail = b.adm.cmdTail := rfl
@[simp] theorem modAdm_adm_cmdHead (i : Nat) (f : AdmCmd → AdmCmd) : (modAdm i f b).adm.cmdHead = b.adm.cmdHead := rfl
@[simp] theorem modAdm_adm_rplHead (i : Nat) (f : AdmCmd → AdmCmd) : (modAdm i f b).adm.rplHead = b.adm.rplHead := rfl
@[simp] theorem modAdm_adm_rplTail (i : Nat) (f : AdmCmd → AdmCmd) : (modAdm i f b).adm.rplTail = b.adm.rplTail := rfl
@[simp] theorem modAdm_adm_phase (i : Nat) (f : AdmCmd → AdmCmd) : (modAdm i f b).adm.phase = b.adm.phase := rfl
@[simp] theorem modAdm_adm_irqEn (i : Nat) (f : AdmCmd → AdmCmd) : (modAdm i f b).adm.irqEn = b.adm.irqEn := rfl
@[simp] theorem modAdm_adm_drop (i : Nat) (f : AdmCmd → AdmCmd) : (modAdm i f b).adm.drop = b.adm.drop := rfl
@[simp] theorem modAdm_adm_takenAt (i : Nat) (f : AdmCmd → AdmCmd) : (modAdm i f b).adm.takenAt = b.adm.takenAt := rfl
@[simp] theorem modAdm_adm_laps (i : Nat) (f : AdmCmd → AdmCmd) : (modAdm i f b).adm.laps = b.adm.laps := rfl
@[simp] theorem modAdm_adm_bad (i : Nat) (f : AdmCmd → AdmCmd) : (modAdm i f b).adm.bad = b.adm.bad := rfl
@[simp] theorem modAdm_adm_due (i : Nat) (f : AdmCmd → AdmCmd) : (modAdm i f b).adm.due = b.adm.due := rfl

/-! `emit`, `progress` and `setFlag` -/

@[simp] theorem emit_time (o : Output) : (emit o b).time = b.time := rfl
@[simp] theorem emit_fuses (o : Output) : (emit o b).fuses = b.fuses := rfl
@[simp] theorem emit_pwr (o : Output) : (emit o b).pwr = b.pwr := rfl
@[simp] theorem emit_adm (o : Output) : (emit o b).adm = b.adm := rfl
@[simp] theorem emit_hub (o : Output) : (emit o b).hub = b.hub := rfl
@[simp] theorem emit_dep (o : Output) : (emit o b).dep = b.dep := rfl
@[simp] theorem emit_dsp (o : Output) : (emit o b).dsp = b.dsp := rfl
@[simp] theorem emit_seq (o : Output) : (emit o b).seq = b.seq := rfl
@[simp] theorem emit_bat (o : Output) : (emit o b).bat = b.bat := rfl
@[simp] theorem emit_fab (o : Output) : (emit o b).fab = b.fab := rfl
@[simp] theorem emit_sch (o : Output) : (emit o b).sch = b.sch := rfl
@[simp] theorem emit_sec (o : Output) : (emit o b).sec = b.sec := rfl
@[simp] theorem emit_flt (o : Output) : (emit o b).flt = b.flt := rfl
@[simp] theorem emit_fresh (o : Output) : (emit o b).fresh = b.fresh := rfl
@[simp] theorem emit_out (o : Output) : (emit o b).out = o :: b.out := rfl
@[simp] theorem progress_time (q : Nat) : (progress q b).time = b.time := rfl
@[simp] theorem progress_fuses (q : Nat) : (progress q b).fuses = b.fuses := rfl
@[simp] theorem progress_pwr (q : Nat) : (progress q b).pwr = b.pwr := rfl
@[simp] theorem progress_adm (q : Nat) : (progress q b).adm = b.adm := rfl
@[simp] theorem progress_hub (q : Nat) : (progress q b).hub = b.hub := rfl
@[simp] theorem progress_dep (q : Nat) : (progress q b).dep = b.dep := rfl
@[simp] theorem progress_dsp (q : Nat) : (progress q b).dsp = b.dsp := rfl
@[simp] theorem progress_seq (q : Nat) : (progress q b).seq = b.seq := rfl
@[simp] theorem progress_bat (q : Nat) : (progress q b).bat = b.bat := rfl
@[simp] theorem progress_fab (q : Nat) : (progress q b).fab = b.fab := rfl
@[simp] theorem progress_sch (q : Nat) : (progress q b).sch = b.sch := rfl
@[simp] theorem progress_sec (q : Nat) : (progress q b).sec = b.sec := rfl
@[simp] theorem progress_out (q : Nat) : (progress q b).out = b.out := rfl
@[simp] theorem progress_fresh (q : Nat) : (progress q b).fresh = b.fresh := rfl
@[simp] theorem progress_flt_stale (q : Nat) : (progress q b).flt.stale = b.flt.stale := rfl
@[simp] theorem progress_flt_reason (q : Nat) : (progress q b).flt.reason = b.flt.reason := rfl
@[simp] theorem progress_flt_src (q : Nat) : (progress q b).flt.src = b.flt.src := rfl
@[simp] theorem progress_flt_entry (q : Nat) : (progress q b).flt.entry = b.flt.entry := rfl
@[simp] theorem progress_flt_stalemates (q : Nat) : (progress q b).flt.stalemates = b.flt.stalemates := rfl
@[simp] theorem progress_flt_fatalPin (q : Nat) : (progress q b).flt.fatalPin = b.flt.fatalPin := rfl
@[simp] theorem progress_flt_lastSrc (q : Nat) : (progress q b).flt.lastSrc = b.flt.lastSrc := rfl
@[simp] theorem progress_flt_sumUcc (q : Nat) : (progress q b).flt.sumUcc = b.flt.sumUcc := rfl
@[simp] theorem progress_flt_sumCe (q : Nat) : (progress q b).flt.sumCe = b.flt.sumCe := rfl
@[simp] theorem progress_flt_quietLog2 (q : Nat) : (progress q b).flt.quietLog2 = b.flt.quietLog2 := rfl
@[simp] theorem progress_flt_dumpOnPart (q : Nat) : (progress q b).flt.dumpOnPart = b.flt.dumpOnPart := rfl
@[simp] theorem progress_flt_ceIrq (q : Nat) : (progress q b).flt.ceIrq = b.flt.ceIrq := rfl
@[simp] theorem progress_flt_fUe (q : Nat) : (progress q b).flt.fUe = b.flt.fUe := rfl
@[simp] theorem progress_flt_fSrc (q : Nat) : (progress q b).flt.fSrc = b.flt.fSrc := rfl
@[simp] theorem progress_flt_fTarget (q : Nat) : (progress q b).flt.fTarget = b.flt.fTarget := rfl
@[simp] theorem progress_flt_unlock (q : Nat) : (progress q b).flt.unlock = b.flt.unlock := rfl
@[simp] theorem progress_flt_refused (q : Nat) : (progress q b).flt.refused = b.flt.refused := rfl
@[simp] theorem progress_flt_wdEn (q : Nat) : (progress q b).flt.wdEn = b.flt.wdEn := rfl
@[simp] theorem progress_flt_wdLog2 (q : Nat) : (progress q b).flt.wdLog2 = b.flt.wdLog2 := rfl
@[simp] theorem progress_flt_escLog2 (q : Nat) : (progress q b).flt.escLog2 = b.flt.escLog2 := rfl
@[simp] theorem progress_flt_escCount (q : Nat) : (progress q b).flt.escCount = b.flt.escCount := rfl
@[simp] theorem progress_flt_stamps (q : Nat) : (progress q b).flt.stamps = b.flt.stamps := rfl
@[simp] theorem progress_flt_partResets (q : Nat) : (progress q b).flt.partResets = b.flt.partResets := rfl
@[simp] theorem progress_flt_parts (q : Nat) : (progress q b).flt.parts = b.flt.parts := rfl
@[simp] theorem progress_flt_srcs (q : Nat) : (progress q b).flt.srcs = b.flt.srcs := rfl
@[simp] theorem progress_flt_logRecs (q : Nat) : (progress q b).flt.logRecs = b.flt.logRecs := rfl
@[simp] theorem progress_flt_written (q : Nat) : (progress q b).flt.written = b.flt.written := rfl
@[simp] theorem progress_flt_dump (q : Nat) : (progress q b).flt.dump = b.flt.dump := rfl
@[simp] theorem progress_flt_dumpValid (q : Nat) : (progress q b).flt.dumpValid = b.flt.dumpValid := rfl
@[simp] theorem progress_flt_dumpLocked (q : Nat) : (progress q b).flt.dumpLocked = b.flt.dumpLocked := rfl
@[simp] theorem progress_flt_dumpReason (q : Nat) : (progress q b).flt.dumpReason = b.flt.dumpReason := rfl
@[simp] theorem progress_flt_captures (q : Nat) : (progress q b).flt.captures = b.flt.captures := rfl
@[simp] theorem progress_flt_capDue (q : Nat) : (progress q b).flt.capDue = b.flt.capDue := rfl
@[simp] theorem progress_flt_freshDue (q : Nat) : (progress q b).flt.freshDue = b.flt.freshDue := rfl
@[simp] theorem progress_flt_warm (q : Nat) : (progress q b).flt.warm = b.flt.warm := rfl
@[simp] theorem progress_flt_leaseLog2 (q : Nat) : (progress q b).flt.leaseLog2 = b.flt.leaseLog2 := rfl
@[simp] theorem progress_flt_leaseOff (q : Nat) : (progress q b).flt.leaseOff = b.flt.leaseOff := rfl
@[simp] theorem progress_flt_leaseDead (q : Nat) : (progress q b).flt.leaseDead = b.flt.leaseDead := rfl
@[simp] theorem progress_flt_expiries (q : Nat) : (progress q b).flt.expiries = b.flt.expiries := rfl
@[simp] theorem progress_flt_pkts (q : Nat) : (progress q b).flt.pkts = b.flt.pkts := rfl
@[simp] theorem progress_flt_admLog (q : Nat) : (progress q b).flt.admLog = b.flt.admLog := rfl
@[simp] theorem progress_flt_badFlags (q : Nat) : (progress q b).flt.badFlags = b.flt.badFlags := rfl
@[simp] theorem progress_flt_tapSel (q : Nat) : (progress q b).flt.tapSel = b.flt.tapSel := rfl
@[simp] theorem progress_flt_forcing (q : Nat) : (progress q b).flt.forcing = b.flt.forcing := rfl
@[simp] theorem progress_flt_clockLost (q : Nat) : (progress q b).flt.clockLost = b.flt.clockLost := rfl
@[simp] theorem setFlag_time (i : Nat) (v : W64) : (setFlag i v b).time = b.time := rfl
@[simp] theorem setFlag_fuses (i : Nat) (v : W64) : (setFlag i v b).fuses = b.fuses := rfl
@[simp] theorem setFlag_pwr (i : Nat) (v : W64) : (setFlag i v b).pwr = b.pwr := rfl
@[simp] theorem setFlag_adm (i : Nat) (v : W64) : (setFlag i v b).adm = b.adm := rfl
@[simp] theorem setFlag_hub (i : Nat) (v : W64) : (setFlag i v b).hub = b.hub := rfl
@[simp] theorem setFlag_dsp (i : Nat) (v : W64) : (setFlag i v b).dsp = b.dsp := rfl
@[simp] theorem setFlag_seq (i : Nat) (v : W64) : (setFlag i v b).seq = b.seq := rfl
@[simp] theorem setFlag_bat (i : Nat) (v : W64) : (setFlag i v b).bat = b.bat := rfl
@[simp] theorem setFlag_fab (i : Nat) (v : W64) : (setFlag i v b).fab = b.fab := rfl
@[simp] theorem setFlag_sch (i : Nat) (v : W64) : (setFlag i v b).sch = b.sch := rfl
@[simp] theorem setFlag_sec (i : Nat) (v : W64) : (setFlag i v b).sec = b.sec := rfl
@[simp] theorem setFlag_flt (i : Nat) (v : W64) : (setFlag i v b).flt = b.flt := rfl
@[simp] theorem setFlag_out (i : Nat) (v : W64) : (setFlag i v b).out = b.out := rfl
@[simp] theorem setFlag_fresh (i : Nat) (v : W64) : (setFlag i v b).fresh = b.fresh := rfl
@[simp] theorem flagOf_setFlag_same (i : Nat) (v : W64) : flagOf (setFlag i v b) i = v := tget_tset_same _ _ _ _
theorem flagOf_setFlag_other (v : W64) {i j : Nat} (h : i ≠ j) : flagOf (setFlag j v b) i = flagOf b i := tget_tset_other _ _ _ h

end Sys2Proof.Machine
end

