-- ==== Sys2Proof/Tests/Slice0.lean ====
section
/-! SUPPORT. Tests: a witness for every statement with hypotheses, the spec's worked examples, and the well-formedness checks. -/

namespace Sys2Proof.Tests

open Sys2Proof Sys2Proof.Machine

set_option Elab.async false

/-! ### Blocks that the witnesses stand on -/

/-- A block in service, nothing in it. -/
def up : Block :=
  { blockReset with
    pwr := { pwrReset with step := 9 }, hub := { hubReset with blkUp := true }
    sec := { secReset with kinv := false, idkValid := true, pub := List.replicate 97 1 } }

/-- `b` with 64 more CLK_REF cycles past. -/
def later (b : Block) : Block := { b with time := { b.time with root := b.time.root + 192 * 64 } }

/-- A block in start-up step `n`. -/
def inStep (n : Nat) : Block := { up with pwr := { up.pwr with step := n }, hub := hubReset }

/-- A block in stalemate. -/
def stuck : Block := enterStalemate 1 0x22 up

/-- A write of all eight bytes to word `k` of BAR0 region `r`. -/
def wr (r k : Nat) (v : W64) : MmioWrite := { addr := BitVec.ofNat 24 (r * 0x100000 + 8 * k), data := v, be := 0xFF, fn := false }

/-- A write of all eight bytes to BAR2 offset `o`. -/
def bell (o : Nat) (v : W64) : MmioWrite := { addr := BitVec.ofNat 24 o, data := v, be := 0xFF, fn := false }

/-- An image with nothing in it. -/
def img0 : Image :=
  { major := 1, minor := 0, g1 := true, svn := 1, meas := [], board := [], volts := [700, 700, 700, 700, 700], boot := 2, rails := [] }

/-- Domain `d` of `b` stands at `s`. -/
def atDom (d : Nat) (s : DomSt) (b : Block) : Block := modDom d (fun m => { m with st := s }) b

/-- Context 1 of `b` is ACTIVE and its queue 6 is set up. -/
def ctx1 : Block :=
  modQueue 6 (fun r => { r with state := .idle, gen2 := true, ringLog2 := 4, cqLog2 := 4, pfLines := 8 })
    (modCtx 1 (fun r => { r with state := .active, ast := 5 }) up)


/-- Slot 1 of `b` is READY with the block, node 5, alone as its member; core 1, channel 1 and port 1 are bound and context 1
admitted. -/
def slot1 (b : Block) : Block :=
  modMos 1 (fun m => { m with
      state := .ready, id := 7, ctxs := 2, collCtx := 1, cores := 2, chans := 2, links := 2, gen := 3, seq := 1
      members := [{ node := 5, hash := [], idk := [], eph := [], confirmed := true, lost := false, migHeld := false, lastSeq := none }] })
    { b with fab := { b.fab with phase := 8, node := 5 } }

/-! ### Witnesses: reset, start-up, MMIO -/

theorem witness_Resets : 2 ≤ 2 ∧ 1 < 2 := by decide

theorem witness_StartUp :
    blockReset.pwr.step = 0 ∧
    (running (inStep 1) = true ∧ (inStep 1).pwr.step = 1 ∧ 16 ≤ (List.replicate 16 24).length
      ∧ (∀ n ∈ (List.replicate 16 24).drop ((List.replicate 16 24).length - 16), 22 ≤ n ∧ n ≤ 26)) ∧
    (running (inStep 2) = true ∧ (inStep 2).pwr.step = 2) ∧
    ((domOrder (atDom 1 .off up)).find? (fun d => (domOf (atDom 1 .off up) d).st == .off) = some 1) ∧
    ((domOrder up).all (fun d => (domOf up d).st != .off) = true) ∧
    (running (inStep 4) = true ∧ (inStep 4).pwr.step = 4
      ∧ allZero { inStep 4 with fuses := { fusesReset with seed := [1] } }.fuses.seed = false) ∧
    (running (inStep 5) = true ∧ (inStep 5).pwr.step = 5) ∧
    ((modImg (fun i => { i with active := some img0 }) up).pwr.img.active = some img0 ∧ up.pwr.emerg.active = false
      ∧ img0.rails = []) ∧
    (running (inStep 6) = true ∧ (inStep 6).pwr.step = 6 ∧ (inStep 6).pwr.dvfs.phase = .idle) ∧
    (running up = true ∧ up.pwr.step = 9) ∧
    (running (inStep 7) = true ∧ (inStep 7).pwr.step = 7 ∧ { inStep 7 with fab := { fabReset with phase := 8 } }.fab.phase = 8
      ∧ (inStep 7).flt.leaseOff = false) := by decide +kernel

theorem witness_MmioHeld :
    blockReset.hub.blkUp = false ∧ ((atDom 1 .ret up).hub.blkUp = true ∧ domOn (atDom 1 .ret up) 1 = false) := by
  decide +kernel

theorem witness_Doorbells :
    hubOpen ctx1 = true ∧ (bell 0x1000 3).fn = false ∧ bar2At ctx1 (bell 0x1000 3).addr.toNat = some (.tail 6)
      ∧ bar2At ctx1 (bell 0x1100 3).addr.toNat = some (.cqHead 6)
      ∧ bar2At ctx1 (bell 0x1028 3).addr.toNat = some (.tail 11) ∧ bar2At ctx1 (bell 0x1128 3).addr.toNat = some (.cqHead 11)
      ∧ bar2At ctx1 (bell 0x0 3).addr.toNat = some (.tail 0) ∧ bar2At ctx1 (bell 0xFF128 3).addr.toNat = some (.cqHead 1535)
      ∧ bar2At ctx1 (bell 0x1030 3).addr.toNat = none ∧ (bell 0x1030 3).addr.toNat / 0x1000 < nContexts ctx1 := by
  decide +kernel

theorem witness_Doorbells_taken :
    (bell 0x1000 3).be = 0xFF ∧ (bell 0x1000 3).data.toNat = 3 ∧ 3 < 2 ^ (queueOf ctx1 6).ringLog2 ∧ 3 < 2 ^ (queueOf ctx1 6).cqLog2
      ∧ (ctxOf ctx1 (6 / 6)).state = .active ∧ (queueOf ctx1 6).state ≠ .disabled ∧ (queueOf ctx1 6).resetting = false := by
  decide +kernel

theorem witness_ServiceFunction :
    hubOpen ctx1 = true ∧ { bell 0x1000 3 with fn := true }.fn = true
      ∧ svcReads ctx1 true (bell 0x1000 3).addr.toNat = false ∧ svcReads ctx1 false 0 = false := by decide +kernel

theorem witness_ReservedOffsets :
    hubOpen up = true ∧ regAt up (0x18 : BitVec 24).toNat = none ∧ (wr 0 3 1).fn = false ∧ regAt up (wr 0 3 1).addr.toNat = none
      ∧ bar2At up (0x30 : BitVec 24).toNat = none ∧ bar2At up (bell 0x140000 1).addr.toNat = none := by decide +kernel

theorem witness_RegisterReads :
    (hubOpen up = true ∧ domOn up (regDomain (0x8 : BitVec 24).toNat) = true ∧ regAt up (0x8 : BitVec 24).toNat = some .glbIfrev) ∧
    (hubOpen (atDom 3 .off up) = true ∧ domOn (atDom 3 .off up) (regDomain (0x500000 : BitVec 24).toNat) = false) := by
  decide +kernel

/-- The registers that `RegisterReads` names, at the offsets that R438 gives them: a read reaches each. -/
theorem witness_RegisterReads_named :
    [(0x100010, Reg.hubCtxDbDrop 0), (0x5000C0, .fabSerdoDrop), (0xA08130, .depWcdCount), (0xA00030, .admDrop)
     , (0xA08020, .hubDbStray), (0x100120, .hubQTail 0), (0xA08110, .depWcdCfg), (0xA00000, .admCmdTail), (0xA00008, .admCmdHead)
     , (0xA00018, .admRplTail)].all
      (fun x => regAt up x.1 == some x.2 && domOn up (regDomain x.1)) = true
      ∧ rcReg .glbIfrev = false ∧ rcReg (.hubQTail 0) = false ∧ rcReg .admDrop = true
      ∧ stuck.hub.blkUp = true ∧ domOn stuck 1 = true ∧ stuck.hub.held = [] ∧ stuck.flt.stale = true
      ∧ staleReadable 0x100010 = false ∧ staleReadable 8 = true ∧ domOn stuck (regDomain 8) = true
      ∧ regAt stuck 8 = some .glbIfrev := by decide +kernel

theorem witness_RegisterWrites :
    reaches up (wr 10 0 5) .admCmdTail = true ∧ reaches up (wr 10 2 5) .admRplHead = true
      ∧ { wr 10 0 5 with be := 0x0F }.be ≠ 0xFF ∧ reaches up { wr 10 0 5 with be := 0x0F } .admCmdTail = true
      ∧ reaches up { wr 10 2 5 with be := 0x0F } .admRplHead = true ∧ reaches up (wr 8 11 1) .fltDumpStatus = true
      ∧ reaches up (wr 6 7 1) .schBwCfg = true ∧ reaches up (wr 10 0x1022 1) .depWcdCfg = true
      ∧ reaches up (wr 10 0x1001 1) .hubFetchCfg = true ∧ reaches up { wr 10 0x1022 1 with be := 1 } .depWcdCfg = true
      ∧ (wr 10 0 5).be = 0xFF := by decide +kernel

/-- A partial write reaches each register that `RegisterWrites` names one for. -/
theorem witness_RegisterWrites_partial :
    [((8, 11), Reg.fltDumpStatus), ((6, 7), .schBwCfg), ((2, 32), .dspCoreFailed 0), ((10, 0x1040), .seqPcacheInv)
     , ((4, 0x1005), .batCtxTrCfg 1), ((4, 0x1006), .batCtxTrHead 1), ((5, 23), .fabIdCfg), ((10, 0x1000), .hubHostLease)
     , ((8, 0), .fltSummary), ((8, 2), .fltForce)].all
      (fun x => reaches up { wr x.1.1 x.1.2 1 with be := 0x0F } x.2) = true ∧ (0x0F : BitVec 8) ≠ 0xFF := by decide +kernel

theorem witness_RegisterActions :
    reaches up (wr 2 32 1) (.dspCoreFailed 0) = true ∧ reaches up (wr 2 39 1) (.dspCoreFailed 7) = true
      ∧ reaches up (wr 10 0x1040 0x100) .seqPcacheInv = true ∧ reaches up (wr 4 0x1005 0x401) (.batCtxTrCfg 1) = true
      ∧ 4 ≤ (wr 4 0x1005 0x401).data.toNat / 256 % 32 ∧ (wr 4 0x1005 0x401).data.toNat / 256 % 32 ≤ 20
      ∧ reaches up (wr 4 0x1006 2) (.batCtxTrHead 1) = true ∧ reaches up (wr 5 23 0x155) .fabIdCfg = true
      ∧ (wr 5 23 0x155).data.getLsbD 8 = true ∧ up.fab.rescan = [] ∧ (wr 2 32 1).be = 0xFF := by decide +kernel

theorem witness_FaultWrites :
    (reaches up (wr 10 0x1000 1) .hubHostLease = true ∧ (wr 10 0x1000 1).data.getLsbD 0 = true ∧ up.flt.leaseOff = false) ∧
    (reaches up (wr 8 0 3) .fltSummary = true ∧ up.flt.srcs = []) ∧
    (let b := { up with flt := { up.flt with srcs := [(0x15, { active := true, cls := .ucc, scope := 3, recov := 0, errors := 0, dead := 0 })] } }
     reaches b (wr 8 0 2) .fltSummary = true ∧ (wr 8 0 2).data.getLsbD 0 = false ∧ (wr 8 0 2).data.getLsbD 1 = true
       ∧ b.flt.srcs.any (fun e => e.2.active && e.2.cls == .ucc) = true) ∧
    (let b := { up with flt := { up.flt with srcs := [(0x01, { active := true, cls := .ce, scope := 0, recov := 0, errors := 0, dead := 0 })] } }
     reaches b (wr 8 0 1) .fltSummary = true ∧ b.flt.ceIrq = false ∧ b.flt.srcs.any (fun e => e.2.active && e.2.cls == .ce) = true) ∧
    (reaches up (wr 8 2 0) .fltForce = true ∧ (wr 8 2 0).data.getLsbD 63 = false) ∧
    (reaches up (wr 8 2 0x8000000F00000000) .fltForce = true ∧ (wr 8 2 0x8000000F00000000).data.getLsbD 63 = true
      ∧ srcForm 0x0F false = none) ∧
    (srcForm 0x22 false = some (.ftl, 6) ∧ up.flt.unlock = false) ∧
    (srcForm 0x15 false = some (.ucc, 3) ∧ memberExists up 3 6 = false ∧ memberExists ctx1 3 6 = true
      ∧ reaches ctx1 (wr 8 2 0x8000001500000006) .fltForce = true) := by decide +kernel

theorem witness_AdminWindow :
    hubOpen up = true ∧ (bell 0x100008 1).fn = false ∧ bar2At up (bell 0x100008 1).addr.toNat = some (.cmd 1)
      ∧ bar2At up (bell 0x120008 1).addr.toNat = some (.rpl 1)
      ∧ bar2At up (0x100008 : BitVec 24).toNat = some (.cmd 1) ∧ bar2At up (0x120008 : BitVec 24).toNat = some (.rpl 1) := by
  decide +kernel

/-! ### Witnesses: the admin interface -/

/-- A command entry of opcode `opc` for interface revision 2 (or of the block under test), with the words listed. -/
def ent (opc : Nat) (ws : List (Nat × Nat)) : List Byte :=
  (List.range 32).flatMap (fun i => leBytes (if i = 0 then opc + up.pwr.ifrev / 256 * 65536 else (ws.lookup i).getD 0) 4)

/-- A command of entry `e`, taken at ring index 0 and not started. -/
def cmdOf (e : List Byte) : AdmCmd :=
  { idx := 0, entry := e, recov := false, major := up.pwr.ifrev / 256, started := false, replied := false, finalDue := none
    stage := 0, got := [], next := 0, out := 0, bad := none }

/-- `b` has taken command `e` at ring index 0 and not started it. -/
def taken (e : List Byte) (b : Block) : Block := { b with adm := { b.adm with cmds := [cmdOf e] } }

/-- The taken command with changes `f`. -/
def takenWith (f : AdmCmd → AdmCmd) (e : List Byte) (b : Block) : Block := modAdm 0 f (taken e b)

theorem witness_AdminTake :
    let b : Block := { up with adm := { up.adm with cmdTail := 1, cmd := [(0, 0x20030)] } }
    serving b = true ∧ b.adm.cmdHead ≠ b.adm.cmdTail ∧ admRoom b = true ∧ b.adm.takenAt = none
      ∧ admListed (admOpc (entryAt b 0)) = true ∧ admListed 0x7F = false := by decide +kernel

theorem witness_AdminReply :
    ((admOf (taken (ent 0x49 []) up) 0).isSome = true ∧ up.flt.stale = false ∧ up.flt.clockLost = false ∧ up.adm.due = []) ∧
    (let b : Block := { up with adm := { up.adm with cmds := [cmdOf (ent 0x49 []), { cmdOf (ent 0x05 []) with idx := 1 }] } }
     0 % 1024 < 1 % 1024 ∧ (admOf b 0).isSome = true ∧ (admOf b 1).isSome = true ∧ b.adm.due = []) := by decide +kernel

theorem witness_AdminOutcomes :
    (let b := takenWith (fun c => { c with finalDue := some (.ok, [1, 2, 3, 4]) }) (ent 0x05 [(4, 1)]) up
     serving b = true ∧ (admDueAt b 0).bind (·.finalDue) = some (.ok, [1, 2, 3, 4])) ∧
    (let e := ent 0x49 [(4, 0x80)]
     serving (taken e up) = true ∧ admAt (taken e up) 0x49 0 = some (cmdOf e) ∧ commonCheck (cmdOf e) = some (.badParam, 16)) ∧
    (let e := ent 0x02 [(20, 1)]
     commonCheck (cmdOf e) = some (.badParam, 80) ∧ admAt (taken e up) 0x02 0 = some (cmdOf e)) ∧
    (let b := taken (ent 0x41 []) { up with hub := { up.hub with writes := [(3, some (.adm 0))] } }
     serving b = true ∧ tget none b.hub.writes (3 % 512) = some (.adm 0) ∧ (1 : BitVec 2) ≠ 0
       ∧ (admOf b 0).map (fun c => decide (c.data.length ≤ c.next) && admOpc c.entry == 0x41) = some true) := by decide +kernel

theorem witness_ContextCommands :
    (let e := ent 0x02 [(4, 2), (5, 9)]
     let b := taken e ctx1
     admReady b 0 0x02 e = true ∧ ef e 4 0 8 < nContexts b ∧ (ctxOf b 2).state = .free ∧ ef e 4 0 8 = 2 ∧ ef e 5 0 20 = 9
       ∧ tagHeld b 9 = false ∧ domOn b 4 = true ∧ b.sec.tr = none) ∧
    (let e := ent 0x03 [(4, 1)]
     let b := taken e ctx1
     admReady b 0 0x03 e = true ∧ ef e 4 0 8 < nContexts b ∧ (ctxOf b (ef e 4 0 8)).state = .active ∧ domOn b 4 = true) := by
  decide +kernel

theorem witness_TagRejected :
    (let e := ent 0x02 [(4, 2), (5, 0)]
     admReady (taken e ctx1) 0 0x02 e = true ∧ ef e 5 0 20 = 0) ∧
    (let e := ent 0x02 [(4, 2), (5, 5)]
     let b := taken e ctx1
     admReady b 0 0x02 e = true ∧ ef e 4 0 8 < nContexts b ∧ (ctxOf b (ef e 4 0 8)).state = .free
       ∧ (1, { ctxZero with state := .active, ast := 5 }) ∈ b.hub.ctxs ∧ ef e 5 0 20 = 5) := by decide +kernel

theorem witness_QueueCommands :
    (let e := ent 0x04 [(4, 1 + 1 * 256 + 2 ^ 16 + 2 ^ 17), (5, 4 + 4 * 256 + 8 * 65536)]
     let b := taken e ctx1
     admReady b 0 0x04 e = true ∧ 6 * ef e 4 0 8 + ef e 4 8 3 = 7 ∧ queueCheck (admStarted 0 b) e 7 = none ∧ ef e 4 16 1 = 1
       ∧ (ctxOf b 1).service = false) ∧
    (let e := ent 0x04 [(4, 1), (5, 4 + 4 * 256 + 8 * 65536)]
     let b := taken e { ctx1 with pwr := { ctx1.pwr with g1 := true } }
     admReady b 0 0x04 e = true ∧ queueCheck (admStarted 0 b) e 6 = none ∧ ef e 4 16 1 = 0) ∧
    (let e := ent 0x05 [(4, 1)]
     let b := taken e ctx1
     admReady b 0 0x05 e = true ∧ ef e 4 0 8 < nContexts b ∧ (ctxOf b 1).state = .active ∧ ef e 4 8 3 ≤ 5
       ∧ (queueOf b 6).state ≠ .disabled) := by decide +kernel

theorem witness_MosaicCommands :
    (let e := ent 0x10 [(4, 1 + 7 * 65536), (5, 1), (6, 64)]
     let b := taken e { up with fab := { up.fab with phase := 8 } }
     admReady b 0 0x10 e = true ∧ b.fab.phase = 8 ∧ (mosOf b (ef e 4 0 6)).state = .free ∧ ef e 4 16 16 = 7
       ∧ slotOfId b 7 = none ∧ ef e 5 0 15 = 1 ∧ bufBad (dword e 6) 64 64 = none) ∧
    (let e := ent 0x11 [(4, 1), (11, 4), (27, 2), (29, 2)]
     let b := taken e (modMos 1 (fun m => { m with state := .created }) up)
     admReady b 0 0x11 e = true ∧ (mosOf b 1).state = .created ∧ (mosOf b 1).bind = none ∧ addCheck b 4 2 2 = none
       ∧ entrySets e = (4, 2, 2) ∧ scratchOn b (mosOf b 1) 2 = true) ∧
    (let b := modMos 1 (fun m => { m with state := .created, bind := some 0, links := 2 }) up
     (mosOf b 1).bind = some 0 ∧ tget 0 (epochOf b (b.fab.epoch % 4)).masks 1 ≠ (mosOf b 1).links
       ∧ tget 0 (epochOf (setLinks 1 0 b) (b.fab.epoch % 4)).masks 1 = (mosOf (setLinks 1 0 b) 1).links) ∧
    (let e := ent 0x12 [(4, 1), (11, 4), (27, 2), (29, 2)]
     let b := taken e (slot1 up)
     admReady b 0 0x12 e = true ∧ (mosOf b 1).state = .ready ∧ (mosOf b 1).rebind = none ∧ ef e 4 8 1 = 0
       ∧ rebindCheck (admStarted 0 b) 1 e = none) ∧
    (let e := ent 0x13 [(4, 1)]
     let b := taken e (slot1 up)
     admReady b 0 0x13 e = true ∧ (mosOf b 1).state ≠ .free ∧ (mosOf b 1).state ≠ .releasing
       ∧ releaseHeld (admStarted 0 b) 1 = false) := by decide +kernel

theorem witness_SchedulingCommands :
    (let e := ent 0x28 [(4, 2 + 1 * 256 + 1 * 65536), (5, 12), (6, 16), (7, 64), (8, 4096)]
     let b := taken e { slot1 up with fab := { (slot1 up).fab with node := 9 } }
     admReady b 0 0x28 e = true ∧ poolCheck (admStarted 0 b) e = none ∧ ef e 4 24 1 = 0 ∧ leads b (ef e 4 8 6) = false
       ∧ poolCheck (admStarted 0 (taken e (slot1 up))) e = none ∧ leads (taken e (slot1 up)) (ef e 4 8 6) = true
       ∧ admReady (taken e (slot1 up)) 0 0x28 e = true) ∧
    (let e := ent 0x28 [(4, 2 + 1 * 256 + 1 * 65536 + 2 ^ 24), (5, 12), (6, 16), (7, 64), (8, 4096)]
     let b := taken e (slot1 up)
     admReady b 0 0x28 e = true ∧ poolCheck (admStarted 0 b) e = none ∧ ef e 4 24 1 = 1) ∧
    (let e := ent 0x18 [(4, 1), (5, 1 + 300 * 65536)]
     let b := taken e ctx1
     admReady b 0 0x18 e = true ∧ ef e 4 0 5 = 1 ∧ shareCtxs e = [1] ∧ (ctxOf b 1).state = .active) ∧
    (let e := ent 0x19 [(4, 1), (6, 16)]
     let b := taken e (slot1 up)
     admReady b 0 0x19 e = true ∧ (mosOf b 1).state = .ready ∧ bufBad (dword e 6) 16 16 = none) ∧
    (let e := ent 0x48 [(4, 1)]
     let b := taken e (slot1 up)
     admReady b 0 0x48 e = true ∧ (mosOf b 1).state = .ready ∧ tget none b.flt.parts 1 = none) ∧
    (admReady (taken (ent 0x49 [(4, 256)]) up) 0 0x49 (ent 0x49 [(4, 256)]) = true ∧ ef (ent 0x49 [(4, 256)]) 4 8 1 = 1) ∧
    (admReady (taken (ent 0x49 [(4, 20)]) up) 0 0x49 (ent 0x49 [(4, 20)]) = true ∧ ef (ent 0x49 [(4, 20)]) 4 0 5 = 20) := by
  decide +kernel

/-- KEY_IMPORT of context 1, handle 3, session 4: the key 00H to 1FH wrapped by RFC 3394 under the key of R338 for an export
master secret of 48 bytes 07H and a SALT of 16 bytes 09H (worked out outside the model). -/
def importEnt : List Byte :=
  ent 0x20 [(4, 4), (5, 1 + 3 * 65536), (6, 0x9090909), (7, 0x9090909), (8, 0x9090909), (9, 0x9090909), (10, 0x74CC6E7A)
    , (11, 0xDA8821F7), (12, 0x85712BD4), (13, 0xBE16E763), (14, 0x269EDC24), (15, 0x4200818E), (16, 0xF8E9EA3C), (17, 0x37019BE)
    , (18, 0x3A69F538), (19, 0x142B1572)]

theorem witness_importUnwraps :
    aesUnwrap (importKey (List.replicate 48 7) 1 3 (slice importEnt 24 16)) (slice importEnt 40 40)
      = some ((List.range 32).map (BitVec.ofNat 8)) := by decide +kernel

theorem witness_KeyCommands :
    (let e := importEnt
     let n : Session := { id := 4, done := true, allSum := true, ems := List.replicate 48 7, hs := [], req := [], rsp := []
                          reqSeq := 0, rspSeq := 0, th := [], meas := [] }
     let b := taken e { ctx1 with sec := { ctx1.sec with sessions := [n] } }
     admReady b 0 0x20 e = true ∧ domOn b 4 = true ∧ ef e 5 0 8 = 1 ∧ b.sec.idkValid = true
       ∧ b.sec.sessions.find? (fun s => s.id == word e 4 && s.done && s.allSum) = some n ∧ (ctxOf b 1).state = .active
       ∧ ef e 5 16 10 = 3 ∧ (keyOf b 3).state = .empty) ∧
    (let e := ent 0x21 [(4, 3)]
     let b := taken e { up with sec := { up.sec with slots := [(3, { state := .loaded, ctx := 1, key := [], salt := [] })] } }
     admReady b 0 0x21 e = true ∧ domOn b 4 = true ∧ ef e 4 0 10 = 3 ∧ (keyOf b 3).state = .loaded) ∧
    (let e := ent 0x22 [(5, 100), (6, 64), (8, 4096)]
     let b := taken e up
     admReady b 0 0x22 e = true ∧ domOn b 4 = true ∧ ef e 5 0 13 = 100 ∧ ef e 4 16 1 = 0 ∧ bufBad (dword e 6) 100 1 = none
       ∧ bufBad (dword e 8) 4096 1 = none) := by decide +kernel

theorem witness_PowerCommands :
    (let e := ent 0x30 [(4, 2 + 2 * 256)]
     admReady (taken e up) 0 0x30 e = true ∧ ef e 4 0 4 = 2 ∧ ef e 4 8 2 = 2 ∧ (domOf (taken e up) 2).st = .on
       ∧ 2 < 5 + nSeqrs up / 8 ∧ (domOf (atDom 2 .off (taken e up)) 2).st = .off
       ∧ (domOf (atDom 2 .ret (taken e up)) 2).st = .ret ∧ admReady (atDom 2 .off (taken e up)) 0 0x30 e = true) ∧
    (let e := ent 0x30 [(4, 3)]
     let b := taken e (slot1 up)
     admReady b 0 0x30 e = true ∧ ef e 4 8 2 = 0 ∧ (domOf b 3).st = .on ∧ refuser (admStarted 0 b) 3 true (some 0) ≠ 0) ∧
    (let e := ent 0x30 [(4, 2 + 256)]
     let b := taken e up
     admReady b 0 0x30 e = true ∧ ef e 4 8 2 = 1 ∧ (domOf b 2).st = .on ∧ refuser (admStarted 0 b) 2 false (some 0) = 0) ∧
    (let e := ent 0x31 [(4, 4)]
     let b := taken e { up with fuses := { fusesReset with vmaxMv := BitVec.ofNat 12 2000, vsafeMv := BitVec.ofNat 12 700 } }
     admReady b 0 0x31 e = true ∧ ef e 4 0 3 = 4 ∧ ef e 5 0 12 = 0 ∧ b.fuses.stepMin.toNat ≤ 4
       ∧ b.fuses.vminMv.toNat ≤ oppVolt b 4 ∧ oppVolt b 4 ≤ b.fuses.vmaxMv.toNat ∧ b.pwr.emerg.active = false
       ∧ ¬ 4 < b.time.divStep ∧ b.pwr.dvfs.running = false
       ∧ admReady { b with pwr := { b.pwr with emerg := { b.pwr.emerg with active := true } } } 0 0x31 e = true) ∧
    (let e := ent 0x38 [(4, 416), (6, 64)]
     let b := taken e up
     admReady b 0 0x38 e = true ∧ word e 4 = 416 ∧ actBusy (admStarted 0 b) = false ∧ bufBad (dword e 6) 416 64 = none) ∧
    (let e := ent 0x39 []
     let im : Image := { img0 with major := up.pwr.ifrev / 256 }
     let b := taken e (modImg (fun m => { m with staged := some im }) up)
     admReady b 0 0x39 e = true ∧ ef e 4 0 1 = 0 ∧ b.pwr.img.staged = some im ∧ actBusy (admStarted 0 b) = false
       ∧ actCheck (admStarted 0 b) im = none ∧ b.pwr.emerg.active = false) := by decide +kernel

theorem witness_ReadCommands :
    (admReady (taken (ent 0x01 []) up) 0 0x01 (ent 0x01 []) = true ∧ up.sec.idkValid = true) ∧
    (let e := ent 0x41 [(5, 0), (6, 64), (8, 64)]
     let b := taken e up
     admReady b 0 0x41 e = true ∧ b.flt.capDue = none ∧ word e 5 % 64 = 0 ∧ word e 6 = 64 ∧ ef e 4 0 1 = 0
       ∧ bufBad (dword e 8) 64 64 = none) ∧
    (let e := ent 0x41 [(4, 1), (5, 2 ^ 14 - 64), (6, 64), (8, 64)]
     admReady (taken e up) 0 0x41 e = true ∧ ef e 4 0 1 = 1 ∧ word e 5 + word e 6 ≤ 2 ^ 14) := by decide +kernel

theorem witness_ImageSteps :
    (let b := modImg (fun m => { m with stage := some { adm := 0, len := 416, addr := 64, phase := 1, data := [], bad := none } }) up
     running b = true ∧ b.pwr.img.stage.map (·.phase) = some 1) ∧
    (let b := modImg (fun m => { m with stage := some { adm := 0, len := 416, addr := 64, phase := 3, data := [], bad := none } }) up
     running b = true ∧ b.pwr.img.stage.map (·.phase) = some 3) ∧
    (let b := modImg (fun m => { m with actPhase := 2, staged := some img0 }) up
     serving b = true ∧ b.pwr.img.actPhase = 2 ∧ b.pwr.img.staged = some img0 ∧ b.pwr.img.recovery = false) := by decide +kernel

/-! ### Witnesses: queues and submissions -/

/-- Queue 6 of `ctx1` is ACTIVE, changed by `f`. -/
def act6 (f : QueueRec → QueueRec) : Block := modQueue 6 (fun r => f { r with state := .active }) ctx1

/-- The block's IFREV_MAJOR, as a G2 entry carries it in word 1. -/
def major : Nat := up.pwr.ifrev / 256 * 65536

/-- Bytes from the words listed. -/
def wordsOf (n : Nat) (ws : List (Nat × Nat)) : List Byte := (List.range n).flatMap (fun i => leBytes ((ws.lookup i).getD 0) 4)

/-- A G2 entry of SEQNO 5 with the words listed beside word 0. -/
def subEnt (ws : List (Nat × Nat)) : List Byte := wordsOf 16 ((0, 5) :: ws)

/-- A submission of entry `e`, changed by `f`. -/
def subm (e : List Byte) (f : Sub → Sub) : Sub := f (newSub 1 0 (.bytes e) (entryOf true e))

/-- Queue 6 holds the submission `s` alone. -/
def withSub (s : Sub) (f : QueueRec → QueueRec) : Block := act6 (fun r => f { r with subs := [s], expected := 5 })

/-- A line of bytes `l` at address `a` for the item `it`. -/
def line (it : LineItem) (a : Nat) (l : List Byte) : Line := { item := it, lo := a, len := l.length, demand := false, data := some (.bytes l) }

theorem witness_IdleHandshake :
    (let b := modQueue 6 (fun r => { r with pending := true }) ctx1
     serving b = true ∧ 6 < nQueues b ∧ (queueOf b 6).state = .idle ∧ (queueOf b 6).pending = true ∧ (queueOf b 6).resetting = false) ∧
    (let b := act6 (fun r => r)
     (queueOf b 6).state = .active ∧ b.hub.leaseExpired = false ∧ (queueOf b 6).armed = false ∧ (queueOf b 6).head = (queueOf b 6).captured) ∧
    (queueOf (act6 (fun r => { r with armed := true })) 6).armed = true := by decide +kernel

theorem witness_FetchAndReads :
    (let e := subEnt []
     let b := act6 (fun r => { r with captured := 1, lines := [line .ring 0 e] })
     serving b = true ∧ (queueOf b 6).armed = false ∧ (queueOf b 6).head ≠ (queueOf b 6).captured ∧ (queueOf b 6).resetting = false
       ∧ readRange (queueOf b 6).lines .ring 2 0 64 = .ok e ∧ (queueOf b 6).gen2 = true) ∧
    (let b := act6 (fun r => { r with captured := 1 })
     serving b = true ∧ demandUsed b < 64
       ∧ (b.hub.queues.map (·.1)).findSome? (fun q => (demandOf b (queueOf b q)).map (fun x => (q, x))) = some (6, .ring, 0)) ∧
    (let b := act6 (fun r => { r with captured := 9, lines := [line .ring 0 (List.replicate 512 0)] })
     (b.hub.queues.map (·.1)).findSome? (fun q => (demandOf b (queueOf b q)).map (fun x => (q, x))) = none
       ∧ (prefetchOrder b).findSome? (fun q => (prefetchOf b (queueOf b q)).map (fun x => (q, x))) = some (6, .ring, 512)) ∧
    (tget none { up.hub with reads := [(0, some (.line 6 .ring 0))] }.reads 0 = some (.line 6 .ring 0)) ∧
    (let b := taken (ent 0x22 []) { up with hub := { up.hub with reads := [(0, some (.adm 0))] } }
     serving b = true ∧ tget none b.hub.reads 0 = some (.adm 0) ∧ (admOf b 0).map (fun c => admOpc c.entry) = some 0x22) ∧
    (let b : Block := { up with hub := { up.hub with maxReads := 0 } }
     b.flt.stale = false ∧ freeReadTag b = none) := by
  decide +kernel

theorem witness_SubmissionChecks :
    (let e := subEnt [(2, 1), (1, major)]
     let b := withSub (subm e id) id
     serving b = true ∧ checkableOf (queueOf b 6) = some (subm e id)
       ∧ entryCheck (queueOf b 6).gen2 (queueOf b 6).any (queueOf b 6).expected (b.pwr.ifrev / 256) e = some .badLength) ∧
    (let e := subEnt [(2, 32), (4, 0x10000), (1, major)]
     let b := withSub (subm e id) id
     checkableOf (queueOf b 6) = some (subm e id)
       ∧ entryCheck (queueOf b 6).gen2 (queueOf b 6).any (queueOf b 6).expected (b.pwr.ifrev / 256) e = none
       ∧ (subm e id).ent.patchCount = 0) ∧
    (let p := wordsOf 8 [(0, 0x107F)]
     let s := subm (subEnt [(2, 64), (4, 0x10000)]) (fun s => { s with phase := .checking })
     let b := withSub s (fun r => { r with lines := [line (.buf 1) 0x10000 (p ++ p)] })
     checkableOf (queueOf b 6) = some s ∧ s.chk.tpl = none ∧ patchReach b.pwr.g1 (queueOf b 6).lines s = none
       ∧ checkOne b 1 (queueOf b 6).lines (.buf 1) 0x10000 0 64 0 none none (applyPatches 0 s.patches) id = .fail .badOpcode 0) ∧
    (let p := wordsOf 8 [(0, 0x1001)]
     let s := subm (subEnt [(2, 64), (4, 0x10000)]) (fun s => { s with phase := .checking })
     let b := withSub s (fun r => { r with lines := [line (.buf 1) 0x10000 (p ++ p)] })
     (match checkOne b 1 (queueOf b 6).lines (.buf 1) 0x10000 0 64 0 none none (applyPatches 0 s.patches) id with
     | .pass k _ => k.opc == .nop && k.body == .control && badTarget k 0 [] == none && decide (0 + 32 * (k.len + 1) < s.ent.cbLen)
     | _ => false) = true) := by decide +kernel

/-- Queue 6's submission 1 is in its check pass on a packet of words `p` in a buffer of `n` bytes, with changes `f`. -/
def checkAt (n : Nat) (p : List (Nat × Nat)) (units : Nat) (f : Sub → Sub) : Sub × Block :=
  let s := subm (subEnt [(2, n), (4, 0x10000)]) (fun s => f { s with phase := .checking })
  (s, slot1 (withSub s (fun r => { r with lines := [line (.buf 1) 0x10000 (wordsOf (8 * units) p)] })))

/-- What the check pass finds there. -/
def checksAt (x : Sub × Block) : Checked :=
  checkOne x.2 1 (queueOf x.2 6).lines (.buf 1) 0x10000 0 x.1.ent.cbLen 0 x.1.chk.sect none (applyPatches 0 x.1.patches) id

theorem witness_SubmissionChecks_end :
    (let x := checkAt 32 [(0, 0x101A)] 1 id
     serving x.2 = true ∧ checkableOf (queueOf x.2 6) = some x.1 ∧ x.1.chk.tpl = none ∧ patchReach x.2.pwr.g1 (queueOf x.2 6).lines x.1 = none ∧
     (match checksAt x with
     | .pass k _ => badTarget k 0 x.1.chk.targets == none && sectAfter k 0 x.1.chk.sect == some 0 && decide (x.1.ent.cbLen ≤ 32)
     | _ => false) = true) ∧
    (let x := checkAt 32 [(0, 0x1001)] 1 (fun s => { s with chk := { s.chk with targets := [(0, 64, 4)] } })
     checkableOf (queueOf x.2 6) = some x.1 ∧ patchReach x.2.pwr.g1 (queueOf x.2 6).lines x.1 = none ∧
     (match checksAt x with
     | .pass k _ => badTarget k 0 x.1.chk.targets == none && sectAfter k 0 x.1.chk.sect == none
         && targetsAfter k 0 x.1.chk.targets == [(0, 64, 4)]
     | _ => false) = true) ∧
    (let x := checkAt 32 [(0, 0x103F)] 1 id
     checkableOf (queueOf x.2 6) = some x.1 ∧
     (match checksAt x with
     | .pass k _ => k.opc == .endP && badTarget k 0 x.1.chk.targets == none && sectAfter k 0 x.1.chk.sect == none
         && targetsAfter k 0 x.1.chk.targets == []
     | _ => false) = true) := by decide +kernel

theorem witness_SubmissionChecks_template :
    (let x := checkAt 64 [(0, 0x1103), (1, 0x100), (4, 1), (5, 32), (6, 0x20000), (8, 0x30000), (10, 64 + 16 * nSequences up)] 2 id
     serving x.2 = true ∧ checkableOf (queueOf x.2 6) = some x.1 ∧ x.1.chk.tpl = none ∧ patchReach x.2.pwr.g1 (queueOf x.2 6).lines x.1 = none ∧
     (match checksAt x with
     | .pass k _ => badTarget k 0 x.1.chk.targets == none && k.body == .launchTurn 1 32 0x20000 0x30000 (64 + 16 * nSequences up)
     | _ => false) = true) ∧
    (let t : TplCheck := { ltOff := 0, ltTag := 0, addr := 0x20000, len := 64, slot := 1, pos := 0, tags := 0, sect := none }
     let at_ (w : Nat) := withSub (subm (subEnt [(2, 64), (4, 0x10000)]) (fun s => { s with phase := .checking, chk := { s.chk with tpl := some t } }))
       (fun r => { r with lines := [line (.tpl 1 0) 0x20000 (wordsOf 16 [(0, w), (8, 0x1001)])] })
     let c (w : Nat) := checkOne (at_ w) 1 (queueOf (at_ w) 6).lines (.tpl 1 0) 0x20000 0 64 0 none (some 1) id (fun _ => 0)
     serving (at_ 0x1001) = true ∧ (checkableOf (queueOf (at_ 0x1001) 6)).map (·.chk.tpl) = some (some t) ∧ c 0x107F = .fail .badOpcode 0 ∧
     (match c 0x1001 with
     | .pass k _ => k.opc != .endP && decide (0 + 32 * (k.len + 1) < 64)
     | _ => false) = true) := by decide +kernel

theorem witness_SubmissionChecks_patches :
    let at_ (o w v : Nat) : Block := withSub (subm (subEnt [(2, 64), (4, 0x10000), (3, 1), (6, 0x40000)]) (fun s => { s with phase := .patching }))
      (fun r => { r with lines := [line (.patch 1) 0x40000 (wordsOf 4 [(0, o), (1, w), (2, v)])] })
    let e (o w v : Nat) := wordsOf 4 [(0, o), (1, w), (2, v)]
    (let b := at_ 0 0 300
     serving b = true ∧ (checkableOf (queueOf b 6)).map (fun s => (s.sid, s.phase == .patching, decide (s.patchNext < s.ent.patchCount), s.ent.patchAddr, s.patches.length))
       = some (1, true, true, 0x40000, 0)
       ∧ readRange (queueOf b 6).lines (.patch 1) 2 0x40000 16 = .ok (e 0 0 300) ∧ 2 ^ (8 * (patchOf (e 0 0 300)).width) ≤ (patchOf (e 0 0 300)).value) ∧
    (let b := at_ 2 2 0
     readRange (queueOf b 6).lines (.patch 1) 2 0x40000 16 = .ok (e 2 2 0) ∧ fld (word (e 2 2 0) 1) 2 30 = 0
       ∧ (patchOf (e 2 2 0)).offset % (patchOf (e 2 2 0)).width ≠ 0 ∧ (patchOf (e 2 2 0)).value = 0) ∧
    (let b := at_ 64 2 0
     readRange (queueOf b 6).lines (.patch 1) 2 0x40000 16 = .ok (e 64 2 0) ∧ (patchOf (e 64 2 0)).offset % (patchOf (e 64 2 0)).width = 0
       ∧ 64 < (patchOf (e 64 2 0)).offset + (patchOf (e 64 2 0)).width) := by decide +kernel

theorem witness_SubmissionStarts :
    let s := subm (subEnt [(3, 2 ^ 27), (8, 3)]) (fun s => { s with phase := .checked })
    let b := withSub s id
    let allowed (b : Block) : Block := { b with dep := { b.dep with maps := [(1, 1)] } }
    let k : Packet := { opc := .waitFlag, gen2 := true, len := 0, nondet := false, atomic := false, compIrq := false, slot := some 1
                        tag := 0, mask := 0, scope := 0, body := .waitFlag false 3 0 1 0 }
    let o : Op := { oid := 2, q := 7, sid := 1, ctx := 1, inst := 0, off := 64, slot := 1, pkt := k, waits := [], sect := none
                    stage := .released, relNo := 0, poll := .none, acks := 0 }
    let full (b : Block) : Block := { b with dep := { b.dep with ops := List.replicate 4096 o } }
    let held := modSub 6 1 (fun s => { s with wait0 := .entry }) b
    serving b = true ∧ startable none (queueOf b 6).subs = some s ∧ ((queueOf b 6).cqTail + 1) % 2 ^ (queueOf b 6).cqLog2 ≠ (queueOf b 6).cqHead
      ∧ (queueOf b 6).undeliverable = false ∧ (queueOf b 6).resetting = false ∧ b.hub.leaseExpired = false ∧ waitEntries b < 4096
      ∧ s.ent.wait0 = true ∧ s.ent.wait1 = false ∧ s.ent.sig = false ∧ (subOf held 6 1).map (·.wait0) = some .entry
      ∧ flagAllowed held 1 s.ent.wait0Flag = false ∧ flagAllowed (allowed held) 1 s.ent.wait0Flag = true
      ∧ flagBad (allowed held) s.ent.wait0Flag = false
      ∧ 4096 ≤ waitEntries (full b) ∧ s.wait0 ≠ .entry ∧ subOf (full b) 6 1 = some s
      ∧ startable none (queueOf (full b) 6).subs = some s := by decide +kernel

theorem witness_CompletionRecords :
    (let s := subm (subEnt []) (fun s => { s with phase := .checked, started := true, lch := { s.lch with ended := true } })
     let b := withSub s id
     serving b = true ∧ (queueOf b 6).undeliverable = false ∧ (queueOf b 6).resetting = false ∧ (ctxOf b 1).state = .active
       ∧ s.record = .pending ∧ subDone b s = true ∧ s.ent.complete = false ∧ s.fail = none) ∧
    (let s := subm (subEnt []) (fun s => { s with phase := .checked, started := true, lch := { s.lch with ended := true }, record := .notNeeded })
     let b := withSub s id
     nextRecord (queueOf (signalDone 6 b) 6) = some s ∧ s.fail = none) ∧
    (let s := subm (subEnt [(1, 2 ^ 24)]) (fun s => { s with phase := .checked, started := true, lch := { s.lch with ended := true } })
     let b := withSub s id
     nextRecord (queueOf (signalDone 6 b) 6) = some s ∧ subDone (signalDone 6 b) s = true ∧ s.ent.complete = true
       ∧ ((queueOf b 6).cqTail + 1) % 2 ^ (queueOf b 6).cqLog2 ≠ (queueOf b 6).cqHead ∧ (hostWrite (.record 6 1) 0 [] (some 5) (signalDone 6 b)).isSome = true) ∧
    (let s := subm (subEnt [(3, 2 ^ 29)]) (fun s => { s with record := .issued 0 })
     let b := withSub s id
     let b : Block := { b with hub := { b.hub with writes := [(3, some (.record 6 1))] } }
     serving b = true ∧ tget none b.hub.writes (3 % 512) = some (.record 6 s.sid) ∧ subOf b 6 s.sid = some s ∧ s.fail = none
       ∧ (queueOf b 6).undeliverable = false ∧ (queueOf b 6).resetting = false ∧ (queueOf b 6).state ≠ .halted ∧ (1 : BitVec 2) ≠ 0) ∧
    (let s := subm (subEnt []) (fun s => { s with phase := .checked, started := true, lch := { s.lch with ended := true } })
     s.record = .pending ∧ subDone (withSub s id) s = true ∧ { s with record := .notNeeded }.record ≠ .pending) ∧
    (serving up = true ∧ 1023 < 4 * nContexts up) := by decide +kernel

theorem witness_CompletionRecords_failed :
    (let s := subm (subEnt []) (fun s => { s with fail := some { status := .badParam, kind := 3, detail := 32 }, halter := true })
     let b := withSub s id
     serving b = true ∧ (queueOf b 6).undeliverable = false ∧ (queueOf b 6).resetting = false ∧ (ctxOf b 1).state = .active
       ∧ nextRecord (queueOf (signalDone 6 b) 6) = some s ∧ subOver (signalDone 6 b) s.sid = true
       ∧ ((queueOf b 6).cqTail + 1) % 2 ^ (queueOf b 6).cqLog2 ≠ (queueOf b 6).cqHead
       ∧ (hostWrite (.record 6 1) 0 [] (some 5) (signalDone 6 b)).isSome = true) := by decide +kernel

/-! ### Witnesses: packets -/

/-- An operation of queue 6, submission 1, context 1, on slot 1. -/
def opn (oc : Opc) (bd : Body) (f : Op → Op) : Op :=
  f { oid := 1, q := 6, sid := 1, ctx := 1, inst := 0, off := 0, slot := 1
      pkt := { opc := oc, gen2 := true, len := 0, nondet := false, atomic := false, compIrq := false, slot := some 1, tag := 0
               mask := 0, scope := 0, body := bd }
      waits := [], sect := none, stage := .decoded, relNo := 0, poll := .none, acks := 0 }

/-- Queue 6's submission 1 has started and slot 1 is READY; `o` is tracked; context 1 may use flag page 0. -/
def withOp (o : Op) : Block :=
  let b := slot1 (withSub (subm (subEnt []) (fun s => { s with phase := .checked, started := true, lch := { s.lch with ended := true } })) id)
  { b with dep := { b.dep with ops := [o], nextOid := 2, maps := [(1, 1)] } }

/-- The packet reference of that operation. -/
def at0 : PktRef := { q := 6, tpl := false, off := 0 }

/-- The operation is ready to be released by its row. -/
def rdy (o : Op) (b : Block) : Bool := relReady b o.pkt.opc at0 o

/-- Queue 6's submission 1 stands in its launch pass at a packet of header word `w` and scope word `v`. -/
def launchAt (w v : Nat) (f : Launch → Launch) : Block :=
  slot1 (withSub (subm (subEnt [(2, 64), (4, 0x10000)]) (fun s => { s with phase := .checked, started := true, lch := f s.lch }))
    (fun r => { r with lines := [line (.buf 1) 0x10000 (wordsOf 8 [(0, w), (1, v)] ++ wordsOf 8 [(0, 0x1001)])] }))

/-- `launchReady` for the packet that the launch pass stands at, of opcode `oc`. -/
def lready (b : Block) (oc : Opc) : Bool :=
  match (queueOf b 6).subs with
  | s :: _ => (match launchChecked b 1 (queueOf b 6) s with
    | .pass k bs => launchReady b at0 s k bs && k.opc == oc
    | _ => false)
  | [] => false

theorem witness_ControlPackets :
    lready (launchAt 0x1001 0 id) .nop = true ∧ lready (launchAt 0x100A 1 id) .fence = true
      ∧ lready (launchAt 0x101A 0 id) .atomicBegin = true
      ∧ lready (launchAt 0x101B 0 (fun l => { l with sect := some 0 })) .atomicEnd = true
      ∧ lready (launchAt 0x103F 0 id) .endP = true := by decide +kernel

/-- A LAUNCH body of class 0 and grid `m` by 1. -/
def lb (fc k m : Nat) : LaunchB := { fclass := fc, k := k, gridM := m, gridN := 1, progAddr := 0, progLen := 64, ops := [(0, 64)], args := [] }

theorem witness_DispatchPackets :
    (rdy (opn .launch (.launch (lb 0 0 0)) id) (withOp (opn .launch (.launch (lb 0 0 0)) id)) = true ∧ workOf (lb 0 0 0) = 0) ∧
    (rdy (opn .launch (.launch (lb 0 0 4)) id) (withOp (opn .launch (.launch (lb 0 0 4)) id)) = true ∧ workOf (lb 0 0 4) ≠ 0
      ∧ ¬ 2 ≤ bricksOf (lb 0 0 4) ∧ (0 : Nat) + 64 ≤ 2 ^ 64) ∧
    (let l := lb 3 512 4
     let o := opn .launch (.launch l) id
     let b := withOp o
     let r : Block := modMos 1 (fun m => { m with scratchSlots := 100 }) b
     rdy o b = true ∧ workOf l ≠ 0 ∧ 2 ≤ bricksOf l ∧ (mosOf b o.slot).scratchSlots < tileSlots (bricksOf l)
       ∧ rdy o r = true ∧ tileSlots (bricksOf l) ≤ (mosOf r o.slot).scratchSlots) ∧
    (let l : LaunchB := { lb 0 0 4 with ops := [(2 ^ 64 - 1, 2)] }
     let o := opn .launch (.launch l) id
     rdy o (withOp o) = true ∧ (2 ^ 64 - 1, 2) ∈ l.ops ∧ (2 : Nat) ^ 64 < (2 ^ 64 - 1) + 2) ∧
    (let o := opn .fill (.fill 4 0 0 1) id
     rdy o (withOp o) = true) ∧
    (let o := opn .fill (.fill 4 2 (2 ^ 64 - 1) 1) id
     rdy o (withOp o) = true ∧ (2 : Nat) ^ 64 < (2 ^ 64 - 1) + 2) ∧
    (rdy (opn .copy (.copy 0 0 0) id) (withOp (opn .copy (.copy 0 0 0) id)) = true) ∧
    (rdy (opn .copy (.copy 2 (2 ^ 64 - 1) 0) id) (withOp (opn .copy (.copy 2 (2 ^ 64 - 1) 0) id)) = true) ∧
    (rdy (opn .copy (.copy 2 64 0) id) (withOp (opn .copy (.copy 2 64 0) id)) = true) ∧
    (rdy (opn .fill (.fill 4 64 0 1) id) (withOp (opn .fill (.fill 4 64 0 1) id)) = true) := by decide +kernel

theorem witness_FlagPackets :
    (let o := opn .waitFlag (.waitFlag false 3 0 0 0) id
     let b := withOp o
     rdy o b = true ∧ waitHolds 0 (flagOf b 3) 0 = true ∧ flagAllowed b o.ctx 3 = true ∧ flagBad b 3 = false
       ∧ flagAllowed b o.ctx 256 = false ∧ waitEntries b < 4096 ∧ waitHolds 0 (flagOf b 3) 1 = false
       ∧ (let f : Block := { b with dep := { b.dep with ops := o :: List.replicate 4096 { o with oid := 2, off := 64, stage := .released } } }
          serving f = true ∧ releaseOf f .waitFlag at0 = some o ∧ 4096 ≤ waitEntries f)
       ∧ (let f : Block := { b with flt := { b.flt with badFlags := [3] } }
          rdy o f = true ∧ flagAllowed f o.ctx 3 = true ∧ flagBad f 3 = true)) ∧
    (let o := opn .waitFlag (.waitFlag true 0 0 7 64) id
     rdy o (withOp o) = true) ∧
    (let o := opn .signalFlag (.signalFlag true false 0 0 0 1 64) id
     let b := withOp o
     rdy o b = true ∧ sealedTouch b o.ctx 64 8 = false
       ∧ (ddIssue (ddPortOf b o.slot) (.atom o.oid) (plainDesc b o.ctx o.slot 6 0 none (words64 64 ++ [0] ++ words64 1)) b).isSome = true
       ∧ (let k : Block := { b with sec := { b.sec with bindings := [{ ctx := 1, handle := 3, base := 0, len := 4096 }] } }
          rdy o k = true ∧ sealedTouch k o.ctx 64 8 = true)) ∧
    (let o := opn .signalFlag (.signalFlag false true 3 4 6 1 0) id
     rdy o (withOp o) = true ∧ 6 ≠ (withOp o).fab.node) ∧
    (let o := opn .signalFlag (.signalFlag false false 3 4 0 1 0) id
     let b := withOp o
     rdy o b = true ∧ flagAllowed b o.ctx 3 = true ∧ flagBad b 3 = false
       ∧ (let f : Block := { b with flt := { b.flt with badFlags := [3] } }
          rdy o f = true ∧ flagAllowed f o.ctx 3 = true ∧ flagBad f 3 = true)) ∧
    (let o := opn .signalFlag (.signalFlag false false 300 4 0 1 0) id
     let b := withOp o
     rdy o b = true ∧ flagAllowed b o.ctx 300 = false) ∧
    (let o := opn .signalFlag (.signalFlag false true 3 4 5 1 0) id
     let b := withOp o
     rdy o b = true ∧ b.fab.node = 5) ∧
    (let o := opn .patchFromFlag (.patchFromFlag 3 1 64) id
     let b := withOp o
     rdy o b = true ∧ (flagOf b 3).toNat < 2 ^ (8 * 1) ∧ 2 ^ (8 * 1) ≤ (flagOf (setFlag 3 256 b) 3).toNat
       ∧ rdy o (setFlag 3 256 b) = true) := by decide +kernel

theorem witness_WaitProgress :
    (serving up = true ∧ flagBad up 65535 = false) ∧
    (let o := opn .waitFlag (.waitFlag true 0 0 7 64) (fun o => { o with stage := .released, poll := .interval 0, acks := 1 })
     let b := withOp o
     serving b = true ∧ seqUp b 0 = true ∧ opOf b o.oid = some o ∧ 0 ≤ hubNow b ∧ o.stage = .released ∧ waitHolds 0 7 7 = true ∧ waitHolds 0 6 7 = false
       ∧ (let u : DdUse := { owner := .poll 1, key := none, pc := 0, ctx := 1, ast := 5, epoch := 0, addr := 64, data := [] }
          tget none (seqrOf (modSeqr 0 (fun s => { s with dd := [(9, some u)] }) b) 0).dd 9 = some u)) ∧
    (let o := opn .waitFlag (.waitFlag false 3 0 1 0) (fun o => { o with stage := .released })
     let b := withOp o
     let b := modQueue 6 (fun r => { r with subs := r.subs.map (fun s => { s with ent := { s.ent with sig := true, sigFlag := 3 } }) }) b
     let b : Block := { b with dep := { b.dep with wcdEnable := true, pages := [(0, { slot := 0, detect := true, remote := false })] } }
     serving b = true ∧ b.dep.first = none ∧ candidates b = [6]
       ∧ (let w : WcdFirst := { d := [6], flags := [3], deadline := 0, changed := false, second := none }
          w.deadline ≤ hubNow b ∧ candidates { b with dep := { b.dep with first := some w } } = w.d)
       ∧ (let w : WcdFirst := { d := [6], flags := [3], deadline := 0, changed := false, second := some 5 }
          let b : Block := { b with time := { b.time with root := 64 }, dep := { b.dep with first := some w } }
          5 < hubNow b ∧ candidates b = w.d)) := by decide +kernel

/-- `withOp o` with pool 2 of context 1 on slot 1, of 8 pages of 16 tokens. -/
def withPool (o : Op) : Block :=
  modPool 2 (fun r => { r with cfgd := true, slot := 1, ctx := 1, pageLog2 := 12, pageTok := 16, pages := 8 }) (withOp o)

theorem witness_SequencePackets :
    (let o := opn .launchTurn (.launchTurn 3 64 0 0 0) id
     let b := withPool o
     rdy o b = true ∧ domOn b 2 = true ∧ (loopOf b o.slot).oid = none ∧ poolFor b o.slot = true ∧ poolOwner b o.slot = some o.ctx
       ∧ leads b o.slot = true) ∧
    (let o := opn .launchTurn (.launchTurn 0 64 0 0 0) id
     let b := withPool o
     let b : Block := { b with fab := { b.fab with node := 9 } }
     rdy o b = true ∧ domOn b 2 = true ∧ (loopOf b o.slot).oid = none ∧ poolFor b o.slot = true ∧ leads b o.slot = false) ∧
    (let o := opn .seqAdmit (.seqAdmit 9 2 0 0 [] 64 1 1) id
     let b := withPool o
     let b : Block := { b with bat := { b.bat with rings := [(1, { ringOf b 1 with en := true })] } }
     rdy o b = true ∧ leads b o.slot = true ∧ (seqnOf b 9).state = .free ∧ (ringOf b o.ctx).en = true ∧ (poolOf b 2).failed = false) ∧
    (let o := opn .seqAdmit (.seqAdmit 9 2 0 0 [] 64 0 1) id
     let b := withPool o
     rdy o b = true ∧ leads b o.slot = true ∧ (seqnOf b 9).state = .free ∧ (ringOf b o.ctx).en = false
       ∧ (let r : Block := { b with bat := { b.bat with rings := [(1, { ringOf b 1 with en := true })] } }
          rdy o r = true ∧ leads r o.slot = true ∧ (ringOf r o.ctx).en = true ∧ (poolOf r 2).failed = false)) ∧
    (let o := opn .seqRetire (.seqRetire 9) id
     let b := modSeqn 9 (fun s => { s with state := .active, ctx := 1, mslot := 1, pool := 2 }) (withPool o)
     rdy o b = true ∧ seqTest o 9 b = none) ∧
    (let o := opn .kvReserve (.kvReserve 9 20) id
     let b := modSeqn 9 (fun s => { s with state := .active, ctx := 1, mslot := 1, pool := 2 }) (withPool o)
     rdy o b = true ∧ seqTest o 9 b = none ∧ (takeFor 9 20 b).isSome = true ∧ (takeFor 9 200 b).isNone = true) := by decide +kernel

theorem witness_KeyAndTranscriptPackets :
    (let o := opn .collective (.collective 0 0 0 0 64 0 4096) id
     let b := withOp o
     rdy o b = true ∧ (collArgs o).map (·.count) = some 64 ∧ (mosOf b o.slot).collCtx = o.ctx) ∧
    (let o := opn .collective (.collective 0 0 0 3 64 0 4096) id
     rdy o (withOp o) = true ∧ 0 < (mosOf (withOp o) o.slot).members.length) ∧
    (let o := opn .keyBind (.keyBind false 3 4096 4096) id
     let b := withOp o
     let b : Block := { b with sec := { b.sec with slots := [(3, { state := .loaded, ctx := 1, key := [], salt := [] })] } }
     rdy o b = true ∧ domOn b 4 = true ∧ (keyOf b 3).state = .loaded ∧ bindOverlaps b o.ctx 4096 4096 = false
       ∧ (b.sec.bindings.filter (·.handle == 3)).length < 8) ∧
    (rdy (opn .rngSeed (.rngSeed 7) id) (withOp (opn .rngSeed (.rngSeed 7) id)) = true) ∧
    (let o := opn .transcriptMark (.transcriptMark 4 64) id
     let b := withOp o
     let b : Block := { b with sec := { b.sec with marks := [(1, (List.replicate 48 1, 2))] } }
     rdy o b = true ∧ b.sec.marks.any (·.1 == o.oid) = true ∧ tget ([], 0) b.sec.marks o.oid = (List.replicate 48 1, 2)
       ∧ sealedTouch b o.ctx 64 64 = false ∧ (markWrites o (ddPortOf b o.slot) 64 [0, 0, 0, 0, 0, 0, 2, 4] b).isSome = true) ∧
    (let f : FoldRec := { kind := 1, ranks := 1, body := [1], mark := none }
     let b : Block := { up with sec := { up.sec with folds := [(1, [f])] } }
     let b := later b
     serving b = true ∧ 1 < nContexts b ∧ tget [] b.sec.folds 1 = [f] ∧ domOn b 4 = true ∧ f.cyc ≠ hubNow b) := by decide +kernel

/-! ### Witnesses: dispatch, passes, tile programs, lanes and ports -/

/-- A resident program with the access words `a` and the execute words `x` and one region of four 64 KiB tiles. -/
def progOfWords (a x : List Nat) : Prog :=
  let hdr := [64, 8 * a.length, 64 + 8 * a.length, 8 * x.length, 64 + 8 * a.length + 8 * x.length, 1 + 2 * 256] ++ List.replicate 10 0
  let l := (hdr.flatMap (fun w => leBytes w 4)) ++ ((a ++ x).flatMap (fun w => leBytes w 8)) ++ leBytes (256 * 65536 + 4 * 2 ^ 32) 8
  { ctx := 1, addr := 0, len := l.length, chunks := [(0, .bytes l)], nextOff := l.length, out := 0, resident := true, stale := false, lastUse := 0
    gen := 0 }

/-- The bank of a LAUNCH piece of role `r` on lane 1. -/
def bank1 (r : Role) (len : Nat) : Bank :=
  { oid := 1, ctx := 1, q := 6, slot := 1, mosaic := 7, epoch := 0, turn := 0, role := r, chunk := none, bricks := 1, brickLen := 0
    launch := { lb 0 0 4 with progLen := len }
    lanes := [(1, { oid := 1, role := r, tile := 0, brick := 0, node := 0, slotL := 0, slotR := 0 })], ready := true, gen := none }

/-- The released LAUNCH that those pieces belong to. -/
def launchOp : Op := opn .launch (.launch (lb 0 0 4)) (fun o => { o with stage := .released })

/-- Sequencer 0 runs a program pass of role `r` with the words given, changed by `f`. -/
def runs (r : Role) (a x : List Nat) (f : Pass → Pass) (g : Bank → Bank) : Block :=
  let p := progOfWords a x
  modSeqr 0 (fun s => { s with active := some (g (bank1 r p.len)), progs := [p], pass := some (f (passZero .program 0)) }) (withOp launchOp)

/-- The next instruction of that pass is `w` and may issue. -/
def iready (r : Role) (exe : Bool) (w : Nat) (f : Pass → Pass) (g : Bank → Bank) (t : View → Bool) : Bool :=
  let b := runs r [w] [w] f g
  match viewOf b 0 with
  | some v => instrReady b 0 exe v w && t v
  | none => false

/-- An entry of queue 0 with handle 0, ready for lane 1 and memory. -/
def q0 (p : Pass) : Pass := { p with qs := [(0, [{ eid := 0, handle := 0, r := 255, m := 255, wait := 0 }])] }

/-- The major opcode `m` in its place. -/
def maj (m : Nat) : Nat := m * 2 ^ 58

/-- Slot 1 plays a board of one square that context 1 owns, and the launch's job is `j`. -/
def plays (j : Job) : Block :=
  let b := modSch 1 (fun s => { s with running := true, loaded := true, board := [0x80010001] }) (withOp launchOp)
  { b with dsp := { b.dsp with jobs := [j] } }

/-- That launch's job, of four whole pieces. -/
def job4 : Job :=
  { oid := 1, chunks := false, total := 4, bricks := 1, brickLen := 0, next := 0, back := [], tiles := [], done := 0, faulted := [], aborted := false }

theorem witness_PassLifetime :
    (let b := plays job4
     serving b = true ∧ b.pwr.emerg.active = false ∧ b.pwr.dvfs.hold = false
       ∧ (byRelease (allOffers b)).findSome? (fun o => placeReady o b) = none
       ∧ ((allOffers b).findSome? (fun o => placeNext o b)).isSome = true
       ∧ serving { b with pwr := { b.pwr with dvfs := { b.pwr.dvfs with hold := true } } } = true) ∧
    (let b := plays { job4 with
       total := 2, bricks := 2, next := 2
       tiles := [{ t := 0, all := [3, 4], free := [4], slotOf := [(0, 3)], vals := [(0, 2)], low := 2, above := [], busy := [], epi := false }] }
     ((byRelease (allOffers b)).findSome? (fun o => placeReady o b)).isSome = true) ∧
    (let p := progOfWords [maj 0x3F] [maj 0x3F]
     let b := modSeqr 0 (fun s => { s with shadow := some (bank1 .whole p.len), progs := [p] }) (withOp launchOp)
     serving b = true ∧ (seqrOf b 0).active = none ∧ (seqrOf b 0).shadow = some (bank1 .whole p.len)
       ∧ bankRuns (seqrOf b 0) (bank1 .whole p.len) = true) ∧
    (let b := runs .whole [maj 0x3F] [maj 0x3F] (fun p => { p with ended := true }) id
     let k := bank1 .whole (progOfWords [maj 0x3F] [maj 0x3F]).len
     let b := modSeqr 0 (fun s => { s with shadow := some k }) b
     (seqrOf b 0).pass.map (·.ended) = some true ∧ (seqrOf b 0).shadow = some k ∧ bankRuns (seqrOf b 0) k = true) ∧
    (let b := modSeqr 0 (fun s => { s with active := some (bank1 .whole 80) }) (withOp launchOp)
     (seqrOf b 0).active = some (bank1 .whole 80) ∧ (seqrOf b 0).pass = none ∧ (seqrOf b 0).shadow = none) ∧
    (let b := runs .whole [maj 0x3F] [maj 0x3F] (fun p => { p with acc := { p.acc with ended := true }, exe := { p.exe with ended := true } }) id
     serving b = true ∧ (seqrOf b 0).pass.map (fun p => p.kind == .program && p.acc.ended && p.exe.ended && p.rem.isNone && !p.ended
         && p.fail.isNone && !p.abort) = some true
       ∧ passTags (seqrOf b 0) = 0 ∧ (seqrOf b 0).active.map (lanesDone (seqrOf b 0)) = some true) ∧
    (let r : PassReport := { bank := bank1 .whole 80, lanes := [], fail := none, abort := false }
     let b := modSeqr 0 (fun s => { s with reports := [r] }) (runs .whole [maj 0x3F] [maj 0x3F] (fun p => { p with ended := true }) id)
     serving b = true ∧ (seqrOf b 0).reports = [r] ∧ (seqrOf b 0).pass.map (·.ended) = some true ∧ r.bank.chunk = none) ∧
    (let b := runs .whole [maj 0x07] [maj 0x07] (fun p => { p with jam := 16 }) id
     (viewOf b 0).map (fun v => decide (16 ≤ v.pass.jam) && jammed b v) = some true) := by decide +kernel

theorem witness_FixedPasses :
    (let b := modSeqr 0 (fun s => { s with active := some (bank1 .combine 64), pass := some (passZero .combine 0) }) (withOp launchOp)
     serving b = true ∧ (seqrOf b 0).active.isSome = true ∧ (seqrOf b 0).pass.map (·.kind) = some .combine) ∧
    (let o := opn .copy (.copy 64 4096 8192) (fun o => { o with stage := .released })
     let k : Bank := { bank1 .whole 64 with chunk := some (0, 0, 64), lanes := [] }
     let b := modSeqr 0 (fun s => { s with active := some k, pass := some (passZero .chunk 0) }) (withOp o)
     serving b = true ∧ (seqrOf b 0).pass.map (fun p => p.kind == .chunk && tget 0 p.cstep 0 == 0) = some true ∧ opOf b k.oid = some o
       ∧ (chunkBody o 0 64).map (fun x => x.2.2.2.all (fun r => !sealedTouch b k.ctx r.1 r.2)) = some true ∧ bwOpen b k.slot = true
       ∧ (ddIssue 0 (.chunk k.oid) (passDesc b k 3 0 0 none false [0, 0, 0, 0, 64]) b).isSome = true) ∧
    (let b := modSeqr 0 (fun s => { s with shadow := some (bank1 .whole 64) }) (withOp launchOp)
     serving b = true ∧ (seqrOf b 0).progs.any (bankProg (bank1 .whole 64)) = false ∧ (makeRoom (ceilDiv 64 4096) 1 (seqrOf b 0)).isSome = true) := by
  decide +kernel

theorem witness_ScalarInstructions :
    iready .whole false (maj 0x01 + 5) id id (fun _ => true) = true
      ∧ iready .whole true (maj 0x01 + 2 ^ 24 - 1) id id (fun v => openCount v.pass.exe * (2 ^ 24 - 1) ≤ 2 ^ 48) = true
      ∧ iready .whole false (maj 0x02) (fun p => { p with acc := { p.acc with levels := [{ total := 5, saved := [], back := 0 }] } }) id
          (fun v => v.pass.acc.levels.getLast?.any (fun l => decide (tget 0 v.pass.acc.c 0 + 1 < l.total))) = true
      ∧ iready .whole false (maj 0x02) (fun p => { p with acc := { p.acc with levels := [{ total := 1, saved := [], back := 0 }] } }) id
          (fun v => v.pass.acc.levels.getLast?.any (fun l => decide (l.total ≤ tget 0 v.pass.acc.c 0 + 1))) = true
      ∧ iready .whole false (maj 0x04 + 7) id id (fun _ => true) = true ∧ iready .whole true (maj 0x05) id id (fun _ => true) = true
      ∧ iready .whole false (maj 0x06) id id (fun v => !rdpAbsent v.bank 0) = true
      ∧ iready .whole false (maj 0x07) q0 id (fun _ => true) = true ∧ iready .whole true (maj 0x3E) id id (fun _ => true) = true
      ∧ iready .whole false (maj 0x3F) id id (fun _ => true) = true := by decide +kernel

theorem witness_QueueAndShapeInstructions :
    iready .whole false (maj 0x03 + 1) id id (fun _ => true) = true ∧ iready .whole false (maj 0x0A) id id (fun v =>
        (lanesOf v.bank).all (fun l => sReg v.pass.acc l 0 == sReg v.pass.acc (lowLane v.bank) 0)) = true
      ∧ iready .whole false (maj 0x0B) id id (fun _ => true) = true ∧ iready .whole false (maj 0x0F) id id (fun _ => true) = true
      ∧ iready .whole true (maj 0x11) id id (fun _ => true) = true
      ∧ iready .whole true (maj 0x13) (fun p => { p with sq := [(1, [5])] }) id (fun _ => true) = true := by decide +kernel

theorem witness_TransferInstructions :
    iready .whole false (maj 0x08) id id (fun v => v.pass.rem.isNone) = true
      ∧ iready .whole false (maj 0x09) q0 id (fun v => (queueQ v.pass 0).length == 1) = true
      ∧ iready .epilogue false (maj 0x0C) id id (fun v => v.pass.rem.isNone) = true
      ∧ iready .partialR false (maj 0x0D) q0 id (fun v => v.pass.rem.isNone) = true
      ∧ iready .whole false (maj 0x0E) id id (fun v => v.pass.rem.isNone) = true
      ∧ iready .whole true (maj 0x10 + 5 * 2 ^ 53 + 2 ^ 38 + 2 ^ 14 + 2 ^ 13) (fun p => { q0 p with ts := { p.ts with valid := true, tm := 8, tn := 8, tk := 8 } }) id
          (fun v => let t := topOf (maj 0x10 + 5 * 2 ^ 53 + 2 ^ 38 + 2 ^ 14 + 2 ^ 13)
            match popAll v.bank (topPops t v.pass.ts) v.pass with
            | .ok (es, _) => topCheck v t (topHandles t v.pass.ts es) == none && t.hint == 0
            | .error _ => false) = true
      ∧ iready .whole true (maj 0x12 + 2 ^ 41) (fun p => { q0 p with ts := { p.ts with valid := true, tm := 1, tn := 8, tk := 8 } }) (fun k => { k with turn := 1 })
          (fun v => match popAll v.bank [0] v.pass with
            | .ok (es, _) => es.length == 1 && (lanesOf v.bank).all (fun l => decide ((sReg v.pass.exe l 0).toNat < 2 ^ 17))
            | .error _ => false) = true := by decide +kernel

theorem witness_LanesAndPorts :
    let o : LaneOp := { data := 0, regions := [], out := none }
    let u : DdUse := { owner := .load 1 0 0 1, key := none, pc := 0, ctx := 1, ast := 5, epoch := 0, addr := 64, data := [] }
    let b := modSeqr 0 (fun s => { s with
      lanes := [(1, { laneZero with buf := [o], out := [(4, o)] })], dd := [(9, some u)], dfReq := some 5 })
      (runs .whole [maj 0x3F] [maj 0x3F] id (fun k => { k with turn := 1 }))
    serving b = true ∧ (laneOf (seqrOf b 0) 1).buf = [o] ∧ (laneOf (seqrOf b 0) 1).abReq = false ∧ (laneOf (seqrOf b 0) 1).out.length < 64
      ∧ (laneOf (seqrOf b 0) 1).out = [((4 : BitVec 8).toNat, o)] ∧ (laneOf (seqrOf b 0) 2).out = []
      ∧ tget none (seqrOf b 0).dd 9 = some u ∧ u.owner.ofPass = true ∧ (seqrOf b 0).dfReq = some 5
      ∧ (seqrOf b 0).active.map (fun k => k.turn == 1 && k.lanes.any (·.1 == 1)) = some true ∧ (seqrOf b 0).pass.map (·.ended) = some false
      ∧ (seqrOf (runs .whole [maj 0x3F] [maj 0x3F] id id) 0).active.map (·.turn) = some 0
      ∧ (let c := modLane 0 1 (fun x => { x with abReq := true, abDead := some 0 }) (later b)
         (laneOf (seqrOf c 0) 1).abReq = true ∧ (laneOf (seqrOf c 0) 1).expired = false ∧ (laneOf (seqrOf c 0) 1).abDead = some 0 ∧ 0 < hubNow c)
      ∧ seqUp b 0 = true ∧ serving (atDom 5 .ret b) = true ∧ seqUp (atDom 5 .ret b) 0 = false := by
  decide +kernel

/-! ### Witnesses: turns and the schedule -/

/-- A turn in flight, its instance 1 complete. -/
def turn1 : Turn :=
  { num := 0, final := false, rows := [], inst := 1, published := true, instDone := true, arrived := [], subToks := 0, fwdGot := 0
    fwdOwn := 0, arriveSent := false, buf := [], idx := none, skey := none }

/-- The instance of `turn1`. -/
def inst1 : Inst :=
  { id := 1, oid := 9, q := 6, sid := 1, ctx := 1, slot := 1, bytes := [], key := 0, lch := { launchZero with ended := true } }

/-- A LAUNCH_TURN runs on slot 1, whose loop is changed by `f`. -/
def loops (f : Loop → Loop) : Block :=
  let o := opn .launchTurn (.launchTurn 3 64 0 0 0) (fun o => { o with oid := 9, stage := .released })
  let b := modLoop 1 (fun l => f { l with oid := some 9, left := 3 }) (withPool o)
  { b with bat := { b.bat with insts := [inst1] } }

theorem witness_TurnCommands :
    (let b := loops (fun l => { l with event := true })
     serving b = true ∧ leads b 1 = true ∧ (loopOf b 1).oid.isSome = true ∧ (loopOf b 1).turn = none ∧ (loopOf b 1).event = true
       ∧ (mosOf b 1).held = false ∧ domOn b 2 = true) ∧
    (let b := loops (fun l => { l with turn := some turn1 })
     let b : Block := { b with fab := { b.fab with node := 6 } }
     serving b = true ∧ leads b 1 = false ∧ (loopOf b 1).turn = some turn1 ∧ instComplete b turn1.inst = true ∧ childNodes b 1 = []) ∧
    (let b := loops (fun l => { l with turn := some turn1, dead := some 0 })
     leads b 1 = true ∧ turn1.published = true ∧ childNodes b 1 = [] ∧ turn1.subToks ≤ turn1.fwdGot ∧ turn1.instDone = true ∧ (loopOf b 1).dead = some 0 ∧ (mosOf b 1).held = false
       ∧ 0 < hubNow (later b)) ∧
    tget none { up.hub with writes := [(3, some (.token 1 0))] }.writes (3 % 512) = some (.token 1 0) := by decide +kernel

/-- A sequence of slot 1, pool 2 and context 1, whose ring is enabled with room. -/
def forms (q : Seqn) (pages : Nat) : Forming :=
  let b := modPool 2 (fun p => { p with fresh := p.pages - pages, cached := p.pages }) (withPool launchOp)
  let b : Block := { b with bat := { b.bat with rings := [(1, { ringZero with en := true, log2 := 8 })], seqs := [(9, q)] } }
  { b := b, budget := 512, rows := [], blocked := false, out := [] }

/-- A decoding sequence there, at position 20 with no page. -/
def seq9 (st : SeqState) : Seqn := { seqnZero with state := st, pool := 2, ctx := 1, mslot := 1, maxTok := 9, pos := 20 }

theorem witness_formation :
    (let f := forms (seq9 .active) 8
     let g := modRing 1 (fun r => { r with resv := r.resv + 1 }) f.b
     (ringOf f.b 1).usable = true ∧ 1 ≤ (ringOf f.b 1).room ∧ min ((seqnOf f.b 9).draft + 1) (min ((seqnOf f.b 9).maxTok - 0) (2 ^ 40 - 21)) = 1
       ∧ (takeFor 9 21 g).isSome = true ∧ (takeFor 9 21 (forms (seq9 .active) 0).b).isNone = true
       ∧ (ringOf up 1).usable = false) ∧
    (let f := forms { seq9 .joining with promptLen := 40, pos := 0 } 8
     (loopOf f.b 1).chunk ≠ 0 ∧ (takeFor 9 40 f.b).isSome = true
       ∧ (takeFor 9 40 (forms { seq9 .joining with promptLen := 40, pos := 0 } 0).b).isNone = true) ∧
    (let b := (forms { seq9 .active with retire := true } 8).b
     (b.bat.seqs.filter (fun e => e.2.mslot == 1)).map (·.1) = [9] ∧ (seqnOf b 9).retire = true ∧ (seqnOf b 9).state = .active
       ∧ (poolOf b 2).failed = false ∧ (seqnOf (forms (seq9 .joining) 8).b 9).retire = false) ∧
    (let b := (forms (seq9 .active) 8).b
     (formStep1 1 b).hub.leaseExpired = false
       ∧ (formStep1 1 { b with hub := { b.hub with leaseExpired := true } }).hub.leaseExpired = true
       ∧ (formCont 1 9 (forms (seq9 .active) 0)).blocked = true ∧ (formCont 1 9 (forms (seq9 .active) 8)).blocked = false) := by
  decide +kernel

theorem witness_TokenEndConditions :
    let s : Seqn := { seqnZero with stops := [7], maxTok := 4 }
    let b := modSeqn 9 (fun _ => s) up
    (∀ x ∈ [((0 : Nat), (5 : Nat)), (1, 6)], x.2 ∉ (seqnOf b 9).stops) ∧ (seqnOf b 9).gen + 2 < (seqnOf b 9).maxTok
      ∧ (∀ x ∈ [((0 : Nat), (5 : Nat)), (1, 6)], x.1 ≠ 2 ^ 40 - 1) := by decide +kernel

/-- The released LAUNCH with its packet ATOMIC. -/
def spanLaunch : Op := { launchOp with pkt := { launchOp.pkt with atomic := true } }

theorem witness_ScheduleCommands :
    (let b := plays job4
     let b : Block := { b with time := { b.time with root := 8 * 64 } }
     serving b = true ∧ (schOf b 1).running = true ∧ (schOf b 1).board ≠ [] ∧ (schOf b 1).start + 64 * fld (squareNow b 1) 0 16 ≤ hubNow b) ∧
    (let b := plays job4
     let b : Block := { b with dep := { b.dep with ops := [{ launchOp with q := 7 }] } }
     let b := modSch 1 (fun s => { s with active := [1] }) (modSchCtx 1 (fun r => { r with share := 8 }) b)
     serving b = true ∧ activeNow b 1 = (schOf b 1).active ∧ (schOf b 1).active.find? (fun c => (schCtx b c).share != 0) = some 1
       ∧ (schOf b 1).tenure = none ∧ 0 < deficitOf (addQuantum 1 1 b) 1 1) ∧
    (let s : Span := { q := 6, sid := 1, inst := 0, slot := 1, oid := some 1, sect := none, cyc := 2 ^ 40 }
     let b := plays job4
     let b : Block := { b with sch := { b.sch with spans := [s] }, dep := { b.dep with ops := [spanLaunch] } }
     b.sch.spans.find? (fun s => s.q == 6 && decide (2 ^ (schCtx b (6 / 6)).limLog2 ≤ s.cyc) && !spanOver b s) = some s
       ∧ opOf b 1 = some spanLaunch) ∧
    (let b : Block := { up with time := { up.time with seq := 1024 } }
     serving b = true ∧ max (schOf b 63).refill b.sch.edges < b.time.seq / 1024) ∧
    (let b : Block := { ctx1 with time := { ctx1.time with root := 8 * 2 ^ 20 } }
     (ctxOf b 1).state ≠ .free ∧ updateDue b 1 = true) ∧
    (let b : Block := { up with time := { up.time with root := 192 * 2500000 } }
     serving b = true ∧ b.sch.powDue ≤ refNow b) := by decide +kernel

/-! ### Witnesses: the fabric -/

/-- A message of type `t` from node 6 to node 5 with body `l`, for mosaic 7. -/
def msg (t : Nat) (l : List Byte) : SerdoMsg :=
  { ver := 2, auth := false, typ := t, src := 6, dst := 5, mosaic := 7, hops := 9, epoch := 0, seq := 4, body := l, tag := [] }

/-- Slot 1 has the members 5, this block, and 6; port 0 is up with its HELLO. -/
def pair (n : Nat) : Block :=
  let o : Member := { node := 6, hash := [], idk := [], eph := [], confirmed := false, lost := false, migHeld := false, lastSeq := none }
  let b := modMos 1 (fun m => { m with members := if n = 5 then m.members ++ [o] else o :: m.members }) (slot1 up)
  modPort 0 (fun r => { r with up := true, hello := true }) b

/-- `serdoReady` at port 0 with the fabric changed by `f`, and `t` of the block. -/
def sready (m : SerdoMsg) (f : Fab → Fab) (t : Block → Bool) : Bool :=
  let b := pair 5
  let b : Block := { b with fab := f b.fab }
  serdoReady b 0 m.typ m && t b

/-- `mosaicReady` at port 0 for slot 1 of `b`, and `t` of the block it leaves. -/
def mready (m : SerdoMsg) (b : Block) (t : Block → Bool) : Bool := mosaicReady b 0 m.typ m 1 (mosaicAccept m b).2 && t (mosaicAccept m b).2

theorem witness_LookupsAndPorts :
    (clocked stuck = true ∧ stuck.flt.stale = true) ∧
    (clocked up = true ∧ up.flt.stale = false ∧ up.fab.phase ≠ 8) ∧
    (let b := pair 5
     b.fab.phase = 8 ∧ domOn b 3 = true ∧ epochLive (epochOf b (3 % 4)) 3 = false) ∧
    (released blockReset = false ∧ blockReset.flt.clockLost = false ∧ 0 < nPorts blockReset) ∧
    (let b := modEpoch 0 (fun e => { e with state := .current }) (pair 5)
     epochLive (epochOf b (0 % 4)) 0 = true ∧ (epochOf b 0).state = .current ∧ b.flt.stale = false) ∧
    (let b := pair 5
     running b = true ∧ 1 < nPorts b ∧ domOn b 3 = true ∧ (portOf b 1).up = false ∧ (portOf b 0).up = true ∧ b.fab.withdrawn = false) ∧
    (let b := pair 5
     (portOf { b with fab := { b.fab with withdrawn := true } } 0).up = true ∧ b.fab.phase = 8) ∧
    (let b := modPort 0 (fun r => { r with named := true, peerNode := 6 }) (pair 5)
     let r := requestChange 0 (modPort 0 (fun r => { r with up := false, hello := false, named := false }) b)
     (portOf b 0).up = true ∧ (portOf b 0).hello = true ∧ (portOf b 0).named = true ∧ b.fab.withdrawn = false ∧ b.fab.phase = 8
       ∧ ∀ q ∈ List.range (nPorts r), (portOf r q).up = true → (portOf r q).hello = true → (portOf r q).peerNode ≠ 6) := by decide +kernel

theorem witness_LookupsAndPorts_messages :
    (let b := pair 5
     let m : SerdoMsg := { msg 0x28 [] with dst := 9 }
     let r := modEpoch 0 (fun e => { e with routes := [(9, 32768 + 3)] }) b
     forMe b m = false ∧ { m with err := true }.err = true ∧ m.err = false ∧ { m with hops := 0 }.hops = 0 ∧ m.mosaic ≠ 0
       ∧ mosPort b m.dst = none ∧ nodePort b m.dst = none ∧ m.hops ≠ 0 ∧ nodePort r m.dst = some 3
       ∧ 7 ≤ b.pwr.step ∧ domOn b 3 = true ∧ running b = true ∧ { m with ver := 1 }.ver = 1 ∧ forMe b { m with ver := 1 } = false
       ∧ m.ver ≠ 1 ∧ { m with mosaic := 0 }.mosaic = 0 ∧ listedType m.typ = true) ∧
    (forMe (pair 5) (msg 0x7F []) = true ∧ listedType 0x7F = false ∧ (msg 0x7F []).err = false ∧ (msg 0x7F []).hops ≠ 0
      ∧ 7 ≤ (pair 5).pwr.step ∧ domOn (pair 5) 3 = true ∧ (msg 0x7F []).ver ≠ 1 ∧ { msg 0x30 [] with ver := 1 }.ver = 1) ∧
    (let b := atDom 3 .ret (pair 5)
     running b = true ∧ domOn b 3 = false ∧ (msg 0x01 []).ver = 2 ∧ (msg 0x01 []).err = false
       ∧ ceilDiv (32 + (msg 0x01 []).body.length + (msg 0x01 []).tag.length) 32 ≤ 64 - b.fab.heldBeats
       ∧ (let full : Block := { b with fab := { b.fab with heldBeats := 64 } }
          64 - full.fab.heldBeats < ceilDiv (32 + (msg 0x01 []).body.length) 32)) ∧
    (let x : Mig := { slot := 1, src := 1, dstNode := 5, dstChan := 2, phase := 4, pass := 0, dirty := 0, pos := 0, gran := 0, left := 0, out := 0, olds := [] }
     let b : Block := { up with fab := { up.fab with mig := some x } }
     running b = true ∧ b.fab.mig = some x ∧ x.src < nChannels b ∧ x.phase ≤ 4) := by decide +kernel

theorem witness_LookupsAndPorts_tables :
    (let b := { pair 5 with pwr := { (pair 5).pwr with img := { (pair 5).pwr.img with recovery := true } } }
     clocked b = true ∧ b.flt.stale = false ∧ b.pwr.img.recovery = true) ∧
    (let b := modEpoch 1 (fun e => { e with state := .prepared, tag := 1 }) (modEpoch 0 (fun e => { e with state := .current }) (pair 5))
     epochLive (epochOf b (1 % 4)) 1 = true ∧ (epochOf b 1).state = .prepared ∧ b.fab.phase = 8 ∧ domOn b 3 = true
       ∧ b.pwr.img.recovery = false) ∧
    (let b := modEpoch 1 (fun e => { e with state := .draining, tag := 1 })
       (modEpoch 0 (fun e => { e with state := .current, routes := [(6, 32768 + 3)], masks := [(1, 8)] }) (pair 5))
     let a (n t : Nat) := lookupAnswer b (epochOf b t) n 2 7
     epochLive (epochOf b (1 % 4)) 1 = true ∧ (epochOf b 1).state = .draining ∧ a 5 1 = a 5 0 ∧ a 6 1 ≠ a 6 0
       ∧ tget none (epochOf b 0).redirects 2 = none ∧ b.fab.node = 5 ∧ 2 < nChannels b ∧ 6 ≠ b.fab.node
       ∧ bitOf (tget 0 (epochOf b 0).routes 6) 15 = true ∧ bitOf (tget 0 (epochOf b 1).routes 6) 15 = false ∧ slotOfId b 7 = some 1
       ∧ fld (tget 0 (epochOf b 0).routes 6) 0 7 = 3 ∧ bitOf (tget 0 (epochOf b 0).masks 1) 3 = true) := by decide +kernel

/-- A change of tag 1 that awaits node 6. -/
def chg (l : List Nat) : Change := { tag := 1, edits := [], awaited := l, switched := false }

theorem witness_EpochCommands :
    sready (msg 0x18 [1]) id (fun _ => true) = true ∧
    sready (msg 0x19 [1]) (fun f => { f with isRoot := true, change := some (chg [6, 7]) }) (fun b => b.fab.isRoot && b.fab.change == some (chg [6, 7])
      && (chg [6, 7]).awaited.filter (fun x => x != 6 && !b.fab.downs.contains x) != []) = true ∧
    sready (msg 0x19 [1]) (fun f => { f with isRoot := true, change := some (chg [6]) }) (fun b =>
      (chg [6]).awaited.filter (fun x => x != 6 && !b.fab.downs.contains x) == []) = true ∧
    sready (msg 0x1A [1]) id (fun _ => true) = true ∧
    (let b : Block := { up with fab := { up.fab with swAt := some (0, 1) } }
     running b = true ∧ b.fab.swAt = some (0, 1) ∧ 0 ≤ b.time.seq) ∧
    (let b := modEpoch 2 (fun e => { e with state := .draining, tag := 2 }) (pair 5)
     (epochOf b 2).state = .draining ∧ tagInUse b (epochOf b 2).tag = false ∧ b.fab.isRoot = false
       ∧ (∀ x ∈ [(8 : BitVec 4), 3], x.getLsbD 2 = false) ∧ (4 : BitVec 4) ∈ [(4 : BitVec 4), 3] ∧ (4 : BitVec 4).getLsbD 2 = true) ∧
    (chg [6]).tag = 1 ∧ (chg [6]).switched = false ∧
    sready (msg 0x1B [1]) (fun f => { f with isRoot := true, drains := [(1, [5, 6])] }) (fun b =>
      !(b.fab.drains.map (fun d => if d.1 == 1 then (d.1, d.2.filter (· != 6)) else d)).any (fun d => d.1 == 1 && d.2.isEmpty)) = true ∧
    sready (msg 0x1C [1]) (fun f => { f with epochs := [(1, { epochZero with state := .drained, tag := 1 })] }) (fun b =>
      (epochOf b (1 % 4)).tag == 1 && (epochOf b (1 % 4)).state == .drained) = true ∧
    sready (msg 0x08 [3, 0]) (fun f => { f with isRoot := true }) (fun b => b.fab.isRoot && !bitOf (bodyNat (msg 0x08 [3, 0]) 1 1) 0) = true := by decide +kernel

theorem witness_DiscoveryMessages :
    sready (msg 0x01 (List.replicate 32 0)) (fun f => { f with phase := 1 }) (fun b => b.fab.phase == 1 && !b.fab.withdrawn && bodyNat (msg 0x01 (List.replicate 32 0)) 22 1 == 0) = true ∧
    sready (msg 0x01 (List.replicate 22 0 ++ [1, 9, 0] ++ List.replicate 8 0)) (fun f => { f with phase := 1 }) (fun b =>
      b.fab.phase == 1 && !b.fab.withdrawn && bodyNat (msg 0x01 (List.replicate 22 0 ++ [1, 9, 0] ++ List.replicate 8 0)) 22 1 == 1) = true ∧
    sready (msg 0x04 (leBytes 9 2)) (fun f => { f with phase := 4, joining := true }) (fun b =>
      !b.fab.electing && b.fab.phase == 4 && b.fab.joining && bodyNat (msg 0x04 (leBytes 9 2)) 5 1 != 3) = true ∧
    sready (msg 0x04 (leBytes 9 2)) (fun f => { f with relays := [(0, 3)] }) (fun b =>
      !b.fab.electing && b.fab.phase == 8 && b.fab.relays.find? (fun x => x.1 == 0) == some (0, 3)) = true ∧
    (let e := { electReset with parent := some 2, children := [{ port := 0, size := 3, ready := true }, { port := 1, size := 2, ready := false }] }
     let b : Block := { up with fab := { up.fab with phase := 7, elect := e, ports := [(1, { portZero with peerSerial := 77 })], dups := [(77, true)] } }
     b.fab.elect.told = false ∧ b.fab.elect.parent = some 2 ∧ b.fab.elect.children = [{ port := 0, size := 3, ready := true }, { port := 1, size := 2, ready := false }]
       ∧ b.fab.dups.map (·.1) = [(portOf b 1).peerSerial] ∧ (portOf b 0).peerSerial ≠ 77) ∧
    sready (msg 0x02 (leBytes 5 16)) (fun f => { f with phase := 3, elect := { f.elect with best := 9 } }) (fun b => b.fab.phase == 3 && !b.fab.electing && !b.fab.withdrawn
      && decide (bodyNat (msg 0x02 (leBytes 5 16)) 0 16 < b.fab.elect.best)) = true ∧
    sready (msg 0x02 (leBytes 5 16)) (fun f => { f with phase := 3, elect := { f.elect with best := 5, pend := [0] } }) (fun b =>
      bodyNat (msg 0x02 (leBytes 5 16)) 0 16 == b.fab.elect.best && b.fab.elect.pend.contains 0) = true ∧
    sready (msg 0x02 (leBytes 5 16)) (fun f => { f with phase := 3, elect := { f.elect with best := 3 } }) (fun b => decide (b.fab.elect.best < 5)) = true ∧
    sready (msg 0x03 (leBytes 5 16 ++ [1])) (fun f => { f with elect := { f.elect with best := 5, pend := [0] } }) (fun b =>
      bodyNat (msg 0x03 (leBytes 5 16 ++ [1])) 0 16 == b.fab.elect.best && b.fab.elect.pend.contains 0 && bitOf (bodyNat (msg 0x03 (leBytes 5 16 ++ [1])) 16 1) 0) = true ∧
    sready (msg 0x04 (leBytes 9 2)) (fun f => { f with phase := 4, elect := { f.elect with parent := some 0 } }) (fun b =>
      !b.fab.electing && b.fab.phase == 4 && !b.fab.joining && b.fab.elect.parent == some 0) = true ∧
    sready (msg 0x05 (leBytes 9 2 ++ leBytes 77 8 ++ [0, 0])) (fun f => { f with phase := 5 }) (fun b => let m := msg 0x05 (leBytes 9 2 ++ leBytes 77 8 ++ [0, 0])
      b.fab.phase == 5 && !b.fab.withdrawn && bodyNat m 0 2 != b.fab.node && bodyNat m 10 1 == 0 && tget mapZero b.fab.map (bodyNat m 0 2) == mapZero && bodyNat m 2 8 != 0) = true ∧
    sready (msg 0x06 (leBytes 3 4)) (fun f => { f with phase := 6, elect := { f.elect with children := [{ port := 0, size := 3, ready := false }] } }) (fun b =>
      b.fab.elect.children.any (·.port == 0) && decide (5 ≤ b.fab.phase) && decide (b.fab.phase ≤ 7)) = true ∧
    sready (msg 0x07 []) (fun f => { f with phase := 7, elect := { f.elect with parent := some 0 } }) (fun b => b.fab.phase == 7 && b.fab.elect.parent == some 0) = true ∧
    sready (msg 0x09 (leBytes 6 2 ++ [0])) (fun f => { f with downs := [6] }) (fun b => b.fab.phase == 8 && b.fab.downs.contains 6) = true ∧
    sready (msg 0x0A (leBytes 77 16 ++ leBytes (32768 + 9) 2)) (fun f => { f with isRoot := true }) (fun b => let m := msg 0x0A (leBytes 77 16 ++ leBytes (32768 + 9) 2)
      b.fab.isRoot && b.fab.phase == 8 && bitOf (bodyNat m 16 2) 15 && !(liveNodes b).contains (fld (bodyNat m 16 2) 0 14)) = true ∧
    sready (msg 0x0A (leBytes 77 16 ++ leBytes (32768 + 5) 2)) (fun f => { f with isRoot := true, map := [(5, { mapZero with live := true })] }) (fun b =>
      (liveNodes b).contains 5) = true := by decide +kernel

theorem witness_DiscoveryTimers :
    (let b : Block := { later up with fab := { up.fab with phase := 1, trainDead := some 0 } }
     running b = true ∧ b.fab.trainDead = some 0 ∧ 0 < hubNow b ∧ upPorts b = []) ∧
    (let b := pair 5
     let b : Block := { b with fab := { b.fab with phase := 2, helloDead := some 0 } }
     running b = true ∧ b.fab.helloDead = some 0 ∧ upPorts b ≠ [] ∧ 0 < hubNow (later b)) ∧
    (let b : Block := { up with fab := { up.fab with phase := 7, waveDead := some 0 } }
     running b = true ∧ 0 < hubNow (later b) ∧ b.fab.waveDead = some 0 ∧ b.fab.electing = false ∧ 2 ≤ b.fab.phase ∧ b.fab.phase ≤ 7) ∧
    (let b : Block := { up with fab := { up.fab with fruDead := some 5, cmisLeft := [0], phase := 1 } }
     running b = true ∧ b.fab.fruDead = some 5 ∧ b.fab.cmisLeft ≠ [] ∧ b.fab.phase ≠ 0
       ∧ 5 < mgtNow (later b)) ∧
    (let b : Block := { up with fab := { up.fab with phase := 1, cmisDead := [(0, some 5)], cmisLeft := [0] } }
     running b = true ∧ 0 < nPorts b ∧ tget none b.fab.cmisDead 0 = some 5 ∧ b.fab.phase ≠ 0
       ∧ 5 < mgtNow (later b)) ∧
    (sumZero [1, 0, 0, 0, 0, 0, 0, 0] = false) := by decide +kernel

theorem witness_MosaicMessages :
    (slotOfId (pair 5) 7 = some 1 ∧ (mosOf (pair 5) 1).members.find? (·.node == 9) = none ∧ leads (pair 5) 1 = true
      ∧ (mosOf (pair 5) 1).state = .ready ∧ leads (pair 6) 1 = false ∧ (msg 0x10 []).ver = 2) ∧
    (let b := modMos 1 (fun m => { m with key := List.replicate 32 1 }) (pair 5)
     let m : SerdoMsg := { msg 0x28 [] with auth := true, tag := List.replicate 16 0 }
     ((mosOf b 1).members.find? (·.node == m.src)).isSome = true ∧ (mosOf b 1).key ≠ [] ∧ tagOk (mosOf b 1) m = false) ∧
    (let b := modMos 1 (fun m => { m with key := List.replicate 32 1 }) (pair 5)
     (msg 0x28 []).auth = false ∧ (mosOf b 1).key ≠ [] ∧ (mosOf b 1).state ≠ .keying) ∧
    (let k : List Byte := List.replicate 32 1
     let b := modMos 1 (fun m => { m with key := k, members := m.members.map (fun x => { x with lastSeq := some 9 }) }) (pair 5)
     let m : SerdoMsg := { msg 0x28 [] with auth := true }
     let m : SerdoMsg := { m with tag := serdoTag k m }
     tagOk (mosOf b 1) m = true ∧ m.seq ≤ 9 ∧ (mosOf b 1).members.find? (·.node == m.src) ≠ none) ∧
    mready (msg 0x10 (List.replicate 97 1)) (pair 5) (fun b => leads b 1) = true ∧
    mready (msg 0x11 [0]) (modMos 1 (fun m => { m with state := .created }) (pair 5)) (fun b => (mosOf b 1).state == .created
      && (mosOf b 1).members.any (fun x => x.node == 6 && !x.lost)) = true ∧
    mready (msg 0x12 (List.replicate 400 0)) (modMos 1 (fun m => { m with state := .joining }) (pair 6)) (fun b => (mosOf b 1).state == .joining
      && !leads b 1 && leaderOf b 1 == 6) = true ∧
    mready (msg 0x13 (leBytes 4 4)) (modMos 1 (fun m => { m with state := .keying, newKey := [1], newGen := 4 }) (pair 5)) (fun b => leads b 1
      && (mosOf b 1).state == .keying && (mosOf b 1).newKey != [] && (mosOf b 1).newGen == 4) = true ∧
    mready (msg 0x13 (leBytes 5 4)) (modMos 1 (fun m => { m with state := .keying, newKey := [1], newGen := 4 }) (pair 5)) (fun b => leads b 1
      && (mosOf b 1).state == .keying && bodyNat (msg 0x13 (leBytes 5 4)) 0 4 != (mosOf b 1).newGen) = true ∧
    mready (msg 0x14 (List.replicate 8 0)) (modMos 1 (fun m => { m with state := .keying }) (pair 6)) (fun b => !leads b 1 && leaderOf b 1 == 6
      && (mosOf b 1).state == .keying) = true ∧
    mready (msg 0x20 []) (modSeqr 0 (fun s => { s with active := some (bank1 .whole 64) }) (pair 5)) (fun b => !noPasses b 1) = true ∧
    mready (msg 0x21 []) (pair 5) (fun _ => true) = true ∧ mready (msg 0x22 []) (pair 5) (fun _ => true) = true := by decide +kernel

theorem witness_TurnAndFlagMessages :
    mready (msg 0x28 (leBytes 0 8 ++ leBytes 1 8 ++ [0])) (pair 6) (fun b => domOn b 2 && !leads b 1) = true ∧
    mready (msg 0x28 (leBytes 4 8 ++ leBytes 4 8 ++ [0])) (modLoop 1 (fun l => { l with oid := some 9 }) (pair 6)) (fun b => domOn b 2
      && !leads b 1 && (loopOf (sendDown 0x28 [] 1 b) 1).oid == some 9) = true ∧
    (let o : Member := { node := 6, hash := [], idk := [], eph := [], confirmed := false, lost := false, migHeld := false, lastSeq := none }
     let b := modMos 1 (fun m => { m with members := m.members ++ [o] }) (loops (fun l => { l with turn := some turn1 }))
     mready (msg 0x29 (leBytes 0 8 ++ leBytes 3 4)) b (fun b => domOn b 2 && (loopOf b 1).turn == some turn1 && turn1.num == 0
       && (childNodes b 1).contains 6 && !turn1.arrived.contains 6) = true) ∧
    mready (msg 0x2A (leBytes 0 8 ++ [0x54])) (modLoop 1 (fun l => { l with turn := some turn1 }) (pair 6)) (fun b => (loopOf b 1).turn == some turn1
      && turn1.num == 0 && !leads b 1 && domOn b 2) = true ∧
    mready (msg 0x2B (List.replicate 16 0)) (pair 5) (fun b => domOn b 2 && leads b 1) = true ∧
    mready (msg 0x30 (List.replicate 24 0)) (pair 5) (fun b => !(tget pageZero b.dep.pages 0).remote) = true ∧
    (let b := pair 5
     let b : Block := { b with dep := { b.dep with pages := [(0, { slot := 1, detect := false, remote := true })] } }
     mready (msg 0x30 (List.replicate 24 0)) b (fun b => (tget pageZero b.dep.pages 0).remote && (tget pageZero b.dep.pages 0).slot == 1) = true) ∧
    (let x : RemoteSig := { node := 6, mos := 1, rel := 3, oid := 1 }
     let b := pair 5
     let b : Block := { b with dep := { b.dep with remote := [x] } }
     mready (msg 0x31 (leBytes 3 4 ++ [0])) b (fun b => b.dep.remote.find? (fun r => r.mos == 1 && r.node == 6 && r.rel == 3) == some x) = true) ∧
    mready (msg 0x38 (List.replicate 24 0)) (pair 5) (fun b => b.fab.colls.isEmpty && !collPast b 1 0) = true ∧
    mready (msg 0x38 (List.replicate 24 0)) (modMos 1 (fun m => { m with coll := 1 }) (pair 5)) (fun b => b.fab.colls.isEmpty && collPast b 1 0) = true ∧
    (let o := opn .collective (.collective 0 0 0 0 64 0 4096) (fun o => { o with stage := .released })
     let c : Coll := { slot := 1, n := 0, oid := 1, chunk := 0, slots := [], cover := 1, phase := 0, todo := [], busy := 0, move := none
                       out := 0, loaded := false, stored := false }
     let b := pair 5
     let b : Block := { b with dep := { b.dep with ops := [o] }, fab := { b.fab with colls := [c] } }
     mready (msg 0x38 (List.replicate 24 0)) b (fun b => b.fab.colls.find? (fun c => c.slot == 1 && c.n == 0) == some c
       && collLive b c.oid && ((opOf b c.oid).bind collArgs).isSome) = true) := by decide +kernel

/-! ### Witnesses: security and faults -/

/-- A sideband operation `o` for the use `u`, issued to instance 3. -/
def job (o : KsOp) (u : KsUse) : KsJob := { op := o, handle := 3, args := [], insts := [3], issued := true, dead := 0, use := u }

/-- The context 1 block with SEC changed by `f`. -/
def secUp (f : Sec → Sec) : Block := { ctx1 with sec := f ctx1.sec }

/-- A request of operation `o` on `tr_` for the use `u`. -/
def trq (o : Nat) (u : TrUse) : TrReq := { op := o, ast := 5, dead := 0, use := u, expired := false }

/-- A teardown of context 1 in step `n`. -/
def tear (n : Nat) : Teardown :=
  { ctx := 1, step := n, adm := 0, start := 0, dead := if n = 3 then 2 ^ 20 else 0, scrubEnd := 0, slots := [1], deferred := false }

theorem witness_SidebandCommands :
    (let b := later (secUp (fun s => { s with jobs := [job .suspend (.revokeStep 3)] }))
     running b = true ∧ ksInst b 3 = true ∧ b.sec.jobs.find? (fun j => j.issued && j.insts.contains 3) = some (job .suspend (.revokeStep 3))
       ∧ (job .suspend (.revokeStep 3)).insts.filter (· != 3) = [] ∧ ({ job .suspend (.revokeStep 3) with insts := [3, 4] }.insts.filter (· != 3)) ≠ []
       ∧ b.sec.jobs.find? (fun j => j.issued && j.insts.contains 4) = none ∧ (job .suspend (.revokeStep 3)).dead < hubNow b) ∧
    (admOf (taken (ent 0x20 []) up) 0).isSome = true ∧
    (let r : Revoke := { handle := 3, step := 2, adm := 0, dead := 0 }
     (secUp (fun s => { s with revokes := [r] })).sec.revokes.find? (·.handle == 3) = some r) ∧
    (let b := secUp (fun s => { s with tds := [tear 3], tdLink := 2 })
     running b = true ∧ 1 < nPorts b ∧ b.sec.tds = [tear 3] ∧ (tear 3).step = 3 ∧ bitOf b.sec.tdLink 1 = true) ∧
    (let b := later (secUp (fun s => { s with tr := some (trq 1 (.create 2 0)) }))
     running b = true ∧ b.sec.tr = some (trq 1 (.create 2 0)) ∧ (trq 1 (.create 2 0)).expired = false ∧ (trq 1 (.create 2 0)).dead < hubNow b) ∧
    (let b := secUp (fun s => { s with tr := some (trq 0 .teardown), tds := [tear 4] })
     b.sec.tr = some (trq 0 .teardown) ∧ b.sec.tds = [tear 4]) := by decide +kernel

theorem witness_TeardownSteps :
    (∀ n ∈ [0, 1, 2, 4, 5, 6], let b := secUp (fun s => { s with tds := [tear n] })
      serving b = true ∧ { tear 4 with dead := 5 }.dead ≠ 0 ∧ b.sec.tds = [tear n] ∧ b.sec.jobs = [] ∧ b.seq.seqrs = [] ∧ b.sec.tr = none ∧ (tear n).scrubEnd ≤ hubNow b) ∧
    drained (secUp (fun s => { s with tds := [tear 3] })) (tear 3) = true ∧
    (let t : Teardown := { tear 3 with dead := 0 }
     let b := later (secUp (fun s => { s with tds := [t], tdDd := 1 }))
     serving b = true ∧ t.dead < hubNow b ∧ drained b t = false
       ∧ (startPart 1 0x1C none none (report (uccReport 0x1C 5 1 .stateLost 0) { b with sec := { b.sec with tdTimeout := true } })).flt.stale = false) ∧
    (let r : Revoke := { handle := 3, step := 3, adm := 0, dead := 0 }
     let b := later (secUp (fun s => { s with revokes := [r] }))
     serving b = true ∧ b.sec.tds = [] ∧ b.sec.revokes = [r] ∧ r.dead < hubNow b) := by decide +kernel

theorem witness_FaultCommands :
    (stuck.flt.stale = true ∧ stuck.flt.forcing = 0) ∧
    (let b : Block := { later up with flt := { up.flt with srcs := [(9, { srcZero with active := true })] } }
     b.flt.stale = false ∧ b.flt.forcing = 0 ∧ (tget srcZero b.flt.srcs 9).active = true ∧ (tget srcZero b.flt.srcs 9).cls = .ce
       ∧ clocked b = true ∧ (tget srcZero b.flt.srcs 9).dead < hubNow b) ∧
    (up.flt.ceIrq = false ∧ up.flt.sumCe = false ∧ { up.flt with ceIrq := true }.ceIrq = true) ∧
    ((uccReport 0x15 3 6 .hang 0).cls = .ucc ∧ (ceReport 0x1A).cls = .ce ∧ (ftlReport 0x22).cls = .ftl ∧ (uccReport 0x15 3 6 .hang 0).forced = false ∧ (tget srcZero up.flt.srcs 0x15).active = false) ∧
    (let s := subm (subEnt [(3, 2 ^ 27), (8, 3)]) (fun s => { s with phase := .checked, started := true, wait0 := .waiting 0 })
     let b := withSub s id
     let b : Block := { b with flt := { b.flt with wdEn := true, wd := [(6, 2 ^ 40)] } }
     serving b = true ∧ owes b 6 = true ∧ 2 ^ b.flt.wdLog2 < tget 0 b.flt.wd 6 ∧ inlineWaits s = true
       ∧ (queueOf b 6).subs.find? (fun s => s.fail.isNone && (inlineWaits s || (opsOfSub b s.sid).any Op.live)) = some s
       ∧ wcdFound b = none) ∧
    (let o := opn .waitFlag (.waitFlag false 3 0 1 0) (fun o => { o with stage := .released })
     let b := modQueue 6 (fun r => { r with subs := r.subs.map (fun s => { s with ent := { s.ent with sig := true, sigFlag := 3 } }) }) (withOp o)
     let w : WcdFirst := { d := [6], flags := [3], deadline := 0, changed := false, second := some 0 }
     let b : Block := later { b with
       dep := { b.dep with wcdEnable := true, pages := [(0, { slot := 0, detect := true, remote := false })], first := some w }
       flt := { b.flt with wdEn := true, wd := [(6, 2 ^ 40)] } }
     serving b = true ∧ owes b 6 = true ∧ 2 ^ b.flt.wdLog2 < tget 0 b.flt.wd 6 ∧ wcdFound b = some [6]) ∧
    (∀ n ∈ [1, 2, 3, 4, 5, 6],
      let p : PartRst := { step := n, src := 0, cause := none, adms := [], lanes := [], ranges := [], out := 0 }
      let b : Block := { up with flt := { up.flt with parts := [(1, some p)] } }
      serving b = true ∧ tget none b.flt.parts 1 = some p ∧ noPasses b 1 = true) ∧
    (let b : Block := { later up with flt := { up.flt with leaseDead := some 0 } }
     running b = true ∧ b.flt.leaseDead = some 0 ∧ 0 < refNow b ∧ b.bat.loops = []) := by decide +kernel

theorem witness_ClockAndTest :
    released up = true ∧ up.flt.clockLost = false ∧ up.pwr.step = 9 ∧ up.flt.stale = false ∧ up.fuses.testLock = false ∧ 3 ≤ up.pwr.step
      ∧ { fusesReset with testLock := true }.testLock = true
      ∧ released { up with flt := { up.flt with clockLost := true } } = true := by decide +kernel

/-! ### Witnesses: power -/

/-- The block with the DVFS sequencer in phase `p`, changed by `f`. -/
def dv (p : DvfsPhase) (f : Dvfs → Dvfs) : Block := modDvfs (fun d => f { d with phase := p }) up

theorem witness_DomainsAndDvfs :
    (let b := atDom 2 .leaving up
     released b = true ∧ 2 < 5 + nSeqrs b / 8 ∧ (domOf b 2).st = .leaving ∧ b.pwr.step ≠ 3 ∧ b.flt.stale = false ∧ b.flt.clockLost = false
       ∧ (domOf (modDom 2 (fun m => { m with fromOff := true }) b) 2).fromOff = true) ∧
    (let b := atDom 2 .leaving stuck
     released b = true ∧ (domOf b 2).st = .leaving ∧ b.flt.stale = true) ∧
    (let b := atDom 2 .leaving (inStep 3)
     released b = true ∧ (domOf b 2).st = .leaving ∧ b.pwr.step = 3) ∧
    (let b := later (modDom 2 (fun m => { m with idleEn := true, idleAt := some 0, idle := 0 }) up)
     (domOf b 2).st = .on ∧ (domOf b 2).idleEn = true ∧ (domOf b 2).idleAt = some 0 ∧ 0 + (domOf b 2).idle < refNow b
       ∧ refuser b 2 (domOf b 2).idleOff none = 0) ∧
    (let b := modDom 3 (fun m => { m with idleEn := true, idleAt := some 0, idle := 0 }) up
     (domOf b 3).st = .on ∧ refuser b 3 (domOf b 3).idleOff none ≠ 0) ∧
    (let b := modDom 2 (fun m => { m with st := .entering, entStep := 1 }) up
     running b = true ∧ (domOf b 2).st = .entering ∧ (domOf b 2).entStep < 2 ∧ refuser b 2 (domOf b 2).entOff (domOf b 2).entAdm = 0
       ∧ refNow b ≤ (domOf b 2).entAt + (domOf b 2).entStep
       ∧ (domOf (later b) 2).entAt + (domOf (later b) 2).entStep < refNow (later b)) ∧
    (let b := modDom 2 (fun m => { m with st := .entering, entStep := 1 })
       { up with bat := { up.bat with loops := [(1, { loopOf up 1 with oid := some 1 })] } }
     running b = true ∧ (domOf b 2).st = .entering ∧ (domOf b 2).entStep < 2 ∧ refuser b 2 (domOf b 2).entOff (domOf b 2).entAdm ≠ 0) ∧
    (let b := later (modDom 2 (fun m => { m with st := .entering, entStep := 2 }) up)
     running b = true ∧ (domOf b 2).st = .entering ∧ (domOf b 2).entStep = 2 ∧ (domOf b 2).entAt + 4 < refNow b) ∧
    ((dv .upWrite id).pwr.dvfs.phase = .upWrite ∧ (dv .downWrite id).pwr.dvfs.phase = .downWrite ∧ (dv .emergWrite id).pwr.dvfs.phase = .emergWrite
      ∧ released (dv .upWrite id) = true) ∧
    (let b := later (dv .upPoll (fun d => { d with seqVolt := 700, seqStep := up.time.divStep, dead := some 0 }))
     b.pwr.dvfs.phase = .upPoll ∧ 689 + 10 < b.pwr.dvfs.seqVolt ∧ b.pwr.dvfs.seqVolt ≤ 690 + 10 ∧ b.time.divStep = b.pwr.dvfs.seqStep
       ∧ b.pwr.dvfs.dead = some 0 ∧ 0 < refNow b ∧ b.pwr.dvfs.adm = none ∧ b.pwr.dvfs.defers = []) ∧
    (let b := dv .downPoll (fun d => { d with seqVolt := 700 })
     b.pwr.dvfs.phase = .downPoll ∧ b.pwr.dvfs.seqVolt ≤ 710 + 10 ∧ 710 ≤ b.pwr.dvfs.seqVolt + 10) ∧
    ((dv .upDiv id).pwr.dvfs.phase = .upDiv ∧ (dv .downDiv id).pwr.dvfs.phase = .downDiv ∧ (dv .emergDiv id).pwr.dvfs.phase = .emergDiv) ∧
    (let b := taken (ent 0x31 []) (dv .upDiv (fun d => { d with adm := some 0 }))
     b.pwr.dvfs.adm = some 0 ∧ b.pwr.dvfs.defers = [] ∧ (admOf b 0).map (·.replied) = some false) := by decide +kernel

theorem witness_PowerAndEmergency :
    (let b := modImg (fun i => { i with active := some img0 }) { up with time := { up.time with root := 192 * 25000 } }
     released b = true ∧ b.pwr.img.active = some img0 ∧ 7 ≤ b.pwr.step ∧ b.pwr.sampleDue ≤ refNow b ∧ domOn b 1 = true) ∧
    (let b : Block := { up with time := { up.time with divStep := 0 } }
     let c := 1000 * ceilingW b
     c < c + 1 ∧ b.time.divStep < 4 ∧ b.pwr.emerg.active = false ∧ b.pwr.dvfs.phase = .idle ∧ 0 ≤ c ∧ b.pwr.dvfs.lows < 15
       ∧ b.time.divStep ≤ b.pwr.dvfs.target) ∧
    (4 ≤ ({ up with time := { up.time with divStep := 4 } } : Block).time.divStep) ∧
    (let b : Block := { dv .idle (fun d => { d with lows := 15, target := 1 }) with time := { up.time with divStep := 2 } }
     0 ≤ 1000 * ceilingW b ∧ 16 * 0 ≤ 15 * (1000 * ceilingW b) ∧ 15 ≤ b.pwr.dvfs.lows ∧ b.pwr.dvfs.target < b.time.divStep
       ∧ b.pwr.emerg.active = false ∧ b.pwr.dvfs.phase = .idle ∧ (dv .upPoll id).pwr.dvfs.phase ≠ .idle) ∧
    (let b := dv .idle (fun d => { d with wrote := 700 })
     1 < 2 ∧ b.pwr.dvfs.wrote < 750 ∧ 650 ≤ b.pwr.dvfs.wrote ∧ b.time.divStep = up.time.divStep) ∧
    (let b : Block := { up with time := { up.time with divStep := 0 } }
     released b = true ∧ b.pwr.emerg.active = false ∧ b.pwr.dvfs.adm = none ∧ b.time.divStep ≠ 4
       ∧ (modDvfs (fun d => { d with adm := some 0 }) b).pwr.dvfs.adm = some 0) ∧
    (let b : Block := { dv .downDiv id with time := { up.time with divStep := 4 } }
     released b = true ∧ b.pwr.emerg.active = false ∧ b.pwr.dvfs.adm = none ∧ b.time.divStep = 4 ∧ b.pwr.dvfs.phase = .downDiv
       ∧ (dv .idle id).pwr.dvfs.phase ≠ .downDiv) ∧
    (let b : Block := { later up with pwr := { up.pwr with emerg := { up.pwr.emerg with active := true, clearDead := some 0 } } }
     released b = true ∧ b.pwr.emerg.active = true ∧ b.pwr.emerg.alert = false ∧ b.pwr.emerg.trip = false ∧ b.pwr.emerg.clearDead = some 0
       ∧ 0 < refNow b) ∧
    ({ up.pwr.emerg with alert := true }.alert = true) := by decide +kernel

/-! ### Witnesses: the machine as a whole -/

theorem witness_StepRunsFront :
    unitExists up.fuses.config .bypass = true ∧ unitExists up.fuses.config (.checkPass 4000) = false
      ∧ serving up = true ∧ serving (domCycles (passTime (noteWaits up))) = true
      ∧ serving blockReset = false ∧ serving (domCycles (passTime blockReset)) = false ∧ blockReset.flt.clockLost = false
      ∧ ({ up with flt := { up.flt with clockLost := true } } : Block).flt.clockLost = true := by decide +kernel

theorem witness_EndingQuiet : quiet blockReset = true := by decide +kernel

/-- `stuck` with the queue `cs`. -/
def stuckS (cs : List Instr) : State := { toBlock := stuck, pending := cs }

theorem witness_StalemateExits :
    (stuckS [.porNAssert]).flt.stale = true ∧ leavesStalemate (stuckS [.porNAssert]) = true
      ∧ leavesStalemate (stuckS [.hrstNAssert 2]) = true ∧ leavesStalemate (stuckS [.hrstNAssert 1]) = false
      ∧ leavesStalemate (stuckS []) = false ∧ (stuckS []).flt.fatalPin = true
      ∧ (match step (stuckS [.porNAssert]) with | .next _ => true | _ => false) = true
      ∧ (match step (stuckS [.hrstNAssert 1]) with | .next _ => true | _ => false) = true := by decide +kernel

theorem witness_StalemateLocked :
    (stuckS []).flt.stale = true ∧ keysGone (stuckS []).toBlock = true
      ∧ (match step (stuckS []) with | .next _ => true | _ => false) = true := by decide +kernel

theorem witness_StalemateEntered : up.flt.stale = false ∧ stuck.flt.stale = true := by decide +kernel

/-! ### The spec's own worked examples -/

/-- 32-bit words, least significant byte first. -/
def wordBytes (l : List Nat) : List Byte := (l.map (fun w => leBytes w 4)).flatten

/-- 03_command_packets.md, "a buffer patched by the list and by a flag": the LAUNCH at 0x20, as written by the host. -/
def exLaunch : List Byte := wordBytes
  [0x00001202, 0x00000201, 0x00000001, 0, 0x00000211, 0x00002710, 4, 8, 0x00600000, 0x00007F40, 0x00001000, 0,
   0, 0, 0x01400000, 0, 0, 0, 0, 0, 0, 0, 0, 0]

/-- The example's patch list. -/
def exPatches : List Patch :=
  [⟨0x50, 8, 0x00007F4000500000⟩, ⟨0x60, 4, 0x40⟩, ⟨0x98, 8, 1⟩]

/-- The LAUNCH after the patch list, as the example's table has it. -/
theorem test_patchList : applyPatches 0x20 exPatches exLaunch = wordBytes
    [0x00001202, 0x00000201, 0x00000001, 0, 0x00000211, 0x00002710, 4, 8, 0x00600000, 0x00007F40, 0x00001000, 0,
     0x00500000, 0x00007F40, 0x01400000, 0, 0x40, 0, 0, 0, 0, 0, 0, 0] := by decide +kernel

/-- The patched LAUNCH passes the check pass after tag 0, of a context with one member. -/
theorem test_launchPasses : (let p := applyPatches 0x20 exPatches exLaunch
    (headerCheck false 0x20 0xC0 p, (packetOf p).map (fun k => bodyCheck k p 0x20 0xC0 16384 1 false false none)))
    = (none, some none) := by decide +kernel

/-- The example's LAUNCH reads as opcode 0x02, 3 bricks and work of 96. -/
theorem test_launchWork : (packetOf exLaunch).map (fun k => match k.body with
    | .launch l => (k.len, bricksOf l, workOf l)
    | _ => (0, 0, 0)) = some (2, 3, 96) := by decide +kernel

/-- The pending target 0x64 lies wholly in ARG1, which may be patched; one that reaches the GRID may not. -/
theorem test_targetInArg : (packetOf exLaunch).map (fun k => (badTarget k 0x20 [(0, 0x64, 4)], badTarget k 0x20 [(0, 0x38, 4)]))
    = some (none, some 0) := by decide +kernel

/-- Record 0 naming OFFSET 0x20 instead makes the packet 512 bytes long: step 4 fails with BAD_LENGTH. -/
theorem test_launchTooLong : headerCheck false 0x20 0xC0 (applyPatches 0x20 [⟨0x20, 8, 0x0000020100001F02⟩] exLaunch)
    = some .badLength := by decide +kernel

/-- 02_submission.md, "a patch record past the buffer": the entry at ring index 17. -/
def exEntry : List Byte := wordBytes
  [0x00000A2C, 0x03020000, 0x60, 3, 0x00123400, 0x00007F40, 0x00123800, 0x00007F40, 0, 0, 0, 0, 0, 0, 0, 0]

theorem test_entryFields : (let e := entryOf true exEntry
    [e.seqno, e.complete.toNat, e.irq.toNat, e.ifrev, e.cbLen, e.cbAddr, e.patchCount, e.patchAddr])
    = [0x0A2C, 1, 1, 2, 96, 0x00007F4000123400, 3, 0x00007F4000123800] := by decide +kernel

/-- Records 0 and 1: the second ends past a buffer of 96 bytes. -/
theorem test_patchPastBuffer : patchCheck 0 96 (wordBytes [0x10, 3, 0x00500000, 0x00007F40]) = none
    ∧ patchCheck 0x10 96 (wordBytes [0x60, 2, 0x40, 0]) = some .badExtent := by decide +kernel

/-- The record that the example writes for it, HEAD having moved past index 17, on queue 45. -/
theorem test_failedRecord : recordBytes { queueZero with head := 18, cqPhase := true } 45
    { newSub 1 17 (.bytes exEntry) (entryOf true exEntry) with fail := some { status := .badExtent, kind := 2, detail := 1 } }
    = wordBytes [0x00000A2C, 0x05140000, 0x002D0012, 0x00000001] := by decide +kernel

/-- A failed submission with IRQ raises the context's error vector and no completion vector (R63). -/
theorem test_failedVector :
    (let b := failSub 6 1 { status := .badExtent, kind := 2, detail := 1 }
       (modQueue 6 (fun r => { r with subs := [newSub 1 0 (.bytes exEntry) (entryOf true exEntry)] }) ctx1)
     (b.out, (completionRecord 6 b).out.head?, ((completionRecord 6 b).out.length)))
    = ([], some (.msix 7), 2) := by decide +kernel

/-- 09_mosaics.md, "an OEM record": VALID, PINNED, PIN_NODE 0x0123, slot 7, 900 W, a cold plate. -/
theorem test_oemRecord : fruOf ([0x01, 0, 0, 0, 0, 1, 0, 0xFE, 0xC0, 0x82, 0x16, 0x84, 0x24, 0xD1, 0x5E, 0x0A, 0x48, 0x01,
      0x23, 0x81, 0x07, 0x00, 0x17, 0x09, 0xA2, 0xC3, 0x41, 0x00, 0x00, 0x00, 0x84, 0x03, 0x02, 0x00, 0x00])
    = { valid := true, pinned := true, pin := 0x0123, cooling := 2, power := 900, slot := 7, serial := 0x00000041C3A20917 } := by
  decide +kernel

/-! 08_batching.md, "a join, a leave and a park at exhaustion": mosaic slot 3 of one chip, its only pool 0 of 64 KiB pages. -/

/-- A sequence of that pool with `d` data pages and one map page. -/
def exSeq (st : SeqState) (prio draft pos prompt d : Nat) : Seqn :=
  { seqnZero with
    state := st, prio := prio, draft := draft, ctx := 1, mslot := 3, pos := pos, promptLen := prompt, maxTok := 1000
    pages := if d = 0 then 0 else d + 1, dataPg := List.replicate d 0, mapPg := if d = 0 then [] else [[0]] }

/-- The state after the commit of turn 40. -/
def exBatch : Block :=
  { up with
    fab := { up.fab with
      phase := 8, node := 5
      slots := [(3, { mosZero with
        state := .ready, id := 7, ctxs := 2
        members := [{ node := 5, hash := [], idk := [], eph := [], confirmed := true, lost := false, migHeld := false, lastSeq := none }] })] }
    bat := { up.bat with
      pools := [(0, { poolZero with
        cfgd := true, slot := 3, ctx := 1, pageLog2 := 16, pageTok := 16, pages := 60, stack := List.range 28, fresh := 60, cached := 60 })]
      rings := [(1, { ringZero with en := true, log2 := 8 })]
      loops := [(3, { loopZero with n := 40, oid := some 9, left := 9 })]
      seqs := [(5, exSeq .active 1 0 47 10 3), (9, exSeq .active 2 3 62 10 4)
        , (12, { exSeq .ended 1 0 30 10 2 with reason := Status.stopToken.code }), (20, exSeq .active 0 0 256 600 16)
        , (31, { exSeq .joining 3 0 0 100 0 with order := 1 }), (33, { exSeq .joining 0 0 0 40 0 with order := 2 })] } }

/-- The formation of turn 41. -/
def ex41 : Forming := formTurn 3 exBatch

/-- The pages of pool 0 that are free. -/
def exFree (b : Block) : Nat := (poolOf b 0).free

theorem test_turn41 : (ex41.rows.map (fun r => (r.seq, r.toks)), ex41.budget, ex41.out, exFree ex41.b
      , (seqnOf ex41.b 12).state, [5, 9, 20, 31, 33].map (fun i => (seqnOf ex41.b i).pages))
    = ([(9, 4), (5, 1), (20, 256), (31, 100), (33, 40)], 111, [], 2, .free, [4, 6, 33, 8, 4]) := by decide +kernel

/-- The rows of turn 41 with the tokens that came for them. -/
def exRows : List TurnRow := (sortRows ex41.rows).map (fun r => { r with got :=
  if r.seq = 9 then [(0, 100), (1, 101), (2, 0x2A1F)] else if r.seq = 20 then [] else [(0, 102)] })

/-- After the commit of turn 41. -/
def ex41c : Block := modLoop 3 (fun l => { l with n := 41 }) (commitRows 41 exRows [] ex41.b).2

theorem test_commit41 : ([5, 9, 20, 31, 33].map (fun i => (seqnOf ex41c i).pos)
      , ((ringOf ex41c 1).recs.find? (fun r => r.2.1.take 4 == leBytes 0x2A1F 4)).map (·.2.1), (ringOf ex41c 1).recs.length)
    = ([48, 65, 512, 100, 40], some (wordBytes [0x00002A1F, 0x00000041, 0x00A08009, 0x00002900]), 6) := by decide +kernel

/-- The formation of turn 42. -/
def ex42 : Forming := formTurn 3 ex41c

theorem test_turn42 : (sortRows ex42.rows).map (·.seq) = [5, 9, 31, 33] ∧ (seqnOf ex42.b 20).state = .parked ∧ (seqnOf ex42.b 20).pages = 33
    ∧ (seqnOf ex42.b 20).pos = 512 ∧ exFree ex42.b = 1 ∧ ex42.blocked = true
    ∧ (ringOf ex42.b 1).recs.getLast?.map (·.2.1) = some (wordBytes [0xFFFFFFFF, 0x00000200, 0x32800014, 0x00002A00]) := by
  decide +kernel

/-- 15_registers.md, "reading the capability word in stalemate": QCP-16K answers 0x9102_0004_0204_0000 at 0x10, and the error
response at 0x0020_0000 and at the reserved 0x00C0_0000. -/
theorem test_capabilityWord : (let b := { stuck with fuses := { stuck.fuses with config := .qcp16k } }
    let answer (a : Nat) : Option Output := (acceptRead false (BitVec.ofNat 24 a) false 1 b).out.head?
    (answer 0x10, answer 0x200000, answer 0xC00000))
    = (some (.mmioResp 1 0x9102000402040000 false), some (.mmioResp 1 0 true), some (.mmioResp 1 0 true)) := by
  decide +kernel

/-! Known answers of the standards the spec names: FIPS 180-4 SHA-384 of "abc" and FIPS 197 C.3 (AES-256). -/

theorem test_sha384 : sha384 [0x61, 0x62, 0x63]
    = beBytes 0xcb00753f45a35e8bb5a03d699ac65007272c32ab0eded1631a8b605a43ff5bed8086072ba1e7cc2358baeca134c825a7 48 := by
  decide +kernel

theorem test_aes256 : aesEncrypt ((List.range 32).map (BitVec.ofNat 8)) ((List.range 16).map (fun i => BitVec.ofNat 8 (i * 17)))
    = beBytes 0x8ea2b7ca516745bfeafc49904b496089 16 := by decide +kernel

/-! ### Well-formed commands: one ill-formed term for each check -/

/-- A message whose fields all fit. -/
def fits : SerdoMsg :=
  { ver := 2, auth := false, typ := 1, src := 0, dst := 0, mosaic := 0, hops := 1, epoch := 0, seq := 0, body := [], tag := [] }

theorem test_wf_accepts : wellFormed .qcp4k (.hello 23 fits) = true ∧ wellFormed .qcp4k (.nop ⟨383, false, 0⟩) = true := by
  decide +kernel
theorem test_wf_entryIndex : wellFormed .qcp4k (.identify 1024) = false ∧ wellFormed .qcp4k (.deferredFinalReply 1024) = false := by
  decide +kernel
theorem test_wf_queue : wellFormed .qcp4k (.checkPass 384) = false ∧ wellFormed .qcp8k (.checkPass 384) = true := by
  decide +kernel
theorem test_wf_packet : wellFormed .qcp4k (.copyPkt ⟨384, false, 0⟩) = false := by decide +kernel
theorem test_wf_context : wellFormed .qcp4k (.fold 64) = false ∧ wellFormed .qcp4k (.updatePoint 64) = false := by decide +kernel
theorem test_wf_sequencer : wellFormed .qcp4k (.passEnd 16) = false ∧ wellFormed .qcp4k (.loopI 16 .access) = false := by
  decide +kernel
theorem test_wf_lane : wellFormed .qcp4k (.laneAbortAck 0 8) = false ∧ wellFormed .qcp4k (.laneAbortAck 16 0) = false := by
  decide +kernel
theorem test_wf_tag : wellFormed .qcp4k (.ddCompletion 0 256 0) = false ∧ wellFormed .qcp4k (.mempollResponse 0 256 0 0) = false := by
  decide +kernel
theorem test_wf_slot : wellFormed .qcp4k (.commit 64) = false ∧ wellFormed .qcp4k (.partResetStep 64) = false := by decide +kernel
theorem test_wf_port : wellFormed .qcp4k (.hello 24 fits) = false ∧ wellFormed .qcp4k (.ksDrainAck 24) = false
    ∧ wellFormed .qcp4k (.routeLookup 24 0 0 0 0) = false := by decide +kernel
theorem test_wf_channel : wellFormed .qcp4k (.writeTrackReport 16 0) = false := by decide +kernel
theorem test_wf_flag : wellFormed .qcp4k (.waitComplete 65536) = false := by decide +kernel
theorem test_wf_domain : wellFormed .qcp4k (.pgoodRise 0) = false ∧ wellFormed .qcp4k (.pgoodRise 7) = false := by decide +kernel
theorem test_wf_source : wellFormed .qcp4k (.quietPeriodExpiry 64) = false := by decide +kernel
theorem test_wf_sideband : wellFormed .qcp4k (.ksDrop 16) = false ∧ wellFormed .qcp4k (.ksDrop 88) = false
    ∧ wellFormed .qcp4k (.ksDrop 87) = true := by decide +kernel
theorem test_wf_messageHeader :
    wellFormed .qcp4k (.hello 0 { fits with ver := 16 }) = false ∧ wellFormed .qcp4k (.hello 0 { fits with typ := 256 }) = false
    ∧ wellFormed .qcp4k (.hello 0 { fits with src := 2 ^ 14 }) = false ∧ wellFormed .qcp4k (.hello 0 { fits with dst := 2 ^ 14 }) = false
    ∧ wellFormed .qcp4k (.hello 0 { fits with mosaic := 2 ^ 16 }) = false
    ∧ wellFormed .qcp4k (.hello 0 { fits with hops := 256 }) = false := by decide +kernel
theorem test_wf_messageRest :
    wellFormed .qcp4k (.hello 0 { fits with epoch := 8 }) = false ∧ wellFormed .qcp4k (.hello 0 { fits with seq := 2 ^ 64 }) = false
    ∧ wellFormed .qcp4k (.hello 0 { fits with body := List.replicate 465 0 }) = false
    ∧ wellFormed .qcp4k (.hello 0 { fits with ver := 1, body := List.replicate 241 0 }) = false
    ∧ wellFormed .qcp4k (.hello 0 { fits with ver := 1, body := List.replicate 240 0 }) = true := by decide +kernel

/-- No row of the table carries bits, so no word spells a command. -/
theorem test_decodeNothing : decodeTableWord 64 0x1202 = none := by decide

end Sys2Proof.Tests
end

/-! ### What a step does -/

namespace Sys2Proof.Machine

variable {b : Block} {c : Instr} {cs : List Instr} {s t : State}

/-- Every command is an effect on the block alone, which its unit carries out or, absent, does not: so each row of `exec` is
written, and each case holds as it stands there. -/
theorem exec_eq_atUnit_effect (c : Instr) :
    ∃ f : Block → Block, ∀ s : State, exec c s = atUnit (unitExists s.fuses.config c) (effect f s) := by
  cases c <;> exact ⟨_, fun _ => rfl⟩

theorem atUnit_absent {ok : Bool} {o : Host.Outcome State Fault Refusal} (h : ok = false) :
    atUnit ok o = .fault .absentUnit := by
  simp [atUnit, h]

theorem exec_of_unitExists (cs : List Instr) (h : unitExists b.fuses.config c = true) :
    ∃ b' : Block, exec c ⟨b, cs⟩ = .next ⟨b', cs⟩ := by
  obtain ⟨f, hf⟩ := exec_eq_atUnit_effect c
  exact ⟨ending (f b), (hf ⟨b, cs⟩).trans (atUnit_eq h)⟩

theorem exec_of_not_unitExists (cs : List Instr) (h : unitExists b.fuses.config c = false) :
    exec c ⟨b, cs⟩ = .fault .absentUnit := by
  obtain ⟨f, hf⟩ := exec_eq_atUnit_effect c
  exact (hf ⟨b, cs⟩).trans (atUnit_absent h)

theorem pending_of_exec_next (h : exec c s = .next t) : t.pending = s.pending := by
  obtain ⟨b, cs⟩ := s
  cases hu : unitExists b.fuses.config c with
  | false =>
    rw [exec_of_not_unitExists cs hu] at h
    cases h
  | true =>
    obtain ⟨b', hb⟩ := exec_of_unitExists cs hu
    rw [hb] at h
    cases h
    rfl

theorem step_nil (b : Block) : step ⟨b, []⟩ = .next ⟨tick b, []⟩ := rfl

theorem step_cons (b : Block) (c : Instr) (cs : List Instr) : step ⟨b, c :: cs⟩ = exec c ⟨b, cs⟩ := rfl

theorem pending_of_step_next (h : step s = .next t) : t.pending = s.pending.tail := by
  obtain ⟨b, cs⟩ := s
  cases cs with
  | nil =>
    rw [step_nil] at h
    cases h
    rfl
  | cons c cs =>
    rw [step_cons] at h
    exact pending_of_exec_next h

/-! ### The passing of a cycle -/

theorem passTime_clocked (h : b.flt.clockLost = false) :
    passTime b = { b with time := { b.time with
      root := b.time.root + 8, seq := b.time.seq + (edgesNext b.time).1, oldStep := (edgesNext b.time).2, notes := [] } } := by
  simp [passTime, h]

theorem passTime_clockLost (h : b.flt.clockLost = true) :
    passTime b = { b with time := { b.time with lost := b.time.lost + 8 } } := by
  simp [passTime, h]

theorem tick_of_not_serving (h : serving b = false) (h' : serving (domCycles (passTime b)) = false) :
    tick b = ending (domCycles (passTime b)) := by
  simp [tick, h, h']

theorem tick_of_serving (h : serving b = true) (h' : serving (domCycles (passTime (noteWaits b))) = true) :
    tick b = ending (workCycle (edgesNext b.time).1 (domCycles (passTime (noteWaits b)))) := by
  simp [tick, h, h']

end Sys2Proof.Machine

/-! ### The effect of a full register write -/

namespace Sys2Proof.Machine

variable {b : Block} {cs : List Instr} {a : MmioWrite}

theorem bitOf_toNat {w : Nat} (x : BitVec w) (i : Nat) : bitOf x.toNat i = x.getLsbD i := by
  rw [BitVec.getLsbD, Nat.testBit_eq_decide_div_mod_eq]
  rfl

/-- The row of a register's own does with a full write that reaches the register what the register does with the value. -/
theorem effect_regRow_full {r : Reg} {p : Reg → Bool} (h : reaches b a r = true) (hf : a.be = 0xFF) (hp : p r = true) :
    effect (regRow p a) ⟨b, cs⟩ = afterAccess (regWrite r a.data.toNat b) cs := by
  rw [effect_eq, regRow_full h hf hp, afterAccess_eq]

/-- The two forms of a SEQ_PCACHE_INV write are one selection of contexts (R177). -/
theorem regWrite_seqPcacheInv (x : W64) (b : Block) :
    regWrite .seqPcacheInv x.toNat b = invalidate (fun c => x.getLsbD 8 || c == x.toNat % 256) b := by
  change (if bitOf x.toNat 8 then invalidate (fun _ => true) b else invalidate (· == fld x.toNat 0 8) b) = _
  rw [bitOf_toNat]
  cases x.getLsbD 8 with
  | true => simp
  | false => simp [fld]

/-- A ring of a size that R259 allows is enabled empty, or disabled with its contents. -/
theorem regWrite_batCtxTrCfg (c : Nat) (x : W64) (b : Block) (hlo : 4 ≤ x.toNat / 256 % 32) (hhi : x.toNat / 256 % 32 ≤ 20) :
    regWrite (.batCtxTrCfg c) x.toNat b =
      if x.getLsbD 0 then leaveOfCtx c (noteCycle (.trCfg c) (modRing c (fun r => { r with
        log2 := x.toNat / 256 % 32, en := true, head := 0, tail := 0, phase := true, undel := false, recs := [] }) b))
      else noteCycle (.trCfg c) (modRing c (fun r => { r with log2 := x.toNat / 256 % 32, en := false }) b) := by
  change writeTrCfg c x.toNat b = _
  have hsize : fld x.toNat 8 5 = x.toNat / 256 % 32 := rfl
  have hin : ¬(x.toNat / 256 % 32 < 4 ∨ 20 < x.toNat / 256 % 32) := by omega
  simp only [writeTrCfg, hsize, if_neg hin, bitOf_toNat]

theorem regWrite_batCtxTrHead (c : Nat) (x : W64) (b : Block) :
    regWrite (.batCtxTrHead c) x.toNat b =
      if 2 ^ (ringOf b c).log2 ≤ x.toNat % 2 ^ 20 then b
      else leaveOfCtx c (noteCycle (.trHead c) (modRing c (fun r => { r with head := x.toNat % 2 ^ 20 }) b)) := by
  change writeTrHead c x.toNat b = _
  have hhead : fld x.toNat 0 20 = x.toNat % 2 ^ 20 := by simp [fld]
  simp only [writeTrHead, hhead]

/-- FAB_ID_CFG with RESCAN set and no rescan under way puts every port in the rescan and starts the buses (R310). -/
theorem regWrite_fabIdCfg_rescan (x : W64) (b : Block) (hgo : x.getLsbD 8 = true) (hidle : b.fab.rescan = []) :
    regWrite .fabIdCfg x.toNat b = startModules { b with fab := { b.fab with
      idMode := x.toNat % 256, rescan := List.range (nPorts b) } } := by
  change writeIdCfg x.toNat b = _
  have hmode : fld x.toNat 0 8 = x.toNat % 256 := by simp [fld]
  simp only [writeIdCfg, bitOf_toNat, hgo, hmode, if_true, rescanStart, hidle, List.isEmpty_nil]
  rfl

end Sys2Proof.Machine

/-! ### The statements of the whole machine and of the registers that act -/

namespace Sys2Proof.Machine

/-- Settles O56: every command is an effect on the block at its unit, and none touches the queue. -/
theorem stepRunsFront : Obligations.StepRunsFront := by
  unfold Obligations.StepRunsFront
  refine ⟨step_cons, fun _ _ => pending_of_step_next, ?carried, fun _ _ cs h => exec_of_not_unitExists cs h, step_nil,
    fun _ => tick_of_not_serving, fun _ => tick_of_serving, ?clocked, ?lost⟩
  case carried =>
    intro b c cs h
    obtain ⟨b', hb⟩ := exec_of_unitExists cs h
    exact ⟨⟨b', cs⟩, hb, rfl⟩
  case clocked =>
    intro b h
    rw [passTime_clocked h]
    exact ⟨rfl, rfl, rfl, rfl⟩
  case lost =>
    intro b h
    rw [passTime_clockLost h]
    exact ⟨rfl, rfl, rfl⟩

/-- Settles O9, register by register: what its row does with a full write, then what the register does with the value. -/
theorem registerActions : Obligations.RegisterActions := by
  unfold Obligations.RegisterActions
  refine ⟨?coreFailed, ?pcache, ?ringConfig, ?ringHead, ?rescan⟩
  case coreFailed =>
    intro b cs a i h hf
    have row : exec (.dspCoreFailed a) ⟨b, cs⟩ = afterAccess (regWrite (.dspCoreFailed i) a.data.toNat b) cs :=
      effect_regRow_full h hf rfl
    exact row
  case pcache =>
    intro b cs a h hf
    have row : exec (.seqPcacheInv a) ⟨b, cs⟩ = afterAccess (regWrite .seqPcacheInv a.data.toNat b) cs :=
      effect_regRow_full h hf rfl
    rw [row, regWrite_seqPcacheInv]
  case ringConfig =>
    intro b cs a c h hf hlo hhi
    have row : exec (.batCtxTrCfg a) ⟨b, cs⟩ = afterAccess (regWrite (.batCtxTrCfg c) a.data.toNat b) cs :=
      effect_regRow_full h hf rfl
    rw [row, regWrite_batCtxTrCfg c a.data b hlo hhi]
    split <;> rfl
  case ringHead =>
    intro b cs a c h hf
    have row : exec (.batCtxTrHead a) ⟨b, cs⟩ = afterAccess (regWrite (.batCtxTrHead c) a.data.toNat b) cs :=
      effect_regRow_full h hf rfl
    rw [row, regWrite_batCtxTrHead]
    split <;> rfl
  case rescan =>
    intro b cs a h hf hgo hidle
    have row : exec (.rescan a) ⟨b, cs⟩ = afterAccess (regWrite .fabIdCfg a.data.toNat b) cs :=
      effect_regRow_full h hf rfl
    rw [row, regWrite_fabIdCfg_rescan a.data b hgo hidle]

end Sys2Proof.Machine

/-! ### Route lookups -/

namespace Sys2Proof.Machine

variable {b : Block} {cs : List Instr} {f : Block → Block} {port node chan tag mosaic : Nat}

/-- A live command of a unit that exists does to a running block what its operation does. -/
theorem atUnit_live_eq {i n : Nat} (hr : running b = true) (hi : i < n) :
    atUnit (decide (i < n)) (live f ⟨b, cs⟩) = nextAfter (f b) cs := by
  rw [atUnit_eq (decide_eq_true hi), live_eq hr]

/-- The tables answer lookups: discovery is over, PD_FAB is ON, and the block is neither in stalemate nor in recovery. -/
structure LookupsOpen (b : Block) : Prop where
  alive : b.flt.stale = false
  ready : b.fab.phase = 8
  awake : domOn b 3 = true
  normal : b.pwr.img.recovery = false

theorem lookupRow_clocked (hc : clocked b = true) :
    lookupRow port node chan tag mosaic b = routeLookup port node chan tag mosaic b := by
  simp only [clocked, Bool.and_eq_true, Bool.not_eq_true'] at hc
  simp [lookupRow, hc.1, hc.2]

theorem lookupRow_inReset (hr : released b = false) (hl : b.flt.clockLost = false) :
    lookupRow port node chan tag mosaic b = emit (.route port .notReady) b := by
  simp [lookupRow, hr, hl]

theorem routeLookup_stale (hs : b.flt.stale = true) :
    routeLookup port node chan tag mosaic b = emit (.route port .drop) b := by
  simp [routeLookup, lookupVerdict, lookupStray, hs]

theorem routeLookup_notReady (hs : b.flt.stale = false)
    (h : b.fab.phase ≠ 8 ∨ domOn b 3 = false ∨ b.pwr.img.recovery = true) :
    routeLookup port node chan tag mosaic b = emit (.route port .notReady) (wake 3 3 b) := by
  have hverdict : lookupVerdict b node chan tag mosaic = .notReady := by simp [lookupVerdict, hs, h]
  have hstray : lookupStray b tag = false := by
    rcases h with h | h | h <;> simp [lookupStray, h]
  simp [routeLookup, hverdict, hstray, hs]

theorem routeLookup_deadEpoch (ho : LookupsOpen b) (hl : epochLive (epochOf b (tag % 4)) tag = false) :
    routeLookup port node chan tag mosaic b = emit (.route port .reroute)
      (wake 3 3 { b with fab := { b.fab with stray := satAdd 32 b.fab.stray 1 } }) := by
  have hverdict : lookupVerdict b node chan tag mosaic = .reroute := by
    simp [lookupVerdict, ho.alive, ho.ready, ho.awake, ho.normal, hl]
  have hstray : lookupStray b tag = true := by simp [lookupStray, ho.alive, ho.ready, ho.awake, ho.normal, hl]
  simp [routeLookup, hverdict, hstray, ho.alive]

theorem routeLookup_liveEpoch (ho : LookupsOpen b) (hl : epochLive (epochOf b (tag % 4)) tag = true) :
    routeLookup port node chan tag mosaic b
      = emit (.route port (lookupVerdict b node chan tag mosaic)) (wake 3 3 b) := by
  have hstray : lookupStray b tag = false := by simp [lookupStray, hl]
  simp [routeLookup, hstray, ho.alive]

/-- An epoch that is not ending gives its own answer, and so does one that ends while the current one agrees. -/
theorem lookupVerdict_own (ho : LookupsOpen b) (hl : epochLive (epochOf b (tag % 4)) tag = true)
    (h : (epochOf b (tag % 4)).state = .current ∨ (epochOf b (tag % 4)).state = .prepared ∨
      lookupAnswer b (epochOf b (tag % 4)) node chan mosaic
        = lookupAnswer b (epochOf b (b.fab.epoch % 4)) node chan mosaic) :
    lookupVerdict b node chan tag mosaic = lookupAnswer b (epochOf b (tag % 4)) node chan mosaic := by
  rcases h with h | h | h <;> simp [lookupVerdict, ho.alive, ho.ready, ho.awake, ho.normal, hl, h]

theorem lookupVerdict_moved (ho : LookupsOpen b) (hl : epochLive (epochOf b (tag % 4)) tag = true)
    (hend : (epochOf b (tag % 4)).state = .draining ∨ (epochOf b (tag % 4)).state = .drained)
    (hne : lookupAnswer b (epochOf b (tag % 4)) node chan mosaic
      ≠ lookupAnswer b (epochOf b (b.fab.epoch % 4)) node chan mosaic) :
    lookupVerdict b node chan tag mosaic = .reroute := by
  rcases hend with hend | hend <;>
    simp [lookupVerdict, ho.alive, ho.ready, ho.awake, ho.normal, hl, hend, hne]

section Answers

variable {e : Epoch} (hredir : tget none e.redirects chan = none)
include hredir

theorem lookupAnswer_here (hnode : node = b.fab.node) (hchan : chan < nChannels b) :
    lookupAnswer b e node chan mosaic = .route 0x7E 0x7F node chan := by
  simp [lookupAnswer, hredir, hnode, Nat.not_le.mpr hchan]

theorem lookupAnswer_noPath (hnode : node ≠ b.fab.node)
    (h : nChannels b ≤ chan ∨ bitOf (tget 0 e.routes node) 15 = false) :
    lookupAnswer b e node chan mosaic = .route 0x7F 0x7F node chan := by
  rcases h with h | h <;> simp [lookupAnswer, hredir, hnode, h]

theorem lookupAnswer_primary {k : Nat} (hnode : node ≠ b.fab.node) (hchan : chan < nChannels b)
    (hvalid : bitOf (tget 0 e.routes node) 15 = true) (hslot : slotOfId b mosaic = some k)
    (hport : fld (tget 0 e.routes node) 0 7 ≠ 0x7F)
    (hmask : bitOf (tget 0 e.masks k) (fld (tget 0 e.routes node) 0 7) = true) :
    lookupAnswer b e node chan mosaic = .route (fld (tget 0 e.routes node) 0 7)
      (if bitOf (tget 0 e.routes node) 14 && bitOf (tget 0 e.masks k) (fld (tget 0 e.routes node) 7 7)
        then fld (tget 0 e.routes node) 7 7 else 0x7F) node chan := by
  simp [lookupAnswer, hredir, hnode, Nat.not_le.mpr hchan, hvalid, hslot, hport, hmask]

end Answers

end Sys2Proof.Machine

/-! ### Ports that change -/

namespace Sys2Proof.Machine

variable {b : Block} {port : Nat} {down : Nat → Nat → Block → Block}

/-- The block that has noted that port `port` came up or went down: one that goes down loses its exchange and the ways of the
JOIN_REQUESTs by it. -/
def portNoted (port : Nat) (up : Bool) (b : Block) : Block :=
  let r := modPort port (fun r => { r with
    up := up, hello := up && r.hello, named := up && r.named, root := if up then r.root else none }) b
  { r with fab := { r.fab with relays := r.fab.relays.filter (fun x => up || x.1 != port && x.2 != port) } }

/-- Some port that is up, its exchange complete, leads to neighbour `node`. -/
def portLeadsTo (b : Block) (node : Nat) : Bool :=
  (List.range (nPorts b)).any (fun q => (portOf b q).up && (portOf b q).hello && (portOf b q).peerNode == node)

theorem portNoted_true : portNoted port true b = modPort port (fun r => { r with up := true }) b := by
  simp only [portNoted, Bool.true_or, Bool.true_and, List.filter_true, if_true]

theorem portLeadsTo_eq_false {node : Nat} : portLeadsTo b node = false ↔
    ∀ q, q < nPorts b → (portOf b q).up = true → (portOf b q).hello = true → (portOf b q).peerNode ≠ node := by
  simp [portLeadsTo]

theorem portChange_withdrawn {up : Bool} (hne : (portOf b port).up ≠ up) (hw : b.fab.withdrawn = true) :
    portChange down port up b = portNoted port up b :=
  (if_neg (by simpa using hne)).trans (if_pos hw)

/-- A port that comes up after READY gets a HELLO (R307). -/
theorem portChange_up (hdown : (portOf b port).up = false) (hw : b.fab.withdrawn = false) (hready : b.fab.phase = 8) :
    portChange down port true b = trainCheck (sendHello false port (portNoted port true b)) := by
  have hchange : ¬((portOf b port).up == true) = true := by simp [hdown]
  have hstays : ¬b.fab.withdrawn = true := by simp [hw]
  have hserves : ¬(b.fab.phase = 0 ∨ b.fab.phase = 9) := by simp [hready]
  have hdone : ¬b.fab.phase = 2 := by simp [hready]
  exact (if_neg hchange).trans ((if_neg hstays).trans ((if_pos rfl).trans ((if_neg hserves).trans (if_neg hdone))))

/-- The last port to a named neighbour goes down: the routes change and the neighbour is down (R307). -/
theorem portChange_lastPort (hup : (portOf b port).up = true) (hw : b.fab.withdrawn = false)
    (hready : b.fab.phase = 8) (hhello : (portOf b port).hello = true) (hnamed : (portOf b port).named = true)
    (hlast : portLeadsTo (requestChange port (portNoted port false b)) (portOf b port).peerNode = false) :
    portChange down port false b
      = down (portOf b port).peerNode 0 (requestChange port (portNoted port false b)) := by
  have hchange : ¬((portOf b port).up == false) = true := by simp [hup]
  have hstays : ¬b.fab.withdrawn = true := by simp [hw]
  have hgone : (true && true
      && !portLeadsTo (requestChange port (portNoted port false b)) (portOf b port).peerNode) = true := by simp [hlast]
  refine (if_neg hchange).trans ((if_neg hstays).trans ((if_neg Bool.false_ne_true).trans ((if_pos hready).trans ?_)))
  simp only [hhello, hnamed, if_true]
  exact if_pos hgone

end Sys2Proof.Machine

/-! ### What a received message goes through -/

namespace Sys2Proof.Machine

variable {b : Block} {port : Nat} {m : SerdoMsg} {f : Block → Block}

theorem serdoGate_damaged (herr : m.err = true) : serdoGate port m f b = b := by
  simp [serdoGate, herr]

theorem serdoGate_asleep (herr : m.err = false) (hstep : 7 ≤ b.pwr.step) (hoff : domOn b 3 = false) :
    serdoGate port m f b = serdoSleep port m b := by
  simp [serdoGate, herr, Nat.not_lt.mpr hstep, hoff]

theorem beatsOf_version2 (hver : m.ver = 2) : beatsOf m = ceilDiv (32 + m.body.length + m.tag.length) 32 := by
  simp [beatsOf, hver]

theorem serdoSleep_fits (h : beatsOf m ≤ 64 - b.fab.heldBeats) :
    serdoSleep port m b = wake 3 4 { b with fab := { b.fab with
      heldBeats := b.fab.heldBeats + beatsOf m, heldRx := b.fab.heldRx ++ [(port, m)] } } := by
  simp [serdoSleep, h]

theorem serdoSleep_full (h : 64 - b.fab.heldBeats < beatsOf m) :
    serdoSleep port m b = wake 3 4 { b with fab := { b.fab with
      heldBeats := b.fab.heldBeats + (64 - b.fab.heldBeats)
      dropOverflow := satAdd 16 b.fab.dropOverflow (beatsOf m - (64 - b.fab.heldBeats)) } } := by
  simp only [serdoSleep, if_neg (Nat.not_le.mpr h), Nat.min_eq_right h.le]

/-- Version 1 does not forbid a message of version 2, and none that neither names a mosaic nor has a type of mosaics. -/
theorem version1_allows (hver : m.ver ≠ 1 ∨ m.mosaic = 0 ∧ mosaicType m.typ = false) :
    ¬(m.ver = 1 ∧ (m.mosaic ≠ 0 ∨ mosaicType m.typ = true)) := by
  rintro ⟨hone, hmos⟩
  obtain ⟨hzero, htyp⟩ := hver.resolve_left (not_not_intro hone)
  simp [hzero, htyp] at hmos

section Awake

variable (herr : m.err = false) (hstep : 7 ≤ b.pwr.step) (hon : domOn b 3 = true)
include herr hstep hon

theorem serdoGate_noHops (hhops : m.hops = 0) : serdoGate port m f b = wake 3 4 (dropNoroute b) := by
  simp [serdoGate, herr, Nat.not_lt.mpr hstep, hon, hhops]

variable (hhops : m.hops ≠ 0)
include hhops

theorem serdoGate_version1 (hver : m.ver = 1) (hmos : m.mosaic ≠ 0 ∨ mosaicType m.typ = true) :
    serdoGate port m f b = wake 3 4 (dropAuth b) := by
  simp [serdoGate, herr, Nat.not_lt.mpr hstep, hon, hhops, hver, hmos]

theorem serdoGate_unlisted (hver : m.ver ≠ 1 ∨ m.mosaic = 0 ∧ mosaicType m.typ = false)
    (hlist : listedType m.typ = false) : serdoGate port m f b = wake 3 4 (dropNoroute b) := by
  simp [serdoGate, herr, Nat.not_lt.mpr hstep, hon, hhops, version1_allows hver, hlist]

theorem serdoGate_elsewhere (hver : m.ver ≠ 1 ∨ m.mosaic = 0 ∧ mosaicType m.typ = false)
    (hlist : listedType m.typ = true) (hdst : forMe b m = false) :
    serdoGate port m f b = wake 3 4 (serdoForward port m b) := by
  simp [serdoGate, herr, Nat.not_lt.mpr hstep, hon, hhops, version1_allows hver, hlist, hdst]

end Awake

theorem serdoForward_noWay (hway : (if m.mosaic = 0 then nodePort b m.dst else mosPort b m.dst) = none) :
    serdoForward port m b = dropNoroute b := by
  simp only [serdoForward, hway]

theorem serdoForward_way {p : Nat} (hway : (if m.mosaic = 0 then nodePort b m.dst else mosPort b m.dst) = some p) :
    serdoForward port m b = if m.typ = 0x0A then
      { serdoPass m p b with fab := { (serdoPass m p b).fab with
        relays := (serdoPass m p b).fab.relays ++ [(p, port)] } } else serdoPass m p b := by
  simp only [serdoForward, hway]

theorem forwardRow_elsewhere (hdst : forMe b m = false) : forwardRow port m b = serdoGate port m (fun b => b) b := by
  simp [forwardRow, hdst]

theorem mosaicType_of_unlisted (hlist : listedType m.typ = false) : mosaicType m.typ = false := by
  simp only [listedType, Bool.or_eq_false_iff] at hlist
  exact hlist.2

theorem unlistedRow_unlisted (hlist : listedType m.typ = false) :
    unlistedRow port m b = serdoGate port m (serdoAct port m) b := by
  simp [unlistedRow, hlist, serdoIn]

/-- A version-1 message of a type of flags between chips is taken by the row of the unlisted types. -/
theorem unlistedRow_oldFlag (hver : m.ver = 1) (htyp : m.typ = 0x30 ∨ m.typ = 0x31) :
    unlistedRow port m b = serdoGate port m (serdoAct port m) b := by
  rcases htyp with h | h <;> simp [unlistedRow, oldFlag, hver, h, serdoIn]

theorem mosaicType_flag (htyp : m.typ = 0x30 ∨ m.typ = 0x31) : mosaicType m.typ = true := by
  rcases htyp with h | h <;> simp [mosaicType, h]

theorem writeTrack_tracked {chan g : Nat} {x : Mig} (hmig : b.fab.mig = some x) (hsrc : x.src = chan)
    (hphase : x.phase ≤ 4) (hg : g < 32768) :
    writeTrack chan g b = { b with fab := { b.fab with mig := some { x with dirty := setBit x.dirty g } } } := by
  simp [writeTrack, modMig, hmig, hsrc, hphase, hg]

end Sys2Proof.Machine

/-! ### The statement of lookups, ports and forwarding -/

namespace Sys2Proof.Machine

/-- Settles O44: what each row does to a block that it acts on, case by case of the lemmas above. -/
theorem lookupsAndPorts : Obligations.LookupsAndPorts := by
  unfold Obligations.LookupsAndPorts
  refine ⟨?lookup, ?answer, ?lookupInReset, ?portUp, ?portDown, ?forward, ?unlisted, ?asleep, ?track⟩
  case lookup =>
    intro b cs port node chan tag mosaic hc hport e a
    have row : exec (.routeLookup port node chan tag mosaic) ⟨b, cs⟩
        = nextAfter (routeLookup port node chan tag mosaic b) cs := by
      rw [← lookupRow_clocked hc]
      exact atUnit_eq (decide_eq_true hport)
    rw [row]
    refine ⟨fun hs => ?_, fun hs hclosed => ?_, fun hs hp hd hr hl => ?_, fun hs hp hd hr hl hown => ?_,
      fun hs hp hd hr hl hend hne => ?_⟩
    · rw [routeLookup_stale hs]
    · rw [routeLookup_notReady hs hclosed]
    · rw [routeLookup_deadEpoch ⟨hs, hp, hd, hr⟩ hl]
    · rw [routeLookup_liveEpoch ⟨hs, hp, hd, hr⟩ hl, lookupVerdict_own ⟨hs, hp, hd, hr⟩ hl hown]
    · rw [routeLookup_liveEpoch ⟨hs, hp, hd, hr⟩ hl, lookupVerdict_moved ⟨hs, hp, hd, hr⟩ hl hend hne]
  case answer =>
    intro b e node chan mosaic hredir
    exact ⟨lookupAnswer_here hredir, lookupAnswer_noPath hredir, fun k => lookupAnswer_primary hredir⟩
  case lookupInReset =>
    intro b cs port node chan tag mosaic hr hl hport
    rw [← lookupRow_inReset hr hl (node := node) (chan := chan) (tag := tag) (mosaic := mosaic)]
    exact atUnit_eq (decide_eq_true hport)
  case portUp =>
    intro b cs port hr hport hdown hw hready
    have row : exec (.portUpChange port true) ⟨b, cs⟩ = afterBeat (portChange nodeDownOwn port true b) cs :=
      atUnit_live_eq hr hport
    rw [row, portChange_up hdown hw hready, portNoted_true]
  case portDown =>
    intro b cs port hr hport hup r s
    have row : exec (.portUpChange port false) ⟨b, cs⟩ = afterBeat (portChange nodeDownOwn port false b) cs :=
      atUnit_live_eq hr hport
    refine ⟨fun hw => ?_, ?_⟩
    · rw [row, portChange_withdrawn (by simp [hup]) hw]
      rfl
    · intro hw hready hhello hnamed t hlast
      rw [row, portChange_lastPort hup hw hready hhello hnamed (portLeadsTo_eq_false.mpr hlast)]
      rfl
  case forward =>
    intro b cs port m hr hport hstep hon hdst lost way
    have row : exec (.serdoForward port m) ⟨b, cs⟩ = nextAfter (serdoGate port m (fun b => b) b) cs := by
      rw [← forwardRow_elsewhere hdst]
      exact atUnit_live_eq hr hport
    rw [row]
    refine ⟨fun herr => ?_, fun herr hhops => ?_, fun herr hhops hver hmos => ?_,
      fun herr hhops hver => ⟨fun hlost => ?_, fun p hlist hway => ?_⟩⟩
    · rw [serdoGate_damaged herr]
    · rw [serdoGate_noHops herr hstep hon hhops]
      rfl
    · rw [serdoGate_version1 herr hstep hon hhops hver hmos]
      rfl
    · cases hlist : listedType m.typ with
      | false =>
        rw [serdoGate_unlisted herr hstep hon hhops hver hlist]
        rfl
      | true =>
        have hnone : way = none := hlost.resolve_left (by simp [hlist])
        rw [serdoGate_elsewhere herr hstep hon hhops hver hlist hdst, serdoForward_noWay hnone]
        rfl
    · rw [serdoGate_elsewhere herr hstep hon hhops hver hlist hdst, serdoForward_way hway]
      rfl
  case unlisted =>
    intro b cs port m hr hport hstep hon herr hhops
    have row : exec (.serdoUnlistedType port m) ⟨b, cs⟩ = nextAfter (unlistedRow port m b) cs :=
      atUnit_live_eq hr hport
    rw [row]
    refine ⟨fun hlist hver => ?_, fun hver htyp => ?_⟩
    · have hallowed := hver.imp_right fun h0 => And.intro h0 (mosaicType_of_unlisted hlist)
      rw [unlistedRow_unlisted hlist, serdoGate_unlisted herr hstep hon hhops hallowed hlist]
      rfl
    · rw [unlistedRow_oldFlag hver htyp,
        serdoGate_version1 herr hstep hon hhops hver (.inr (mosaicType_flag htyp))]
      rfl
  case asleep =>
    intro b cs port m hr hport hstep hoff herr htyp hver n room
    have row : exec (.hello port m) ⟨b, cs⟩ = nextAfter (serdoSleep port m b) cs := by
      rw [← serdoGate_asleep (f := serdoAct port m) herr hstep hoff]
      exact (atUnit_live_eq hr hport).trans (by rw [serdoRow, if_pos htyp, serdoIn])
    have hbeats : beatsOf m = n := beatsOf_version2 hver
    rw [row, ← hbeats]
    refine ⟨fun hfits => ?_, fun hfull => ?_⟩
    · rw [serdoSleep_fits hfits]
    · rw [serdoSleep_full hfull]
  case track =>
    intro b cs chan g x hr hchan hmig hsrc hphase hg
    have row : exec (.writeTrackReport chan g) ⟨b, cs⟩ = nextAfter (writeTrack chan g b) cs :=
      atUnit_live_eq hr hchan
    rw [row, writeTrack_tracked hmig hsrc hphase hg]

end Sys2Proof.Machine

/-! ### Epoch changes -/

namespace Sys2Proof.Machine

variable {b : Block} {port n tag : Nat} {m : SerdoMsg} {c : Change}

theorem serdoAct_epochPrepare (h : m.typ = 0x18) : serdoAct port m b =
    sendNode 0x19 (leBytes (bodyNat m 0 1) 1) b.fab.rootNode
      (prepareEpoch (bodyNat m 0 1) (Config.epochEdits (m.body.drop 1)) b) := by
  simp only [serdoAct, h]

theorem serdoAct_epochAck (h : m.typ = 0x19) : serdoAct port m b = ackEpoch m.src (bodyNat m 0 1) b := by
  simp only [serdoAct, h]

theorem serdoAct_epochSwitch (h : m.typ = 0x1A) : serdoAct port m b = scheduleSwitch (bodyNat m 0 1) b := by
  simp only [serdoAct, h]

theorem serdoAct_epochDrained (h : m.typ = 0x1B) : serdoAct port m b = drainedFrom m.src (bodyNat m 0 1) b := by
  simp only [serdoAct, h]

theorem serdoAct_epochFree (h : m.typ = 0x1C) : serdoAct port m b = freeEpoch (bodyNat m 0 1) b := by
  simp only [serdoAct, h]

theorem serdoAct_linkEvent (h : m.typ = 0x08) : serdoAct port m b =
    takeLinkEvent m.src (bodyNat m 0 1) (bitOf (bodyNat m 1 1) 0) (bodyNat m 2 2) (linkEdits m) b := by
  simp only [serdoAct, h]

/-- The nodes whose EPOCH_ACK is still awaited once node `n` has answered. -/
def ackLeft (b : Block) (c : Change) (n : Nat) : List Nat :=
  c.awaited.filter (fun x => x != n && !b.fab.downs.contains x)

/-- The block that awaits the nodes left after the answer of node `n`. -/
def ackNoted (c : Change) (n : Nat) (b : Block) : Block :=
  { b with fab := { b.fab with change := some { c with awaited := ackLeft b c n } } }

/-- EPOCH_SWITCH of `tag` has gone to every other live node. -/
def switchSent (tag : Nat) (b : Block) : Block :=
  ((liveNodes b).filter (· != b.fab.node)).foldl (fun b d => sendNode 0x1A (leBytes tag 1) d b) b

section Acks

variable (hroot : b.fab.isRoot = true) (hc : b.fab.change = some c) (htag : c.tag = tag) (hopen : c.switched = false)
include hroot hc htag hopen

theorem ackEpoch_awaits (hleft : ackLeft b c n ≠ []) : ackEpoch n tag b = ackNoted c n b := by
  have hsome : (!(ackLeft b c n).isEmpty) = true := by simpa using hleft
  simp only [ackEpoch, hc]
  exact (if_neg (by simp [htag, hopen, hroot])).trans (if_pos hsome)

/-- With the last answer the switch goes out, and the old epoch is to be drained by all who held it. -/
theorem ackEpoch_last (hleft : ackLeft b c n = []) : ackEpoch n tag b =
    scheduleSwitch tag { switchSent tag (ackNoted c n b) with fab := { (switchSent tag (ackNoted c n b)).fab with
      drains := (switchSent tag (ackNoted c n b)).fab.drains ++ [((switchSent tag (ackNoted c n b)).fab.epoch,
        (liveNodes (ackNoted c n b)).filter (fun d => !joinsBy c.edits d))] } } := by
  have hnone : ¬(!(ackLeft b c n).isEmpty) = true := by simp [hleft]
  simp only [ackEpoch, hc]
  exact (if_neg (by simp [htag, hopen, hroot])).trans (if_neg hnone)

end Acks

theorem epochApply_atEdge {edge : Nat} (hsw : b.fab.swAt = some (edge, tag)) (hedge : edge ≤ b.time.seq) :
    epochApply b =
      let r := modEpoch (b.fab.epoch % 4) (fun e => if e.state == .current then { e with state := .draining } else e) b
      let r := modEpoch (tag % 4) (fun e => { e with state := .current }) r
      nextChange (emit (.epochCur tag) (movesDone { r with fab := { r.fab with
        epoch := tag, swAt := none, phase := if b.fab.joining then 8 else b.fab.phase, joining := false
        waveDead := none, via := [] } })) := by
  simp only [epochApply, hsw]
  exact if_neg (Nat.not_lt.mpr hedge)

theorem drainDetect_eq (busy : List (BitVec 4)) :
    drainDetect busy b = drainSlot busy 3 (drainSlot busy 2 (drainSlot busy 1 (drainSlot busy 0 b))) := by
  have hslots : List.range 4 = [0, 1, 2, 3] := rfl
  simp only [drainDetect, hslots, List.foldl_cons, List.foldl_nil]

theorem drainSlot_busy {busy : List (BitVec 4)} {x : BitVec 4} {t : Nat} (hx : x ∈ busy) (ht : x.getLsbD t = true) :
    drainSlot busy t b = b := by
  have hany : busy.any (fun x => x.getLsbD t) = true := List.any_eq_true.mpr ⟨x, hx, ht⟩
  simp [drainSlot, hany]

/-- A chip other than the root tells the root of an epoch that is drained on it (R285, R286). -/
theorem drainSlot_told {busy : List (BitVec 4)} {t : Nat} (hst : (epochOf b t).state = .draining)
    (huse : tagInUse b (epochOf b t).tag = false) (hidle : ∀ x ∈ busy, x.getLsbD t = false)
    (hroot : b.fab.isRoot = false) :
    drainSlot busy t b = sendNode 0x1B (leBytes (epochOf b t).tag 1) b.fab.rootNode
      (modEpoch t (fun e => { e with state := .drained }) b) := by
  have hnone : busy.any (fun x => x.getLsbD t) = false := by simpa using hidle
  simp [drainSlot, hst, huse, hnone, hroot]

/-- What each epoch awaits once node `n` has told that the one of `tag` is drained on it. -/
def drainsAfter (n tag : Nat) (b : Block) : List (Nat × List Nat) :=
  b.fab.drains.map (fun d => if d.1 == tag then (d.1, d.2.filter (· != n)) else d)

theorem drainedFrom_awaits (hroot : b.fab.isRoot = true)
    (hleft : (drainsAfter n tag b).any (fun d => d.1 == tag && d.2.isEmpty) = false) :
    drainedFrom n tag b
      = { b with fab := { b.fab with drains := (drainsAfter n tag b).filter (fun d => !d.2.isEmpty) } } := by
  have hmore : (!(drainsAfter n tag b).any (fun d => d.1 == tag && d.2.isEmpty)) = true := by simp [hleft]
  exact (if_neg (by simp [hroot])).trans (if_pos hmore)

theorem freeEpoch_ended (htag : (epochOf b (tag % 4)).tag = tag)
    (hend : (epochOf b (tag % 4)).state = .draining ∨ (epochOf b (tag % 4)).state = .drained) :
    freeEpoch tag b = (b.fab.slots.map (·.1)).foldl (freeKeys (epochOf b (tag % 4)).masks)
      (modEpoch (tag % 4) (fun _ => epochZero) b) := by
  have hends : ((epochOf b (tag % 4)).tag == tag
      && ((epochOf b (tag % 4)).state == .draining || (epochOf b (tag % 4)).state == .drained)) = true := by
    simp [htag, hend]
  exact if_pos hends

theorem takeLinkEvent_down {p peer : Nat} {es : List EpochEdit} (hroot : b.fab.isRoot = true) :
    takeLinkEvent n p false peer es b = rootChange (.linkDown n p :: es) b := by
  simp [takeLinkEvent, hroot]

/-- Settles O45: each message of R286 does the operation of its type, and each operation what its case says. -/
theorem epochCommands : Obligations.EpochCommands := by
  unfold Obligations.EpochCommands
  refine ⟨?prepare, ?ack, ?switch, ?apply, ?detect, fun _ _ _ _ => drainSlot_busy, fun _ _ _ => drainSlot_told,
    ?drained, ?free, ?link⟩
  case prepare =>
    intro b cs port m h
    have row : exec (.epochPrepare port m) ⟨b, cs⟩ = afterBeat (serdoAct port m b) cs := serdo_ready h
    rw [row, serdoAct_epochPrepare (serdo_typ h)]
  case ack =>
    intro b cs port m c h hroot hc htag hopen left r
    have row : exec (.epochAck port m) ⟨b, cs⟩ = afterBeat (serdoAct port m b) cs := serdo_ready h
    rw [row, serdoAct_epochAck (serdo_typ h)]
    refine ⟨fun hleft => ?_, fun hleft => ?_⟩
    · rw [ackEpoch_awaits hroot hc htag hopen hleft]
      rfl
    · rw [ackEpoch_last hroot hc htag hopen hleft]
      rfl
  case switch =>
    intro b cs port m h
    have row : exec (.epochSwitch port m) ⟨b, cs⟩ = afterBeat (serdoAct port m b) cs := serdo_ready h
    rw [row, serdoAct_epochSwitch (serdo_typ h)]
    rfl
  case apply =>
    intro b cs edge tag hr hsw hedge
    have row : exec .epochApply ⟨b, cs⟩ = nextAfter (epochApply b) cs := live_eq hr
    rw [row, epochApply_atEdge hsw hedge]
  case detect =>
    intro b cs busy hr
    have row : exec (.epochDrainDetect busy) ⟨b, cs⟩ = nextAfter (drainDetect busy b) cs := live_eq hr
    rw [row, drainDetect_eq]
  case drained =>
    intro b cs port m h hroot tag ds hleft
    have row : exec (.epochDrained port m) ⟨b, cs⟩ = afterBeat (serdoAct port m b) cs := serdo_ready h
    rw [row, serdoAct_epochDrained (serdo_typ h), drainedFrom_awaits hroot hleft]
    rfl
  case free =>
    intro b cs port m h tag e htag hend
    have row : exec (.epochFree port m) ⟨b, cs⟩ = afterBeat (serdoAct port m b) cs := serdo_ready h
    rw [row, serdoAct_epochFree (serdo_typ h), freeEpoch_ended htag hend]
  case link =>
    intro b cs port m h hroot hdown
    have row : exec (.linkEvent port m) ⟨b, cs⟩ = afterBeat (serdoAct port m b) cs := serdo_ready h
    rw [row, serdoAct_linkEvent (serdo_typ h), hdown, takeLinkEvent_down hroot]

end Sys2Proof.Machine

/-! ### A block in which nothing waits -/

namespace Sys2Proof.Machine

variable {b : Block}

/-- What `quiet` says of a block, by name. -/
structure Settled (b : Block) : Prop where
  loops : b.bat.loops = []
  pools : b.bat.pools = []
  colls : b.fab.colls = []
  mosaics : b.fab.slots = []
  mig : b.fab.mig = none
  boards : b.sch.slots = []
  spans : b.sch.spans = []
  revokes : b.sec.revokes = []
  jobs : b.sec.jobs = []
  parts : b.flt.parts = []
  cmds : b.adm.cmds = []
  replies : b.adm.due = []
  governor : b.pwr.dvfs.gov = 0
  timers : ∀ e ∈ b.pwr.doms, e.2.idleEn = false ∧ e.2.idleAt = none
  activation : b.pwr.img.pendingAct = none
  voltages : b.pwr.img.actPhase ≠ 5
  bootRecord : b.pwr.img.actPhase ≠ 4
  capture : b.flt.capDue = none
  hello : b.flt.freshDue = false

theorem settled_of_quiet (h : quiet b = true) : Settled b := by
  simp only [quiet, Bool.and_eq_true, List.isEmpty_iff, Option.isNone_iff_eq_none, beq_iff_eq, bne_iff_ne,
    List.all_eq_true, Bool.not_eq_true', and_assoc] at h
  obtain ⟨loops, pools, colls, mosaics, mig, boards, spans, revokes, jobs, parts, cmds, replies, governor, timers,
    activation, voltages, bootRecord, capture, hello⟩ := h
  exact { loops, pools, colls, mosaics, mig, boards, spans, revokes, jobs, parts, cmds, replies, governor, timers,
          activation, voltages, bootRecord, capture, hello }

/-- With no activation pending, at its voltages or at its boot record, the image has nothing to go on with. -/
theorem settleImage_quiet (hact : b.pwr.img.pendingAct = none) (hvolt : b.pwr.img.actPhase ≠ 5)
    (hrec : b.pwr.img.actPhase ≠ 4) : settleImage b = b := by
  unfold settleImage
  split
  · rfl
  · dsimp only
    split
    case h_1 hp _ => rw [hact] at hp; cases hp
    case h_2 h5 => exact absurd h5 hvolt
    case h_3 h4 => exact absurd h4 hrec
    case h_4 => rfl

/-- What every listed entry and the default satisfy, a read gives. -/
theorem tget_of_forall {α : Type} {p : α → Prop} {d : α} {t : Table α} (hd : p d) (ht : ∀ e ∈ t, p e.2) (k : Nat) :
    p (tget d t k) := by
  induction t with
  | nil => exact hd
  | cons e t ih =>
    unfold tget
    split
    · exact ht e List.mem_cons_self
    · exact ih fun e he => ht e (List.mem_cons_of_mem _ he)

theorem domOf_timerOff (h : ∀ e ∈ b.pwr.doms, e.2.idleEn = false ∧ e.2.idleAt = none) (d : Nat) :
    (domOf b d).idleEn = false ∧ (domOf b d).idleAt = none := by
  unfold domOf
  split
  · exact ⟨rfl, rfl⟩
  · exact tget_of_forall (p := fun m : Dom => m.idleEn = false ∧ m.idleAt = none) ⟨rfl, rfl⟩ h d

theorem idleCount_timerOff {d : Nat} (hen : (domOf b d).idleEn = false) (hat : (domOf b d).idleAt = none) :
    idleCount d b = b := by
  simp [idleCount, hen, hat]

theorem settlePower_quiet (hgov : b.pwr.dvfs.gov = 0)
    (htimers : ∀ e ∈ b.pwr.doms, e.2.idleEn = false ∧ e.2.idleAt = none) : settlePower b = b := by
  have hcount (d : Nat) : idleCount d b = b :=
    idleCount_timerOff (domOf_timerOff htimers d).1 (domOf_timerOff htimers d).2
  have hfold (ds : List Nat) : ds.foldl (fun b d => idleCount d b) b = b := by
    induction ds with
    | nil => rfl
    | cons d ds ih => rw [List.foldl_cons, hcount, ih]
  simp only [settlePower, hgov, ne_eq, not_true_eq_false, false_and, if_false, hfold]

theorem settleWork_settled (h : Settled b) : settleWork b = b := by
  rw [settleWork, settleTurns_quiet h.loops h.pools, settleColls_quiet h.colls, settleMosaics_quiet h.mosaics h.mig,
    settleSched_quiet h.boards h.spans, settleRevokes_quiet h.revokes, settleResets_quiet h.cmds,
    settlePools_quiet h.pools, settleParts_quiet h.parts, admPump_quiet h.cmds, ksPump_quiet h.jobs,
    settleImage_quiet h.activation h.voltages h.bootRecord]

theorem settle_settled (h : Settled b) : settle b = b := by
  simp only [settle, settleWork_settled h, ite_self, settlePower_quiet h.governor h.timers]

/-- Settles O57: each unit's consequences leave a block in which nothing of theirs waits, then no reply, capture or HELLO
is due. -/
theorem endingQuiet : Obligations.EndingQuiet := by
  unfold Obligations.EndingQuiet
  intro b hq
  have h := settled_of_quiet hq
  rw [ending, settle_settled h, admFlush_none h.replies, closing_quiet h.capture h.hello]

end Sys2Proof.Machine

/-! ### Accesses that wait for PD_HUB -/

namespace Sys2Proof.Machine

variable {b : Block}

theorem mmio_blkDown (m : Mmio) (hup : b.hub.blkUp = false) : mmio m b = b := by
  simp [mmio, hup]

theorem mmio_hubAsleep (m : Mmio) (hup : b.hub.blkUp = true) (hasleep : domOn b 1 = false) :
    mmio m b = wake 1 2 { b with hub := { b.hub with held := b.hub.held ++ [m] } } := by
  simp [mmio, hup, hasleep]

/-- An access that finds `hp_blk_up` low leaves the block as it is (R30). -/
theorem effect_mmio_blkDown (cs : List Instr) (m : Mmio) (hup : b.hub.blkUp = false) :
    effect (mmio m) ⟨b, cs⟩ = nextAfter b cs := by
  rw [effect_eq, mmio_blkDown m hup]

/-- An access that finds PD_HUB asleep joins those that wait (R433). -/
theorem effect_mmio_hubAsleep (cs : List Instr) (m : Mmio) (hup : b.hub.blkUp = true) (hasleep : domOn b 1 = false) :
    effect (mmio m) ⟨b, cs⟩ = afterAccess { b with hub := { b.hub with held := b.hub.held ++ [m] } } cs := by
  rw [effect_eq, mmio_hubAsleep m hup hasleep, afterAccess_eq]

/-- Settles O3: every access is the effect of `mmio`, which looks at `hp_blk_up` first and at PD_HUB next. -/
theorem mmioHeld : Obligations.MmioHeld := by
  unfold Obligations.MmioHeld
  refine ⟨?writeDown, ?readDown, ?writeAsleep, ?readAsleep⟩
  case writeDown =>
    intro b cs a hup
    exact ⟨effect_mmio_blkDown cs (.write false a) hup, effect_mmio_blkDown cs (.write true a) hup⟩
  case readDown =>
    intro b cs bar2 fn a id hup
    exact effect_mmio_blkDown cs (.read bar2 a fn id) hup
  case writeAsleep =>
    intro b cs a hup hasleep
    exact ⟨effect_mmio_hubAsleep cs (.write false a) hup hasleep, effect_mmio_hubAsleep cs (.write true a) hup hasleep⟩
  case readAsleep =>
    intro b cs bar2 fn a id hup hasleep
    exact effect_mmio_hubAsleep cs (.read bar2 a fn id) hup hasleep

end Sys2Proof.Machine

/-! ### The entry checks and the patch records -/

namespace Sys2Proof.Machine

variable {b : Block} {cs : List Instr} {q : Nat} {s : Sub}

/-- A command of a unit that exists does to a serving block what its operation does. -/
theorem atUnit_work_eq {f : Block → Block} {i n : Nat} (hs : serving b = true) (hi : i < n) :
    atUnit (decide (i < n)) (work f ⟨b, cs⟩) = nextAfter (f b) cs := by
  rw [atUnit_eq (decide_eq_true hi), work_eq hs]

theorem submissionCheck_entryFails {e : List Byte} {st : Status} (hc : checkableOf (queueOf b q) = some s)
    (hphase : s.phase = .fetched) (hraw : s.raw = .bytes e)
    (hcheck : entryCheck (queueOf b q).gen2 (queueOf b q).any (queueOf b q).expected (b.pwr.ifrev / 256) e = some st) :
    submissionCheck q b = checkFail q s.sid st 0 0xFFFFFFFF b := by
  simp only [submissionCheck, hc, hphase, hraw, hcheck]

/-- An entry that passes its checks and has no patches takes its SEQNO and leaves for the check pass. -/
theorem submissionCheck_entryPasses {e : List Byte} (hc : checkableOf (queueOf b q) = some s)
    (hphase : s.phase = .fetched) (hraw : s.raw = .bytes e) (hnone : s.ent.patchCount = 0)
    (hcheck : entryCheck (queueOf b q).gen2 (queueOf b q).any (queueOf b q).expected (b.pwr.ifrev / 256) e = none) :
    submissionCheck q b = toChecking q s.sid
      (modQueue q (fun r => { r with any := false, expected := (s.ent.seqno + 1) % 2 ^ 48 }) b) := by
  simp only [submissionCheck, hc, hphase, hraw, hcheck, if_pos hnone]

/-- Offset of the last patch record taken, 0 before the first (R56 step 9). -/
def lastOffset (s : Sub) : Nat := match s.patches.getLast? with | some p => p.offset | none => 0

/-- A patch record at hand that fails a check fails its submission with its index in the list (R56 steps 9 to 11). -/
theorem submissionCheck_recordFails {e : List Byte} {st : Status} (hc : checkableOf (queueOf b q) = some s)
    (hsub : subOf b q s.sid = some s) (hphase : s.phase = .patching) (hmore : s.patchNext < s.ent.patchCount)
    (hread : readRange (queueOf b q).lines (.patch s.sid) 2 (s.ent.patchAddr + 16 * s.patchNext) 16 = .ok e)
    (hcheck : patchCheck (lastOffset s) s.ent.cbLen e = some st) :
    submissionCheck q b = checkFail q s.sid st 2 s.patchNext b := by
  have hat : ¬s.ent.patchCount ≤ s.patchNext := Nat.not_le.mpr hmore
  simp only [submissionCheck, hc, hphase, checkPatches, hsub, if_neg hat, hread]
  change (match patchCheck (lastOffset s) s.ent.cbLen e with | some st => _ | none => _) = _
  rw [hcheck]

section PatchRecords

variable {prev cbLen : Nat} {e : List Byte}

/-- A record has a reserved bit set, a value wider than its width, or an offset before the last one's (R56 step 9). -/
def patchWrong (prev : Nat) (e : List Byte) : Prop :=
  fld (word e 1) 2 30 ≠ 0 ∨ 2 ^ (8 * (patchOf e).width) ≤ (patchOf e).value ∨ (patchOf e).offset < prev

theorem patchCheck_wrong (h : patchWrong prev e) : patchCheck prev cbLen e = some .badParam := by
  have hbad : (fld (word e 1) 2 30 != 0 || decide (2 ^ (8 * (patchOf e).width) ≤ (patchOf e).value)
      || decide ((patchOf e).offset < prev)) = true := by simpa [patchWrong, or_assoc] using h
  simp only [patchCheck, hbad, if_true]

variable (hright : ¬patchWrong prev e)
include hright

theorem patchCheck_right : patchCheck prev cbLen e =
    if (patchOf e).offset % (patchOf e).width != 0 then some .badAlign
    else if cbLen < (patchOf e).offset + (patchOf e).width then some .badExtent else none := by
  have hgood : ¬(fld (word e 1) 2 30 != 0 || decide (2 ^ (8 * (patchOf e).width) ≤ (patchOf e).value)
      || decide ((patchOf e).offset < prev)) = true := by simpa [patchWrong, or_assoc] using hright
  simp only [patchCheck, if_neg hgood]

theorem patchCheck_misaligned (halign : (patchOf e).offset % (patchOf e).width ≠ 0) :
    patchCheck prev cbLen e = some .badAlign := by
  simp [patchCheck_right hright, halign]

theorem patchCheck_outside (halign : (patchOf e).offset % (patchOf e).width = 0)
    (hout : cbLen < (patchOf e).offset + (patchOf e).width) : patchCheck prev cbLen e = some .badExtent := by
  simp [patchCheck_right hright, halign, hout]

end PatchRecords

end Sys2Proof.Machine

/-! ### The check pass -/

namespace Sys2Proof.Machine

variable {b : Block} {cs : List Instr} {q : Nat} {s : Sub} {k : Packet} {p : List Byte} {t : TplCheck} {st : Status}
  {d : Nat}

/-- What checking the next packet of the buffer of submission `s` of queue `q` gives. -/
def bufferCheck (b : Block) (q : Nat) (s : Sub) : Checked :=
  checkOne b (q / 6) (queueOf b q).lines (.buf s.sid) s.ent.cbAddr s.chk.pos s.ent.cbLen s.chk.tags s.chk.sect none
    (applyPatches s.chk.pos s.patches) id

/-- What checking the next packet of the template `t` of submission `s` of queue `q` gives. -/
def templateCheck (b : Block) (q : Nat) (s : Sub) (t : TplCheck) : Checked :=
  checkOne b (q / 6) (queueOf b q).lines (.tpl s.sid t.ltOff) t.addr t.pos t.len t.tags t.sect (some t.slot) id
    (fun _ => t.ltOff)

/-- The check of submission `s` of queue `q` once packet `k` of its buffer has passed. -/
def checkAfter (b : Block) (q : Nat) (s : Sub) (k : Packet) : Check :=
  { pos := s.chk.pos + 32 * (k.len + 1), tags := tagsAfter k s.chk.tags, sect := sectAfter k s.chk.pos s.chk.sect
    targets := targetsAfter k s.chk.pos s.chk.targets, roots := rootsAfter b (q / 6) k s.chk.pos s.chk.roots, tpl := none }

/-- The block that has noted what packet `k` signals and keeps of the passed lines what there is room for. -/
def packetNoted (q : Nat) (s : Sub) (k : Packet) (b : Block) : Block :=
  keepPassed q (.buf s.sid) (s.ent.cbAddr + (s.chk.pos + 32 * (k.len + 1))) (noteSignal q s k b)

/-- The block in which the template of LAUNCH_TURN `k`, `tl` bytes at `ta`, is checked next. -/
def templateBegun (q : Nat) (s : Sub) (k : Packet) (tl ta : Nat) (b : Block) : Block :=
  modSub q s.sid (fun x => { x with
    tpls := s.tpls.filter (·.1 != s.chk.pos) ++ [(s.chk.pos, [])]
    chk := { x.chk with tpl := some { ltOff := s.chk.pos, ltTag := k.tag, addr := ta, len := tl
                                      slot := slotOfPacket b (q / 6) k, pos := 0, tags := 0, sect := none } } }) b

theorem checkAdvance_more (hend : k.opc ≠ .endP) (hin : s.chk.pos + 32 * (k.len + 1) < s.ent.cbLen) :
    checkAdvance q s k b
      = modSub q s.sid (fun x => { x with chk := checkAfter b q s k }) (packetNoted q s k b) := by
  have hmore : ¬(k.opc == .endP || decide (s.ent.cbLen ≤ s.chk.pos + 32 * (k.len + 1))) = true := by
    simp [hend, Nat.not_le.mpr hin]
  exact if_neg hmore

theorem checkAdvance_last (h : k.opc = .endP ∨ s.ent.cbLen ≤ s.chk.pos + 32 * (k.len + 1)) :
    checkAdvance q s k b = checkEnd q s (checkAfter b q s k) (packetNoted q s k b) := by
  have hlast : (k.opc == .endP || decide (s.ent.cbLen ≤ s.chk.pos + 32 * (k.len + 1))) = true := by simpa using h
  exact if_pos hlast

section Ends

variable {c : Check}

theorem checkEnd_openSection {o : Nat} (hsect : c.sect = some o) :
    checkEnd q s c b = checkFail q s.sid .badState 3 o b := by
  simp only [checkEnd, hsect]

theorem checkEnd_openTarget {x : Nat × Nat × Nat} {xs : List (Nat × Nat × Nat)} (hsect : c.sect = none)
    (htargets : c.targets = x :: xs) :
    checkEnd q s c b = checkFail q s.sid .badParam 3 ((xs.map (·.1)).foldl min x.1) b := by
  simp only [checkEnd, hsect, htargets]

theorem checkEnd_checked (hsect : c.sect = none) (htargets : c.targets = []) :
    checkEnd q s c b = modSub q s.sid (fun x => { x with phase := .checked, chk := c }) b := by
  simp only [checkEnd, hsect, htargets]

end Ends

/-- While a template is checked no patch record is awaited (R54). -/
theorem patchReach_template (g1 : Bool) (ls : List Line) (htpl : s.chk.tpl = some t) : patchReach g1 ls s = none := by
  simp [patchReach, htpl]

/-- A check that reports one place for every offset fails at that place. -/
theorem checkOne_failsAt {c base pos limit tags o : Nat} {ls : List Line} {it : LineItem} {sect slot : Option Nat}
    {patch : List Byte → List Byte}
    (h : checkOne b c ls it base pos limit tags sect slot patch (fun _ => o) = .fail st d) : d = o := by
  simp only [checkOne] at h
  split at h
  · cases h
  · cases h; rfl
  · split at h
    · cases h; rfl
    · split at h
      · cases h
      · cases h; rfl
      · split at h
        · cases h; rfl
        · split at h
          · cases h; rfl
          · split at h
            · cases h
            · cases h; rfl

theorem templateCheck_failsAtLaunch (h : templateCheck b q s t = .fail st d) : d = t.ltOff := checkOne_failsAt h

/-- In its check pass a submission with no patch record awaited has its next packet checked. -/
theorem nextChecked {g1 : Bool} {ls : List Line} (hphase : s.phase = .checking)
    (hreach : patchReach g1 ls s = none) : ¬(s.phase != .checking || (patchReach g1 ls s).isSome) = true := by
  simp [hphase, hreach]

section Passing

variable (hc : checkableOf (queueOf b q) = some s) (hphase : s.phase = .checking)
include hc

theorem patchRound_idle (hreach : patchReach b.pwr.g1 (queueOf b q).lines s = none) : patchRound q b = b := by
  simp only [patchRound, hc, hreach]

/-- With no record of the patch list awaited, CHECK_PASS only checks the next packet. -/
theorem checkPass_unawaited (hreach : patchReach b.pwr.g1 (queueOf b q).lines s = none) :
    checkPass q b = checkNext q b := by
  rw [checkPass, patchRound_idle hc hreach, patchRound_idle hc hreach]

include hphase

section Buffer

variable (htpl : s.chk.tpl = none) (hreach : patchReach b.pwr.g1 (queueOf b q).lines s = none)
include htpl hreach

theorem checkPass_bufferFails (h : bufferCheck b q s = .fail st d) :
    checkPass q b = checkFail q s.sid st 3 d b := by
  rw [bufferCheck] at h
  simp [checkPass_unawaited hc hreach, checkNext, hc, hphase, hreach, htpl, ctxOfQueue, h]

variable (h : bufferCheck b q s = .pass k p) (htarget : badTarget k s.chk.pos s.chk.targets = none)
include h htarget

/-- A packet that passes moves the pass past it; `hbody` rules out the branch of LAUNCH_TURN in the match on the body. -/
theorem checkPass_advances (hbody : ∀ a w x y z, k.body ≠ .launchTurn a w x y z) :
    checkPass q b = checkAdvance q s k b := by
  rw [bufferCheck] at h
  simp only [checkPass_unawaited hc hreach, checkNext, hc, if_neg (nextChecked hphase hreach), htpl, ctxOfQueue, h,
    htarget]

/-- A LAUNCH_TURN that passes has its template checked next. -/
theorem checkPass_launchTurn {a tl ta y z : Nat} (hbody : k.body = .launchTurn a tl ta y z) :
    checkPass q b = templateBegun q s k tl ta b := by
  rw [bufferCheck] at h
  simp only [checkPass_unawaited hc hreach, checkNext, hc, if_neg (nextChecked hphase hreach), htpl, ctxOfQueue, h,
    htarget, hbody, templateBegun]

end Buffer

section Template

variable (htpl : s.chk.tpl = some t)
include htpl

theorem checkPass_templateFails (h : templateCheck b q s t = .fail st d) :
    checkPass q b = checkFail q s.sid st 3 d b := by
  have hreach := patchReach_template b.pwr.g1 (queueOf b q).lines htpl
  rw [templateCheck] at h
  simp [checkPass_unawaited hc hreach, checkNext, hc, hphase, hreach, htpl, ctxOfQueue, h]

/-- A packet of the template that passes is added to what the submission holds of it, and its lines are freed. -/
theorem checkPass_templateMore (h : templateCheck b q s t = .pass k p) (hend : k.opc ≠ .endP)
    (hin : t.pos + 32 * (k.len + 1) < t.len) :
    checkPass q b = freePassed q (.tpl s.sid t.ltOff) (t.addr + (t.pos + 32 * (k.len + 1)))
      (modSub q s.sid (fun x => { x with
        tpls := modFirst (·.1 == t.ltOff) (fun e => (e.1, e.2 ++ p)) s.tpls
        chk := { x.chk with tpl := some { t with pos := t.pos + 32 * (k.len + 1), tags := tagsAfter k t.tags } } }) b) := by
  have hreach := patchReach_template b.pwr.g1 (queueOf b q).lines htpl
  have hmore : (k.opc == .endP || decide (t.len ≤ t.pos + 32 * (k.len + 1))) = false := by
    simp [hend, hin]
  rw [templateCheck] at h
  simp [checkPass_unawaited hc hreach, checkNext, hc, hphase, hreach, htpl, ctxOfQueue, h, hmore]

end Template

end Passing

/-- Settles O26: the checks of an entry, of a buffer's packet, of a template's packet and of a patch record, one after
the other. -/
theorem submissionChecks : Obligations.SubmissionChecks := by
  unfold Obligations.SubmissionChecks
  refine ⟨?entry, ?buffer, ?template, ?patch⟩
  case entry =>
    intro b cs q s e hs hq r hc hphase hraw
    have row : exec (.submissionCheck q) ⟨b, cs⟩ = nextAfter (submissionCheck q b) cs := atUnit_work_eq hs hq
    rw [row]
    refine ⟨fun st hfail => ?_, fun hpass hnone => ?_⟩
    · rw [submissionCheck_entryFails hc hphase hraw hfail]
      rfl
    · rw [submissionCheck_entryPasses hc hphase hraw hnone hpass]
      rfl
  case buffer =>
    intro b cs q s hs hq r hc hphase htpl hreach c
    have row : exec (.checkPass q) ⟨b, cs⟩ = nextAfter (checkPass q b) cs := atUnit_work_eq hs hq
    rw [row]
    refine ⟨fun st d hfail => ?_, fun k p hpass htarget hend hbody hin => ?_, fun k p hpass htarget hbody hlast => ?_,
      fun k p a tl ta y z hpass htarget hbody => ?_⟩
    · rw [checkPass_bufferFails hc hphase htpl hreach hfail]
      rfl
    · rw [checkPass_advances hc hphase htpl hreach hpass htarget hbody, checkAdvance_more hend hin]
      rfl
    · rw [checkPass_advances hc hphase htpl hreach hpass htarget hbody, checkAdvance_last hlast]
      refine ⟨fun o hsect => ?_, fun x xs hsect htargets => ?_, fun hsect htargets => ?_⟩
      · rw [checkEnd_openSection hsect]
        rfl
      · rw [checkEnd_openTarget hsect htargets]
        rfl
      · rw [checkEnd_checked hsect htargets, checkAfter, hsect, htargets]
        rfl
    · rw [checkPass_launchTurn hc hphase htpl hreach hpass htarget hbody]
      rfl
  case template =>
    intro b cs q s t hs hq r hc hphase htpl c
    have row : exec (.checkPass q) ⟨b, cs⟩ = nextAfter (checkPass q b) cs := atUnit_work_eq hs hq
    rw [row]
    refine ⟨fun st d hfail => ?_, fun k p hpass hend hin => ?_⟩
    · rw [checkPass_templateFails hc hphase htpl hfail]
      rw [templateCheck_failsAtLaunch hfail]
      rfl
    · rw [checkPass_templateMore hc hphase htpl hpass hend hin]
      rfl
  case patch =>
    intro b cs q s e hs hq r hc hsub hphase hmore hread p wrong
    have row : exec (.submissionCheck q) ⟨b, cs⟩ = nextAfter (submissionCheck q b) cs := atUnit_work_eq hs hq
    have fails {st : Status} (hcheck : patchCheck (lastOffset s) s.ent.cbLen e = some st) :
        exec (.submissionCheck q) ⟨b, cs⟩
          = nextAfter (failSub q s.sid { status := st, kind := 2, detail := s.patchNext } b) cs := by
      rw [row, submissionCheck_recordFails hc hsub hphase hmore hread hcheck]
      rfl
    exact ⟨fun hwrong => fails (patchCheck_wrong hwrong),
      fun hright halign => fails (patchCheck_misaligned hright halign),
      fun hright halign hout => fails (patchCheck_outside hright halign hout)⟩

end Sys2Proof.Machine

/-! ### Completion records and their answers -/

namespace Sys2Proof.Machine

variable {b : Block} {cs : List Instr} {q : Nat} {s : Sub} {f : Failure} {r : QueueRec}

theorem recordBytes_succeeded (hok : s.fail = none) : recordBytes r q s =
    leBytes (s.ent.seqno % 2 ^ 32) 4
    ++ leBytes (s.ent.seqno / 2 ^ 32 % 2 ^ 16 + (if r.cqPhase then 2 ^ 24 else 0)) 4
    ++ leBytes (r.head + q * 2 ^ 16) 4 ++ leBytes 0xFFFFFFFF 4 := by
  cases hphase : r.cqPhase <;> simp [recordBytes, hok, hphase, fld, at_, b2n]

theorem recordBytes_failed (hfail : s.fail = some f) : recordBytes r q s =
    leBytes (s.ent.seqno % 2 ^ 32) 4
    ++ leBytes (s.ent.seqno / 2 ^ 32 % 2 ^ 16 + f.status.code * 2 ^ 16 + (if r.cqPhase then 2 ^ 24 else 0) + f.kind * 2 ^ 25) 4
    ++ leBytes (r.head + q * 2 ^ 16) 4 ++ leBytes (if f.kind = 0 then 0xFFFFFFFF else f.detail) 4 := by
  cases hphase : r.cqPhase <;> simp [recordBytes, hfail, hphase, fld, at_, b2n]

/-- The block in which the record of submission `sid` has gone out under identifier `id`: the completion ring's tail has
moved, and its phase at the wrap. -/
def recordIssued (q sid id : Nat) (r : QueueRec) (b : Block) : Block :=
  let t := (r.cqTail + 1) % 2 ^ r.cqLog2
  modSub q sid (fun s => { s with record := .issued id }) (modQueue q (fun r => { r with
    cqTail := t, cqPhase := if t = 0 then !r.cqPhase else r.cqPhase }) b)

section Writing

variable {id : Nat} {b' : Block}
  (hw : hostWrite (.record q s.sid) ((queueOf b q).cqBase + 16 * (queueOf b q).cqTail) (recordBytes (queueOf b q) q s)
    (some (ctxOf b (q / 6)).ast) b = some (id, b'))
include hw

theorem writeRecord_succeeded (hok : s.fail = none) : writeRecord q s b =
    if s.ent.irq then msix (complVector q) (recordIssued q s.sid id (queueOf b q) b')
    else recordIssued q s.sid id (queueOf b q) b' := by
  simp only [writeRecord, ctxOfQueue, hw, hok, Option.isNone_none, if_true, recordIssued]

theorem writeRecord_failed (hfail : s.fail = some f) : writeRecord q s b =
    if s.halter then msix (4 * (q / 6) + 3) (recordIssued q s.sid id (queueOf b q) b')
    else recordIssued q s.sid id (queueOf b q) b' := by
  simp only [writeRecord, ctxOfQueue, hw, hfail, Option.isNone_some, if_false, recordIssued, errVector, Bool.false_eq_true]

end Writing

theorem cqFull_eq_false (h : (r.cqTail + 1) % 2 ^ r.cqLog2 ≠ r.cqHead) : cqFull r = false := by
  simp [cqFull, h]

section NextRecord

/-- Queue `q` issues records: its records are deliverable, no QUEUE_RESET stops it, and its context is ACTIVE. -/
structure RecordsOpen (b : Block) (q : Nat) : Prop where
  deliverable : (queueOf b q).undeliverable = false
  standing : (queueOf b q).resetting = false
  active : (ctxOf b (q / 6)).state = .active

variable (ho : RecordsOpen b q) (hnext : nextRecord (queueOf (signalDone q b) q) = some s)
include ho hnext

theorem completionRecord_next : completionRecord q b =
    if s.fail.isSome then
      (if subOver (signalDone q b) s.sid && !cqFull (queueOf (signalDone q b) q) then writeRecord q s (signalDone q b)
        else signalDone q b)
    else if s.record == .notNeeded then retire q s.sid (signalDone q b)
    else if !subDone (signalDone q b) s || cqFull (queueOf (signalDone q b) q) then signalDone q b
    else writeRecord q s (signalDone q b) := by
  have hgo : ¬((queueOf b q).undeliverable || (queueOf b q).resetting
      || (ctxOf b (ctxOfQueue q)).state != .active) = true := by
    simp [ho.deliverable, ho.standing, ctxOfQueue, ho.active]
  simp only [completionRecord, if_neg hgo, hnext]

theorem completionRecord_notNeeded (hok : s.fail = none) (hrec : s.record = .notNeeded) :
    completionRecord q b = retire q s.sid (signalDone q b) := by
  simp [completionRecord_next ho hnext, hok, hrec]

variable (hroom : cqFull (queueOf (signalDone q b) q) = false)
include hroom

theorem completionRecord_succeeded (hok : s.fail = none) (hrec : s.record = .pending)
    (hdone : subDone (signalDone q b) s = true) : completionRecord q b = writeRecord q s (signalDone q b) := by
  simp [completionRecord_next ho hnext, hok, hrec, hdone, hroom]

theorem completionRecord_failed (hfail : s.fail = some f) (hover : subOver (signalDone q b) s.sid = true) :
    completionRecord q b = writeRecord q s (signalDone q b) := by
  simp [completionRecord_next ho hnext, hfail, hover, hroom]

end NextRecord

theorem inlineSignal_eq : inlineSignal s b =
    if s.ent.sig = true ∧ s.fail = none then signalFlag s.ent.sigOp s.ent.sigFlag s.ent.sigVal b else b := by
  simp [inlineSignal]

theorem signalSub_done (hrec : s.record = .pending) (hplain : s.ent.complete = false) (hdone : subDone b s = true) :
    signalSub q b s = inlineSignal s (modSub q s.sid (fun s => { s with record := .notNeeded }) b) := by
  simp [signalSub, hrec, hplain, hdone]

theorem signalSub_other (h : s.record ≠ .pending ∨ s.ent.complete = true ∨ subDone b s = false) : signalSub q b s = b := by
  rcases h with h | h | h <;> simp [signalSub, h]

section Answers

/-- The answered write's identifier is free again. -/
def writeTaken (id : Nat) (b : Block) : Block :=
  { b with hub := { b.hub with writes := tset none b.hub.writes (id % 512) none } }

variable {id sid : Nat} {st : BitVec 2}

theorem completionResponse_record (hw : tget none b.hub.writes (id % 512) = some (.record q sid)) :
    completionResponse id st b = recordAnswer q sid st (writeTaken id b) := by
  simp only [completionResponse, takeWrite, hw, writeTaken]

theorem recordAnswer_failed (hsub : subOf b q sid = some s) (hst : st ≠ 0) :
    recordAnswer q sid st b = undeliverable q s b := by
  simp only [recordAnswer, hsub, if_pos hst]

/-- An OK answer makes the record the last one written and retires its submission, which signals if it succeeded. -/
theorem recordAnswer_ok (hsub : subOf b q sid = some s) (hdeliver : (queueOf b q).undeliverable = false)
    (hstand : (queueOf b q).resetting = false) : recordAnswer q sid 0 b =
      retire q sid (inlineSignal s (modQueue q (fun r => { r with lastSeqno := s.ent.seqno })
        (modSub q sid (fun s => { s with record := .delivered }) b))) := by
  simp [recordAnswer, hsub, modSub, hdeliver, hstand]

/-- Queue `q` after the record of its submission `s` could not be delivered: it halts, and tells the SEQNO. -/
def undeliveredHalt (q : Nat) (s : Sub) (b : Block) : Block :=
  modQueue q (fun r => { r with undeliverable := true, failSeqno := s.ent.seqno })
    (enterHalt q .complUndeliverable (modSub q s.sid (fun s => { s with record := .undelivered }) b))

/-- Where the queue has halted before, entering the halt requested no vector and it follows here (R65). -/
theorem undeliverable_eq : undeliverable q s b = report (uccReport 0x18 3 q .complUndeliverable 0xFFFFFFFF)
    (if (queueOf b q).state = .halted then msix (4 * (q / 6) + 3) (undeliveredHalt q s b) else undeliveredHalt q s b) := by
  simp only [undeliverable, errVector, ctxOfQueue, beq_iff_eq, undeliveredHalt]

end Answers

theorem msixRefused_known {vec : Nat} (h : vec < 4 * nContexts b) : msixRefused vec b =
    report (ceReport 0x1A)
      (noteCycle (.msiErr (vec / 4)) (modCtx (vec / 4) (fun c => { c with msiErr := true }) b)) := by
  simp only [msixRefused, if_pos h]

/-- Settles O28: which submission's turn it is, the record that it writes, and what each answer of a write does. -/
theorem completionRecords : Obligations.CompletionRecords := by
  unfold Obligations.CompletionRecords
  refine ⟨?succeeded, ?failed, ?signal, ?answerOk, ?answerFailed, ?refused⟩
  case succeeded =>
    intro b cs q s hs hq d r hdeliver hstand hactive hnext hok
    have row : exec (.completionRecordWrite q) ⟨b, cs⟩ = nextAfter (completionRecord q b) cs := atUnit_work_eq hs hq
    have ho : RecordsOpen b q := ⟨hdeliver, hstand, hactive⟩
    rw [row]
    refine ⟨fun hrec => ?_, fun id b' hrec hdone hroom hw => ?_⟩
    · rw [completionRecord_notNeeded ho hnext hok hrec]
    · rw [← recordBytes_succeeded hok] at hw
      rw [completionRecord_succeeded ho hnext (cqFull_eq_false hroom) hok hrec hdone, writeRecord_succeeded hw hok]
      rfl
  case failed =>
    intro b b' cs q id s f hs hq d r hdeliver hstand hactive hnext hfail hover hroom hw
    have row : exec (.completionRecordWrite q) ⟨b, cs⟩ = nextAfter (completionRecord q b) cs := atUnit_work_eq hs hq
    have ho : RecordsOpen b q := ⟨hdeliver, hstand, hactive⟩
    rw [← recordBytes_failed hfail] at hw
    rw [row, completionRecord_failed ho hnext (cqFull_eq_false hroom) hfail hover, writeRecord_failed hw hfail]
    rfl
  case signal =>
    intro b q s
    refine ⟨fun hrec hplain hok hdone => ?_, signalSub_other⟩
    rw [signalSub_done hrec hplain hdone, inlineSignal_eq]
    simp only [hok, and_true]
  case answerOk =>
    intro b cs id q s hs hw hsub hdeliver hstand
    have row : exec (.completionWriteResponse id 0) ⟨b, cs⟩ = nextAfter (completionResponse id 0 b) cs := work_eq hs
    rw [row, completionResponse_record hw, recordAnswer_ok (b := writeTaken id b) hsub hdeliver hstand, inlineSignal_eq]
    rfl
  case answerFailed =>
    intro b cs id q s st hs hst hw hsub
    have row : exec (.completionWriteResponse id st) ⟨b, cs⟩ = nextAfter (completionResponse id st b) cs := work_eq hs
    rw [row, completionResponse_record hw, recordAnswer_failed (b := writeTaken id b) hsub hst, undeliverable_eq]
    rfl
  case refused =>
    intro b cs vec hs hvec
    have row : exec (.msixRefused vec) ⟨b, cs⟩ = nextAfter (msixRefused vec b) cs := work_eq hs
    rw [row, msixRefused_known hvec]

end Sys2Proof.Machine

/-! ### The start of a submission -/

namespace Sys2Proof.Machine

variable {b : Block} {cs : List Instr} {q : Nat} {s : Sub}

/-- The block in which the submission of `sid` has taken a wait-list entry for each inline wait while one was free (R131). -/
def entriesTaken (q sid : Nat) (b : Block) : Block := takeWaitEntry q sid true (takeWaitEntry q sid false b)

/-- The state of an inline wait as its submission starts (R128): none, satisfied by the flag as it stands, or waiting under
release number `n`. -/
def inlineWaitAt (b : Block) (en : Bool) (cmp flag : Nat) (v : W64) (n : Nat) : InlineWait :=
  if !en then .none else if waitHolds cmp (flagOf b flag) v then .satisfied else .waiting n

theorem submissionStart_takes (hstart : startable none (queueOf b q).subs = some s)
    (hroom : cqFull (queueOf b q) = false) (hdeliver : (queueOf b q).undeliverable = false)
    (hstand : (queueOf b q).resetting = false) (hlease : b.hub.leaseExpired = false) {t : Sub}
    (hsub : subOf (entriesTaken q s.sid b) q s.sid = some t) : submissionStart q b =
      if gained t then startSub q t (entriesTaken q s.sid b) else entriesTaken q s.sid b := by
  have hgo : ¬(cqFull (queueOf b q) || (queueOf b q).undeliverable || (queueOf b q).resetting
      || b.hub.leaseExpired) = true := by simp [hroom, hdeliver, hstand, hlease]
  rw [entriesTaken] at hsub
  simp only [submissionStart, hstart, if_neg hgo, hsub, entriesTaken]

/-- Each inline wait of the entry has its wait-list entry. -/
theorem gained_iff : gained s = true ↔
    (s.ent.wait0 = true → s.wait0 = .entry) ∧ (s.ent.wait1 = true → s.wait1 = .entry) := by
  simp [gained, imp_iff_not_or]

theorem gained_eq_false (h : s.ent.wait0 = true ∧ s.wait0 ≠ .entry ∨ s.ent.wait1 = true ∧ s.wait1 ≠ .entry) :
    gained s = false := by
  rw [← Bool.not_eq_true, gained_iff]
  rintro ⟨h0, h1⟩
  rcases h with ⟨hen, hne⟩ | ⟨hen, hne⟩
  · exact hne (h0 hen)
  · exact hne (h1 hen)

theorem startSub_notAllowed (h : s.ent.wait0 = true ∧ flagAllowed b (q / 6) s.ent.wait0Flag = false
      ∨ s.ent.wait1 = true ∧ flagAllowed b (q / 6) s.ent.wait1Flag = false
      ∨ s.ent.sig = true ∧ flagAllowed b (q / 6) s.ent.sigFlag = false) :
    startSub q s b = checkFail q s.sid .notPermitted 0 0xFFFFFFFF b := by
  have hclosed : ((s.ent.wait0 && !flagAllowed b (q / 6) s.ent.wait0Flag)
      || (s.ent.wait1 && !flagAllowed b (q / 6) s.ent.wait1Flag)
      || (s.ent.sig && !flagAllowed b (q / 6) s.ent.sigFlag)) = true := by simpa [or_assoc] using h
  exact if_pos hclosed

/-- With its pages open and no flag poisoned a submission starts: each inline wait is evaluated and takes a number. -/
theorem startSub_starts
    (h0 : s.ent.wait0 = true → flagAllowed b (q / 6) s.ent.wait0Flag = true ∧ flagBad b s.ent.wait0Flag = false)
    (h1 : s.ent.wait1 = true → flagAllowed b (q / 6) s.ent.wait1Flag = true ∧ flagBad b s.ent.wait1Flag = false)
    (hsig : s.ent.sig = true → flagAllowed b (q / 6) s.ent.sigFlag = true) :
    startSub q s b =
      let n := modSub q s.sid (fun x => { x with
        started := true
        wait0 := inlineWaitAt b s.ent.wait0 s.ent.wait0Cmp s.ent.wait0Flag s.ent.wait0Val b.dep.nextRel
        wait1 := inlineWaitAt b s.ent.wait1 s.ent.wait1Cmp s.ent.wait1Flag s.ent.wait1Val (b.dep.nextRel + 1) }) b
      { n with dep := { n.dep with nextRel := b.dep.nextRel + 2 } } := by
  have hopen : ¬((s.ent.wait0 && !flagAllowed b (q / 6) s.ent.wait0Flag)
      || (s.ent.wait1 && !flagAllowed b (q / 6) s.ent.wait1Flag)
      || (s.ent.sig && !flagAllowed b (q / 6) s.ent.sigFlag)) = true := by
    simp only [Bool.or_eq_true, Bool.and_eq_true, Bool.not_eq_true', not_or, not_and, Bool.not_eq_false]
    exact ⟨⟨fun h => (h0 h).1, fun h => (h1 h).1⟩, hsig⟩
  have hsound : ¬((s.ent.wait0 && flagBad b s.ent.wait0Flag) || (s.ent.wait1 && flagBad b s.ent.wait1Flag)) = true := by
    simp only [Bool.or_eq_true, Bool.and_eq_true, not_or, not_and, Bool.not_eq_true]
    exact ⟨fun h => (h0 h).2, fun h => (h1 h).2⟩
  exact (if_neg hopen).trans (if_neg hsound)

/-- Settles O27: the entries that the submission takes, then the three ways in which it goes on. -/
theorem submissionStarts : Obligations.SubmissionStarts := by
  unfold Obligations.SubmissionStarts
  intro b cs q s hs hq r c hstart hroom hdeliver hstand hlease take held t hsub e
  have row : exec (.submissionStart q) ⟨b, cs⟩ = nextAfter (submissionStart q b) cs := atUnit_work_eq hs hq
  rw [row, submissionStart_takes hstart (cqFull_eq_false hroom) hdeliver hstand hlease hsub]
  refine ⟨fun hwants => ?_, fun h0 h1 hclosed => ?_, fun h0 h1 hopen0 hopen1 hsig => ?_⟩
  · rw [gained_eq_false hwants]
    rfl
  · rw [gained_iff.mpr ⟨h0, h1⟩, if_pos rfl, startSub_notAllowed (b := entriesTaken q s.sid b) hclosed]
    rfl
  · rw [gained_iff.mpr ⟨h0, h1⟩, if_pos rfl, startSub_starts (b := entriesTaken q s.sid b) hopen0 hopen1 hsig]
    rfl

end Sys2Proof.Machine

/-! ### The idle handshake -/

namespace Sys2Proof.Machine

variable {b : Block} {cs : List Instr} {q : Nat}

theorem fetcherRuns_iff {r : QueueRec} : fetcherRuns b r = true ↔
    r.state = .active ∧ b.hub.leaseExpired = false ∧ r.resetting = false := by
  simp [fetcherRuns, and_assoc]

theorem queueWake_pending (hidle : (queueOf b q).state = .idle) (hpending : (queueOf b q).pending = true)
    (hstand : (queueOf b q).resetting = false) :
    queueWake q b = modQueue q (fun r => { r with state := .active, leaseStop := b.hub.leaseExpired }) b := by
  simp [queueWake, hidle, hpending, hstand]

theorem fetcherArm_atCaptured (hruns : fetcherRuns b (queueOf b q) = true) (harmed : (queueOf b q).armed = false)
    (hhead : (queueOf b q).head = (queueOf b q).captured) :
    fetcherArm q b = modQueue q (fun r => { r with armed := true }) b := by
  simp [fetcherArm, hruns, harmed, hhead]

theorem captureRec_eq (r : QueueRec) : captureRec r = { r with
    captured := r.tail, pending := false, armed := false
    state := if r.pending = false ∧ r.head = r.tail then .idle else r.state } := by
  simp [captureRec, eq_comm (a := r.tail)]

theorem fetcherCapture_armed (hruns : fetcherRuns b (queueOf b q) = true) (harmed : (queueOf b q).armed = true) :
    fetcherCapture q b = modQueue q captureRec b := by
  simp [fetcherCapture, hruns, harmed]

/-- Settles O24: the wake, the arming and the capture, each where its condition holds. -/
theorem idleHandshake : Obligations.IdleHandshake := by
  unfold Obligations.IdleHandshake
  intro b cs q hs hq r hstand
  refine ⟨fun hidle hpending => ?_, fun hactive hlease harmed hhead => ?_, fun hactive hlease harmed => ?_⟩
  · have row : exec (.queueWake q) ⟨b, cs⟩ = nextAfter (queueWake q b) cs := atUnit_work_eq hs hq
    rw [row, queueWake_pending hidle hpending hstand]
  · have row : exec (.fetcherArm q) ⟨b, cs⟩ = nextAfter (fetcherArm q b) cs := atUnit_work_eq hs hq
    rw [row, fetcherArm_atCaptured (fetcherRuns_iff.mpr ⟨hactive, hlease, hstand⟩) harmed hhead]
  · have row : exec (.fetcherCapture q) ⟨b, cs⟩ = nextAfter (fetcherCapture q b) cs := atUnit_work_eq hs hq
    rw [row, fetcherCapture_armed (fetcherRuns_iff.mpr ⟨hactive, hlease, hstand⟩) harmed, funext captureRec_eq]

end Sys2Proof.Machine

/-! ### Fetching entries and reading host memory -/

namespace Sys2Proof.Machine

variable {b : Block} {cs : List Instr} {q a : Nat} {it : LineItem}

/-- The queue that needs a demand read first, with the line it needs (R50). -/
def demandNext (b : Block) : Option (Nat × LineItem × Nat) :=
  (b.hub.queues.map (·.1)).findSome? (fun q => (demandOf b (queueOf b q)).map (fun x => (q, x)))

/-- The queue whose turn the prefetch is, with the line it wants (R50). -/
def prefetchNext (b : Block) : Option (Nat × LineItem × Nat) :=
  (prefetchOrder b).findSome? (fun q => (prefetchOf b (queueOf b q)).map (fun x => (q, x)))

/-- The block in which entry `e` at HEAD of queue `q` has joined its submissions, HEAD past it and its line passed (R43). -/
def entryTaken (q : Nat) (e : List Byte) (b : Block) : Block :=
  let r := queueOf b q
  let f := modQueue q (fun x => { x with
    head := (x.head + 1) % 2 ^ x.ringLog2
    subs := x.subs ++ [newSub b.hub.nextSid x.head (.bytes e) (entryOf r.gen2 e)] }) b
  freePassed q .ring (entryAddr r r.head + entrySize r.gen2) { f with hub := { f.hub with nextSid := b.hub.nextSid + 1 } }

theorem fetchEntry_atHand {e : List Byte} (hruns : fetcherRuns b (queueOf b q) = true)
    (harmed : (queueOf b q).armed = false) (hhead : (queueOf b q).head ≠ (queueOf b q).captured)
    (hread : readRange (queueOf b q).lines .ring 2 (entryAddr (queueOf b q) (queueOf b q).head)
      (entrySize (queueOf b q).gen2) = .ok e) : fetchEntry q b = entryTaken q e b := by
  have hgo : ¬(!fetcherRuns b (queueOf b q) || (queueOf b q).head == (queueOf b q).captured
      || (queueOf b q).armed) = true := by simp [hruns, harmed, hhead]
  simp only [fetchEntry, if_neg hgo, hread]
  rfl

theorem prefetchRead_demand (hlines : demandUsed b < 64) (hnext : demandNext b = some (q, it, a)) :
    prefetchRead b = (readLine q it a true b).getD b := by
  rw [demandNext] at hnext
  simp only [prefetchRead, if_pos hlines, hnext]

theorem prefetchRead_prefetch (hnone : demandNext b = none) (hnext : prefetchNext b = some (q, it, a)) :
    prefetchRead b = ((readLine q it a false b).map (servedNext q)).getD b := by
  rw [demandNext] at hnone
  rw [prefetchNext] at hnext
  simp only [prefetchRead, hnone, ite_self, hnext]

theorem readLine_noTag {demand : Bool} (hstale : b.flt.stale = false) (hnone : freeReadTag b = none) :
    readLine q it a demand b = none := by
  simp [readLine, hostRead, hstale, hnone]

section Responses

/-- The answered read's identifier is free again. -/
def readTaken (id : Nat) (b : Block) : Block :=
  { b with hub := { b.hub with reads := tset none b.hub.reads id none } }

variable {id lo i : Nat} {st : BitVec 2} {data : List Byte}

theorem readResponse_line (hread : tget none b.hub.reads id = some (.line q it lo)) :
    readResponse id st data b = lineResponse q it lo st data (readTaken id b) := by
  simp only [readResponse, hread, readTaken]

theorem readResponse_adm (hread : tget none b.hub.reads id = some (.adm i)) :
    readResponse id st data b = admReadAnswer i st data (readTaken id b) := by
  simp only [readResponse, hread, readTaken]

/-- A failed read of a command's buffer is its answer, but for IMAGE_STAGE, which the flash goes on with (R416). -/
theorem admReadAnswer_failed {c : AdmCmd} (hcmd : admOf b i = some c) (hst : st ≠ 0) (hopc : admOpc c.entry ≠ 0x38) :
    admReadAnswer i st data b
      = admReply i (respStatus (st.setWidth 3)) (admSource c.entry c.data).2.2 [] true b := by
  simp only [admReadAnswer, hcmd, if_pos hst, admXfail, if_neg hopc, admBad]

end Responses

/-- Settles O25: the fetch of an entry, the choice of the next read, and what an answer fills or fails. -/
theorem fetchAndReads : Obligations.FetchAndReads := by
  unfold Obligations.FetchAndReads
  refine ⟨?fetch, ?demand, ?prefetch, fun _ _ _ _ => readLine_noTag, ?line, ?buffer⟩
  case fetch =>
    intro b cs q e hs hq r hactive hlease hstand harmed hhead a hread
    have row : exec (.fetchEntry q) ⟨b, cs⟩ = nextAfter (fetchEntry q b) cs := atUnit_work_eq hs hq
    rw [row, fetchEntry_atHand (fetcherRuns_iff.mpr ⟨hactive, hlease, hstand⟩) harmed hhead hread]
    rfl
  case demand =>
    intro b cs q a it hs hlines hnext
    have row : exec .prefetchRead ⟨b, cs⟩ = nextAfter (prefetchRead b) cs := work_eq hs
    rw [row, prefetchRead_demand hlines hnext]
  case prefetch =>
    intro b cs q a it hs hnone hnext
    have row : exec .prefetchRead ⟨b, cs⟩ = nextAfter (prefetchRead b) cs := work_eq hs
    rw [row, prefetchRead_prefetch hnone hnext]
    cases readLine q it a false b <;> rfl
  case line =>
    intro b cs id q lo it st data hs hread
    have row : exec (.hostReadResponse id st data) ⟨b, cs⟩ = nextAfter (readResponse id st data b) cs := work_eq hs
    rw [row, readResponse_line hread]
    rfl
  case buffer =>
    intro b cs id i c st data hs hread hcmd hst hopc
    have row : exec (.hostReadResponse id st data) ⟨b, cs⟩ = nextAfter (readResponse id st data b) cs := work_eq hs
    rw [row, readResponse_adm hread, admReadAnswer_failed (b := readTaken id b) hcmd hst hopc]
    rfl

end Sys2Proof.Machine

/-! ### Doorbells and the service function -/

namespace Sys2Proof.Machine

variable {b : Block} {cs : List Instr} {a : MmioWrite} {q n : Nat}

/-- A full write of a value that a ring of `2 ^ n` entries has, to a queue of an ACTIVE context that is neither DISABLED nor
being reset: what R41 and R67 ask of a doorbell write. -/
theorem bellOk_iff : bellOk b q n a = true ↔ a.be = 0xFF ∧ a.data.toNat < 2 ^ 16 ∧ a.data.toNat < 2 ^ n
    ∧ (ctxOf b (q / 6)).state = .active ∧ (queueOf b q).state ≠ .disabled ∧ (queueOf b q).resetting = false := by
  simp [bellOk, ctxOfQueue, and_assoc]

/-- The row of a doorbell does with a write that HUB takes what BAR2 does with it. -/
theorem effect_bellRow {p : Bar2 → Bool} {x : Bar2} (hopen : hubOpen b = true) (hat : bar2At b a.addr.toNat = some x)
    (hp : p x = true) : effect (bellRow p a) ⟨b, cs⟩ = afterAccess (bar2Write a b) cs := by
  have hrow : bellRow p a b = mmio (.write true a) b := by simp [bellRow, hat, hp]
  rw [effect_eq, hrow, mmio_write2 hopen, afterAccess_eq]

/-- A write to the window of BAR2 that HUB takes. -/
theorem effect_mmio_write2 (hopen : hubOpen b = true) :
    effect (mmio (.write true a)) ⟨b, cs⟩ = afterAccess (bar2Write a b) cs := by
  rw [effect_eq, mmio_write2 hopen, afterAccess_eq]

section Owned

variable (howner : a.fn = true → svcOwns b q = true)
include howner

theorem bar2Write_tail (hat : bar2At b a.addr.toNat = some (.tail q)) : bar2Write a b = tailBell q a b := by
  have hmine : ¬(a.fn && !svcOwns b q) = true := by simpa using howner
  simp only [bar2Write, hat, if_neg hmine]

theorem bar2Write_cqHead (hat : bar2At b a.addr.toNat = some (.cqHead q)) : bar2Write a b = headBell q a b := by
  have hmine : ¬(a.fn && !svcOwns b q) = true := by simpa using howner
  simp only [bar2Write, hat, if_neg hmine]

theorem exec_tailDoorbell (hopen : hubOpen b = true) (hat : bar2At b a.addr.toNat = some (.tail q)) :
    exec (.tailDoorbell a) ⟨b, cs⟩ = afterAccess (tailBell q a b) cs := by
  rw [← bar2Write_tail howner hat]
  exact effect_bellRow hopen hat rfl

theorem exec_cqHeadDoorbell (hopen : hubOpen b = true) (hat : bar2At b a.addr.toNat = some (.cqHead q)) :
    exec (.cqHeadDoorbell a) ⟨b, cs⟩ = afterAccess (headBell q a b) cs := by
  rw [← bar2Write_cqHead howner hat]
  exact effect_bellRow hopen hat rfl

end Owned

theorem bar2Write_reserved (hfn : a.fn = false) (hat : bar2At b a.addr.toNat = none)
    (hpage : a.addr.toNat / 0x1000 < nContexts b) : bar2Write a b = bellDrop (a.addr.toNat / 0x1000) b := by
  simp [bar2Write, hat, hfn, hpage]

/-- Settles O4: each doorbell's row acts if R41 accepts the write and else drops it, as does a write between the doorbells. -/
theorem doorbells : Obligations.Doorbells := by
  unfold Obligations.Doorbells
  refine ⟨?tailAccepted, ?headAccepted, ?tailWrite, ?headWrite, ?reserved⟩
  case tailAccepted =>
    intro b cs a q hopen howner hat hbe h16 hring hactive hstate hstand
    have hok := bellOk_iff.mpr ⟨hbe, h16, hring, hactive, hstate, hstand⟩
    rw [exec_tailDoorbell howner hopen hat, tailBell, if_pos hok]
  case headAccepted =>
    intro b cs a q hopen howner hat hbe h16 hring hactive hstate hstand
    have hok := bellOk_iff.mpr ⟨hbe, h16, hring, hactive, hstate, hstand⟩
    rw [exec_cqHeadDoorbell howner hopen hat, headBell, if_pos hok]
  case tailWrite =>
    intro b cs a q hopen howner hat
    rw [exec_tailDoorbell howner hopen hat, tailBell]
    simp only [bellOk_iff]
    split <;> rfl
  case headWrite =>
    intro b cs a q hopen howner hat
    rw [exec_cqHeadDoorbell howner hopen hat, headBell]
    simp only [bellOk_iff]
    split <;> rfl
  case reserved =>
    intro b cs a hopen hfn hat hpage
    have row : exec (.adminWindowWrite a) ⟨b, cs⟩ = afterAccess (bar2Write a b) cs := effect_mmio_write2 hopen
    rw [row, bar2Write_reserved hfn hat hpage]
    rfl

theorem bar0Write_service (hfn : a.fn = true) : bar0Write a b = strayWrite b := by
  simp [bar0Write, hfn]

/-- The two doorbells of the enabled queue are all that the service function can write. -/
theorem bar2Write_service (hfn : a.fn = true) (hreach : svcReads b true a.addr.toNat = false) :
    bar2Write a b = strayWrite b := by
  simp only [svcReads, Bool.true_and] at hreach
  unfold bar2Write
  cases hat : bar2At b a.addr.toNat with
  | none => simp [hfn]
  | some x =>
    rw [hat] at hreach
    cases x with
    | tail q =>
      have hnot : svcOwns b q = false := hreach
      simp [hfn, hnot]
    | cqHead q =>
      have hnot : svcOwns b q = false := hreach
      simp [hfn, hnot]
    | cmd w => simp [hfn]
    | rpl w => simp [hfn]

theorem acceptRead_service {bar2 : Bool} {x : BitVec 24} {id : BitVec 3} (hreach : svcReads b bar2 x.toNat = false) :
    acceptRead bar2 x true id b = emit (.mmioResp id.toNat 0 true) b := by
  simp [acceptRead, hreach]

theorem mmio_write0 (hopen : hubOpen b = true) : mmio (.write false a) b = wake 1 2 (bar0Write a b) := by
  simp only [hubOpen, Bool.and_eq_true, Bool.not_eq_true'] at hopen
  obtain ⟨⟨⟨hup, hon⟩, hfree⟩, halive⟩ := hopen
  simp [mmio, hup, hon, hfree, acceptMmio, acceptWrite, halive]

theorem mmio_readOpen {bar2 fn : Bool} {x : BitVec 24} {id : BitVec 3} (hopen : hubOpen b = true) :
    mmio (.read bar2 x fn id) b = wake 1 2 (acceptRead bar2 x fn id b) := by
  simp only [hubOpen, Bool.and_eq_true, Bool.not_eq_true', List.isEmpty_iff] at hopen
  obtain ⟨⟨⟨hup, hon⟩, hfree⟩, -⟩ := hopen
  exact mmio_read hup hon hfree

/-- Settles O5: what the service function does not reach it neither writes nor reads. -/
theorem serviceFunction : Obligations.ServiceFunction := by
  unfold Obligations.ServiceFunction
  refine ⟨?bar0, ?window, ?read⟩
  case bar0 =>
    intro b cs a hopen hfn
    have row : exec (.registerWrite a) ⟨b, cs⟩ = nextAfter (mmio (.write false a) b) cs := effect_eq
    rw [row, mmio_write0 hopen, bar0Write_service hfn]
    rfl
  case window =>
    intro b cs a hopen hfn hreach
    have row : exec (.adminWindowWrite a) ⟨b, cs⟩ = afterAccess (bar2Write a b) cs := effect_mmio_write2 hopen
    rw [row, bar2Write_service hfn hreach]
    rfl
  case read =>
    intro b cs bar2 a id hopen hreach
    have row : exec (.registerRead bar2 a true id) ⟨b, cs⟩ = nextAfter (mmio (.read bar2 a true id) b) cs := effect_eq
    rw [row, mmio_readOpen hopen, acceptRead_service hreach]
    rfl

end Sys2Proof.Machine

/-! ### Commands on contexts and queues -/

namespace Sys2Proof.Machine

variable {b : Block} {cs : List Instr} {i : Nat} {e : List Byte}

/-- With PD_SEC ON a command that needs it goes on, and is an event of the domain (R386, R387). -/
theorem needSec_on {f : Block → Block} (hon : domOn b 4 = true) : needSec i f b = wake 4 7 (f b) := by
  simp [needSec, hon]

section Create

variable (hrange : ef e 4 0 8 < nContexts b) (hfree : (ctxOf b (ef e 4 0 8)).state = .free)
include hrange hfree

/-- A tag that is free to use is enabled at the translation unit (R34). -/
theorem ctxCreate_enables (hreserved : ef e 5 0 20 ≠ 0) (hheld : tagHeld b (ef e 5 0 20) = false)
    (hservice : ef e 4 8 1 = 1 → b.hub.svcValid = false) (hon : domOn b 4 = true) (hidle : b.sec.tr = none) :
    ctxCreate i e b = wake 4 7 (trRaise 1 (ef e 5 0 20) (.create (ef e 4 0 8) i) b) := by
  have hsvc : ¬(ef e 4 8 1 = 1 ∧ b.hub.svcValid = true) := fun h => by simp [hservice h.1] at h
  simp [ctxCreate, Nat.not_le.mpr hrange, hfree, hreserved, hheld, hsvc, needSec_on hon, hidle]

theorem ctxCreate_tagRejected (htag : ef e 5 0 20 = 0 ∨ tagHeld b (ef e 5 0 20) = true) :
    ctxCreate i e b = admReply i .badParam 20 [] true b := by
  simp [ctxCreate, Nat.not_le.mpr hrange, hfree, htag, admBad]

end Create

theorem tagHeld_iff {ast : Nat} : tagHeld b ast = true ↔ ∃ c r, (c, r) ∈ b.hub.ctxs ∧ r.state ≠ .free ∧ r.ast = ast := by
  simp [tagHeld]

/-- Settles O16: of the checks of CTX_CREATE that of the tag is the first to fail. -/
theorem tagRejected : Obligations.TagRejected := by
  unfold Obligations.TagRejected
  intro b cs i e hready hrange hfree htag
  have row : exec (.ctxCreate (i % 1024)) ⟨b, cs⟩ = nextAfter (ctxCreate i e (admStarted i b)) cs :=
    adminWork_ready hready
  rw [row, ctxCreate_tagRejected (b := admStarted i b) hrange hfree (htag.imp_right tagHeld_iff.mpr)]

/-- Each of the queues `qs` DISABLED and being reset, with nothing pending. -/
def queuesStopped (qs : List Nat) (b : Block) : Block :=
  qs.foldl (fun b q => modQueue q (fun r => { r with
    state := .disabled, resetting := true, armed := false, pending := false }) b) b

theorem queuesStopped_service (qs : List Nat) (b : Block) : (queuesStopped qs b).hub.svcValid = b.hub.svcValid
    ∧ (queuesStopped qs b).hub.svcCtx = b.hub.svcCtx := by
  induction qs generalizing b with
  | nil => exact ⟨rfl, rfl⟩
  | cons q qs ih => exact ih _

/-- The context leaves ACTIVE with its queues stopped, gives up the service queue where it has it, and its teardown waits
its turn. -/
theorem ctxDestroy_begins (hrange : ef e 4 0 8 < nContexts b) (hactive : (ctxOf b (ef e 4 0 8)).state = .active)
    (hon : domOn b 4 = true) : ctxDestroy i e b =
      let d := queuesStopped (queuesOf (ef e 4 0 8)) (modCtx (ef e 4 0 8) (fun r => { r with state := .tearingDown }) b)
      wake 4 7 { d with
        hub := { d.hub with
          svcQueue := if b.hub.svcValid && b.hub.svcCtx == ef e 4 0 8 then none else d.hub.svcQueue }
        sec := { d.sec with tds := d.sec.tds ++ [{ ctx := ef e 4 0 8, step := 0, adm := i, start := 0, dead := 0
                                                   scrubEnd := 0, slots := [], deferred := false }] } } := by
  have hservice := queuesStopped_service (queuesOf (ef e 4 0 8))
    (modCtx (ef e 4 0 8) (fun r => { r with state := .tearingDown }) b)
  simp only [queuesStopped] at hservice
  simp only [ctxDestroy, if_neg (Nat.not_le.mpr hrange), hactive, bne_self_eq_false, Bool.false_eq_true, if_false,
    needSec_on hon, queuesStopped, hservice, modCtx_hub_svcValid, modCtx_hub_svcCtx]
  split <;> rfl

/-- Settles O15: with PD_SEC ON neither command waits, and each makes its own change. -/
theorem contextCommands : Obligations.ContextCommands := by
  unfold Obligations.ContextCommands
  refine ⟨?create, ?destroy⟩
  case create =>
    intro b cs i e hready hrange hfree hreserved hheld hservice hon hidle
    have row : exec (.ctxCreate (i % 1024)) ⟨b, cs⟩ = nextAfter (ctxCreate i e (admStarted i b)) cs :=
      adminWork_ready hready
    rw [row, ctxCreate_enables (b := admStarted i b) hrange hfree hreserved hheld hservice hon hidle]
    rfl
  case destroy =>
    intro b cs i e hready hrange hactive hon
    have row : exec (.ctxDestroy (i % 1024)) ⟨b, cs⟩ = nextAfter (ctxDestroy i e (admStarted i b)) cs :=
      adminWork_ready hready
    rw [row, ctxDestroy_begins (b := admStarted i b) hrange hactive hon]
    rfl

/-- The global queue that a QUEUE_CONFIG or QUEUE_RESET names. -/
def namedQueue (e : List Byte) : Nat := 6 * ef e 4 0 8 + ef e 4 8 3

theorem exec_queueConfig (hready : admReady b i 0x04 e = true) :
    exec (.queueConfig (i % 1024)) ⟨b, cs⟩ = nextAfter (queueConfig i e (admStarted i b)) cs := adminWork_ready hready

theorem queueConfig_enables (hcheck : queueCheck b e (namedQueue e) = none) (hen : ef e 4 16 1 = 1)
    (hplain : (ctxOf b (namedQueue e / 6)).service = false) : queueConfig i e b = admFinal i .ok
      (modQueue (namedQueue e) (fun r => queueFields e { r with state := .idle, pending := false }) b) := by
  have hctx : (ctxOf (modQueue (namedQueue e) (fun r => queueFields e { r with state := .idle, pending := false }) b)
      (namedQueue e / 6)).service = false := hplain
  rw [namedQueue] at hcheck hctx
  simp [queueConfig, hcheck, hen, hctx, namedQueue]

theorem queueConfig_disables (hcheck : queueCheck b e (namedQueue e) = none) (hen : ef e 4 16 1 = 0) :
    queueConfig i e b = beginReset (namedQueue e) b := by
  rw [namedQueue] at hcheck
  simp [queueConfig, hcheck, hen, namedQueue]

theorem queueReset_begins (hrange : ef e 4 0 8 < nContexts b) (hactive : (ctxOf b (ef e 4 0 8)).state = .active)
    (hqueue : ef e 4 8 3 ≤ 5) (hstate : (queueOf b (namedQueue e)).state ≠ .disabled) :
    queueReset i e b = beginReset (namedQueue e) b := by
  rw [namedQueue] at hstate
  simp [queueReset, Nat.not_le.mpr hrange, hactive, Nat.not_lt.mpr hqueue, hstate, namedQueue]

/-- Settles O17: a QUEUE_CONFIG that passes its checks enables or begins a reset, and so does a QUEUE_RESET. -/
theorem queueCommands : Obligations.QueueCommands := by
  unfold Obligations.QueueCommands
  refine ⟨?enable, ?disable, ?reset⟩
  case enable =>
    intro b cs i e hready q s hcheck hen hplain
    rw [exec_queueConfig hready, queueConfig_enables (b := admStarted i b) hcheck hen hplain]
    rfl
  case disable =>
    intro b cs i e hready q s hcheck hen
    rw [exec_queueConfig hready, queueConfig_disables (b := admStarted i b) hcheck hen]
    rfl
  case reset =>
    intro b cs i e hready q hrange hactive hqueue hstate
    have row : exec (.queueReset (i % 1024)) ⟨b, cs⟩ = nextAfter (queueReset i e (admStarted i b)) cs :=
      adminWork_ready hready
    rw [row, queueReset_begins (b := admStarted i b) hrange hactive hqueue hstate]
    rfl

end Sys2Proof.Machine

/-! ### The rows of packets -/

namespace Sys2Proof.Machine

variable {b : Block} {cs : List Instr} {p : PktRef} {opc : Opc} {o : Op}

theorem relReady_parts (h : relReady b opc p o = true) : serving b = true ∧ p.q < nQueues b
    ∧ releaseOf b opc p = some o ∧ waitFull b o = false ∧ releaseTest b o = none := by
  simpa [relReady, and_assoc] using h

/-- The row of an operation that may be released and passes the tests of every operation has the effect of its opcode. -/
theorem packetRow_ready {f : Op → Block → Block} (h : relReady b opc p o = true) :
    atUnit (decide (p.q < nQueues b)) (work (packetRow opc f p) ⟨b, cs⟩) = nextAfter (f o b) cs := by
  obtain ⟨hs, hq, hrel, hroom, htest⟩ := relReady_parts h
  rw [atUnit_work_eq hs hq]
  simp [packetRow, hrel, hroom, htest]

/-- The row of a wait without a free entry holds it, before any release-time test (R131). -/
theorem packetRow_waitFull {f : Op → Block → Block} (hs : serving b = true) (hq : p.q < nQueues b)
    (hrel : releaseOf b opc p = some o) (hfull : waitFull b o = true) :
    atUnit (decide (p.q < nQueues b)) (work (packetRow opc f p) ⟨b, cs⟩)
      = nextAfter (modOp o.oid (fun o => { o with stage := .held }) b) cs := by
  rw [atUnit_work_eq hs hq]
  simp [packetRow, hrel, hfull]

section Control

variable {s : Sub} {k : Packet} {bs : List Byte}

/-- The row of a control packet that its checks pass launches it. -/
theorem controlRow_ready (h : launchReady b p s k bs = true) (hopc : k.opc = opc) :
    atUnit (decide (p.q < nQueues b)) (work (controlRow opc p) ⟨b, cs⟩) = nextAfter (launchPacket p.q s k bs b) cs := by
  simp only [launchReady, Bool.and_eq_true, decide_eq_true_eq, Bool.not_eq_true', beq_iff_eq, and_assoc] at h
  obtain ⟨hs, hq, hbuf, -, hat, hroom, hpass⟩ := h
  rw [atUnit_work_eq hs hq]
  simp [controlRow, hbuf, launchRow, hat, ctxOfQueue, hroom, hpass, hopc]

/-- The block in which the launch pass of submission `s` has noted and folded packet `k` of bytes `bs` and stands at `l`. -/
def launchedTo (q : Nat) (s : Sub) (k : Packet) (bs : List Byte) (l : Launch) (b : Block) : Block :=
  freePassed q (.buf s.sid) (s.ent.cbAddr + l.pos) (modSub q s.sid (fun x => { x with lch := l })
    (pushFold (q / 6) { kind := 1, ranks := foldRanks b (q / 6) k, body := bs, mark := none }
      (notePacket q s.lch.pos s.ent.seqno bs b)))

/-- A packet that is no operation is noted, folded and passed, and nothing else. -/
theorem launchPacket_control (hctl : k.opc.isOp = false) : launchPacket p.q s k bs b
    = launchedTo p.q s k bs (launchAfter s.lch k s.lch.pos s.ent.cbLen b.dep.nextOid) b := by
  have hturn : k.opc ≠ .launchTurn := fun h => by simp [h, Opc.isOp] at hctl
  have hmark : k.opc ≠ .transcriptMark := fun h => by simp [h, Opc.isOp] at hctl
  simp only [launchPacket, foldLaunch, hctl, beq_false_of_ne hturn, beq_false_of_ne hmark, Bool.false_eq_true, if_false]
  rfl

section After

variable {l : Launch} {off limit oid : Nat}

theorem launchAfter_nop (h : k.opc = .nop) : launchAfter l k off limit oid
    = { l with pos := off + 32 * (k.len + 1), ended := decide (limit ≤ off + 32 * (k.len + 1)) } := by
  simp [launchAfter, h, Opc.isOp, sectAfter]

theorem launchAfter_fence (h : k.opc = .fence) : launchAfter l k off limit oid
    = { l with pos := off + 32 * (k.len + 1), ended := decide (limit ≤ off + 32 * (k.len + 1))
               fences := l.fences ++ [{ off := off, scope := k.scope, sect := l.sect }] } := by
  simp [launchAfter, h, Opc.isOp, sectAfter]

theorem launchAfter_atomicBegin (h : k.opc = .atomicBegin) : launchAfter l k off limit oid
    = { l with pos := off + 32 * (k.len + 1), ended := decide (limit ≤ off + 32 * (k.len + 1)), sect := some off } := by
  simp [launchAfter, h, Opc.isOp, sectAfter]

theorem launchAfter_atomicEnd (h : k.opc = .atomicEnd) : launchAfter l k off limit oid
    = { l with pos := off + 32 * (k.len + 1), ended := decide (limit ≤ off + 32 * (k.len + 1)), sect := none
               sections := l.sections ++ [(l.sect.getD 0, off)] } := by
  simp [launchAfter, h, Opc.isOp, sectAfter]

theorem launchAfter_end (h : k.opc = .endP) : launchAfter l k off limit oid
    = { l with pos := off + 32 * (k.len + 1), ended := true } := by
  simp [launchAfter, h, Opc.isOp, sectAfter]

end After

/-- The row of a control packet moves the launch pass past it. -/
theorem controlRow_launched (h : launchReady b p s k bs = true) (hopc : k.opc = opc) (hctl : opc.isOp = false) :
    atUnit (decide (p.q < nQueues b)) (work (controlRow opc p) ⟨b, cs⟩)
      = nextAfter (launchedTo p.q s k bs (launchAfter s.lch k s.lch.pos s.ent.cbLen b.dep.nextOid) b) cs := by
  subst hopc
  rw [controlRow_ready h rfl, launchPacket_control hctl]

end Control

/-- Settles O29: a control packet is no operation, so that its row only moves the launch pass past it; its opcode says what
the pass then holds. -/
theorem controlPackets : Obligations.ControlPackets := by
  unfold Obligations.ControlPackets
  intro b cs p s k bs h next atEnd after
  refine ⟨fun hopc => (controlRow_launched h hopc rfl).trans ?nop, fun hopc => (controlRow_launched h hopc rfl).trans ?fence,
    fun hopc => (controlRow_launched h hopc rfl).trans ?opens, fun hopc => (controlRow_launched h hopc rfl).trans ?closes,
    fun hopc => (controlRow_launched h hopc rfl).trans ?ends⟩
  case nop =>
    rw [launchAfter_nop hopc]
    rfl
  case fence =>
    rw [launchAfter_fence hopc]
    rfl
  case opens =>
    rw [launchAfter_atomicBegin hopc]
    rfl
  case closes =>
    rw [launchAfter_atomicEnd hopc]
    rfl
  case ends =>
    rw [launchAfter_end hopc]
    rfl

end Sys2Proof.Machine

/-! ### Work for the dispatcher -/

namespace Sys2Proof.Machine

variable {b : Block} {o : Op} {l : LaunchB} {dst len : Nat} {srcWraps : Bool}

theorem relLaunch_body (h : o.pkt.body = .launch l) : relLaunch o b = releaseLaunch o l b := by
  simp only [relLaunch, h]

theorem releaseLaunch_wraps (h : ∃ x ∈ l.ops, 2 ^ 64 < x.1 + x.2) : releaseLaunch o l b = failOp o.oid .xlatFault b := by
  have hany : l.ops.any (fun x => decide (2 ^ 64 < x.1 + x.2)) = true := by simpa using h
  simp only [releaseLaunch, hany, if_true]

section Fits

variable (hfits : ∀ x ∈ l.ops, x.1 + x.2 ≤ 2 ^ 64)
include hfits

theorem releaseLaunch_fits : releaseLaunch o l b =
    if workOf l = 0 then releaseDone o.oid b
    else if 2 ≤ bricksOf l ∧ (mosOf b o.slot).scratchSlots < tileSlots (bricksOf l) then failOp o.oid .noResource b
    else addJob o.oid false (l.gridM * l.gridN * if 2 ≤ bricksOf l then bricksOf l else 1) (bricksOf l)
      (brickLen l.fclass) (markReleased o.oid b) := by
  have hnone : l.ops.any (fun x => decide (2 ^ 64 < x.1 + x.2)) = false := by simpa using hfits
  have htotal : (if 2 ≤ bricksOf l then l.gridM * l.gridN * bricksOf l else l.gridM * l.gridN)
      = l.gridM * l.gridN * if 2 ≤ bricksOf l then bricksOf l else 1 := by
    split <;> simp
  simp only [releaseLaunch, hnone, Bool.false_eq_true, if_false, Bool.and_eq_true, decide_eq_true_eq, htotal]

theorem releaseLaunch_noWork (hwork : workOf l = 0) : releaseLaunch o l b = releaseDone o.oid b := by
  rw [releaseLaunch_fits hfits, if_pos hwork]

theorem releaseLaunch_noScratch (hwork : workOf l ≠ 0) (hsplit : 2 ≤ bricksOf l)
    (hslots : (mosOf b o.slot).scratchSlots < tileSlots (bricksOf l)) :
    releaseLaunch o l b = failOp o.oid .noResource b := by
  rw [releaseLaunch_fits hfits, if_neg hwork, if_pos ⟨hsplit, hslots⟩]

theorem releaseLaunch_job (hwork : workOf l ≠ 0)
    (hslots : 2 ≤ bricksOf l → tileSlots (bricksOf l) ≤ (mosOf b o.slot).scratchSlots) : releaseLaunch o l b =
      addJob o.oid false (l.gridM * l.gridN * if 2 ≤ bricksOf l then bricksOf l else 1) (bricksOf l)
        (brickLen l.fclass) (markReleased o.oid b) := by
  rw [releaseLaunch_fits hfits, if_neg hwork, if_neg fun h => Nat.not_lt.mpr (hslots h.1) h.2]

end Fits

theorem relCopy_body {src : Nat} (h : o.pkt.body = .copy len src dst) :
    relCopy o b = releaseChunks o dst len (decide (2 ^ 64 < src + len)) b := by
  simp only [relCopy, h]

theorem relFill_body {w v : Nat} (h : o.pkt.body = .fill w len dst v) : relFill o b = releaseChunks o dst len false b := by
  simp only [relFill, h]

theorem releaseChunks_empty (hlen : len = 0) : releaseChunks o dst len srcWraps b = releaseDone o.oid b := by
  simp [releaseChunks, hlen]

theorem releaseChunks_wraps (hlen : len ≠ 0) (h : 2 ^ 64 < dst + len ∨ srcWraps = true) :
    releaseChunks o dst len srcWraps b = failOp o.oid .xlatFault b :=
  if_pos ⟨hlen, h⟩

theorem releaseChunks_job (hlen : len ≠ 0) (hdst : dst + len ≤ 2 ^ 64) (hsrc : srcWraps = false) :
    releaseChunks o dst len srcWraps b
      = addJob o.oid true ((dst + len - 1) / 65536 - dst / 65536 + 1) 1 0 (markReleased o.oid b) := by
  have hin : ¬(len ≠ 0 ∧ (2 ^ 64 < dst + len ∨ srcWraps = true)) := by simp [hsrc]; omega
  rw [releaseChunks, if_neg hin, if_neg hlen, chunkCount, if_neg hlen]

/-- Settles O30: the ranges first, then the work, then what a LAUNCH's bricks need. -/
theorem dispatchPackets : Obligations.DispatchPackets := by
  unfold Obligations.DispatchPackets
  refine ⟨?launchWraps, ?launch, ?copy, ?fill⟩
  case launchWraps =>
    intro b cs p o l h hbody hwraps
    refine (packetRow_ready h).trans ?_
    rw [relLaunch_body hbody, releaseLaunch_wraps hwraps]
  case launch =>
    intro b cs p o l h hbody hfits n r
    have row : exec (.launch p) ⟨b, cs⟩ = nextAfter (relLaunch o b) cs := packetRow_ready h
    rw [row, relLaunch_body hbody]
    refine ⟨fun hwork => ?_, fun hwork hsplit hslots => ?_, fun hwork hslots => ?_⟩
    · rw [releaseLaunch_noWork hfits hwork]
      rfl
    · rw [releaseLaunch_noScratch hfits hwork hsplit hslots]
    · rw [releaseLaunch_job hfits hwork hslots]
      rfl
  case copy =>
    intro b cs p o len src dst h hbody r
    have row : exec (.copyPkt p) ⟨b, cs⟩ = nextAfter (relCopy o b) cs := packetRow_ready h
    rw [row, relCopy_body hbody]
    refine ⟨fun hlen => ?_, fun hlen hwraps => ?_, fun hlen hdst hsrc => ?_⟩
    · rw [releaseChunks_empty hlen]
      rfl
    · rw [releaseChunks_wraps hlen (hwraps.imp_right decide_eq_true)]
    · rw [releaseChunks_job hlen hdst (decide_eq_false (Nat.not_lt.mpr hsrc))]
      rfl
  case fill =>
    intro b cs p o w len dst v h hbody r
    have row : exec (.fillPkt p) ⟨b, cs⟩ = nextAfter (relFill o b) cs := packetRow_ready h
    rw [row, relFill_body hbody]
    refine ⟨fun hlen => ?_, fun hlen hwraps => ?_, fun hlen hdst => ?_⟩
    · rw [releaseChunks_empty hlen]
      rfl
    · rw [releaseChunks_wraps hlen (.inl hwraps)]
    · rw [releaseChunks_job hlen hdst rfl]
      rfl

end Sys2Proof.Machine

/-! ### Flags and the packets that name them -/

namespace Sys2Proof.Machine

variable {b : Block} {o : Op} {f c op node a w off : Nat} {x v : W64} {remote : Bool}

/-- The signal operations of R104 by their codes. -/
theorem signalValue_eq (h : op ≤ 4) : signalValue op x v =
    if op = 0 then v else if op = 1 then x + v else if op = 2 then (if x.toNat < v.toNat then v else x)
    else if op = 3 then x ||| v else x &&& ~~~v := by
  match op, h with
  | 0, _ => rfl
  | 1, _ => rfl
  | 2, _ => rfl
  | 3, _ => rfl
  | 4, _ => rfl

/-- Flag `f` is no longer poisoned. -/
def flagMended (f : Nat) (b : Block) : Block :=
  { b with flt := { b.flt with badFlags := b.flt.badFlags.filter (· != f) } }

/-- A SET mends the flag; any other operation on a sound flag reads it. -/
theorem signalFlag_sound (hsound : op ≠ 0 → flagBad b f = false) :
    signalFlag op f v b = setFlag f (signalValue op (flagOf b f) v) (if op = 0 then flagMended f b else b) := by
  by_cases hset : op = 0
  · simp [signalFlag, hset, signalValue, flagMended]
  · simp [signalFlag, hset, hsound hset]

section Waits

theorem relWait_flag (h : o.pkt.body = .waitFlag false f c v a) : relWait o b = releaseWait o f c v b := by
  simp only [relWait, h]

theorem relWait_memory (h : o.pkt.body = .waitFlag true f c v a) : relWait o b = releaseMemWait o a b := by
  simp only [relWait, h]

theorem waitFull_flag (h : o.pkt.body = .waitFlag false f c v a) (hfull : 4096 ≤ waitEntries b) : waitFull b o = true := by
  simp [waitFull, h, hfull]

theorem releaseWait_closed (hpage : flagAllowed b o.ctx f = false) :
    releaseWait o f c v b = failOp o.oid .notPermitted b := by
  simp [releaseWait, hpage]

variable (hpage : flagAllowed b o.ctx f = true)
include hpage

theorem releaseWait_bad (hbad : flagBad b f = true) : releaseWait o f c v b = failOp o.oid .memUncorrected b := by
  simp [releaseWait, hpage, hbad]

variable (hsound : flagBad b f = false)
include hsound

theorem releaseWait_holds (hcmp : waitHolds c (flagOf b f) v = true) : releaseWait o f c v b = releaseDone o.oid b := by
  simp [releaseWait, hpage, hsound, hcmp]

theorem releaseWait_waits (hcmp : waitHolds c (flagOf b f) v = false) :
    releaseWait o f c v b = markReleased o.oid b := by
  simp [releaseWait, hpage, hsound, hcmp]

end Waits

section Signals

theorem relSignal_memory (h : o.pkt.body = .signalFlag true remote f op node v a) :
    relSignal o b = releaseMemSignal o op a v b := by
  simp only [relSignal, h]

/-- A signal of a flag of this chip, named as such or by this chip's node. -/
theorem relSignal_here (h : o.pkt.body = .signalFlag false remote f op node v a)
    (hhere : remote = true → node = b.fab.node) : relSignal o b = releaseSignal o f op v b := by
  have hown : (remote && node != b.fab.node) = false := by
    cases remote with
    | false => rfl
    | true => simp [hhere rfl]
  simp [relSignal, h, hown]

/-- The signal of operation `o` is released and awaits the answer of node `node` to its FLAG_SET. -/
def remoteAwaited (o : Op) (node : Nat) (b : Block) : Block :=
  { markReleased o.oid b with dep := { (markReleased o.oid b).dep with
      nextRelMsg := (b.dep.nextRelMsg + 1) % 2 ^ 32
      remote := (markReleased o.oid b).dep.remote
        ++ [{ node := node, mos := o.slot, rel := b.dep.nextRelMsg, oid := o.oid }] } }

theorem relSignal_elsewhere (h : o.pkt.body = .signalFlag false true f op node v a) (hnode : node ≠ b.fab.node) :
    relSignal o b = sendMos 0x30 (leBytes f 2 ++ leBytes op 1 ++ List.replicate 5 0 ++ leBytes v.toNat 8
      ++ leBytes b.dep.nextRelMsg 4) o.slot node (remoteAwaited o node b) := by
  have haway : (true && node != b.fab.node) = true := by simp [hnode]
  simp only [relSignal, h, haway, if_true]
  rfl

theorem releaseMemSignal_sealed (hsealed : sealedTouch b o.ctx a 8 = true) :
    releaseMemSignal o op a v b = failOp o.oid .notPermitted b := by
  simp [releaseMemSignal, hsealed]

theorem releaseMemSignal_issued {b' : Block} (hopen : sealedTouch b o.ctx a 8 = false)
    (hissue : ddIssue (ddPortOf b o.slot) (.atom o.oid)
      (plainDesc b o.ctx o.slot 6 op none (words64 a ++ [0] ++ words64 v.toNat)) b = some b') :
    releaseMemSignal o op a v b = modOp o.oid (fun o => { o with acks := o.acks + 1 }) (markReleased o.oid b') := by
  simp only [releaseMemSignal, hopen, hissue, Bool.false_eq_true, if_false]

theorem releaseSignal_closed (hpage : flagAllowed b o.ctx f = false) :
    releaseSignal o f op v b = failOp o.oid .notPermitted b := by
  simp [releaseSignal, hpage]

variable (hpage : flagAllowed b o.ctx f = true)
include hpage

theorem releaseSignal_bad (hop : op ≠ 0) (hbad : flagBad b f = true) :
    releaseSignal o f op v b = failOp o.oid .memUncorrected b := by
  simp [releaseSignal, hpage, hop, hbad]

theorem releaseSignal_done (hsound : op ≠ 0 → flagBad b f = false) :
    releaseSignal o f op v b = releaseDone o.oid (signalFlag op f v b) := by
  have hgo : ¬(op ≠ 0 ∧ flagBad b f = true) := fun ⟨hop, hbad⟩ => by simp [hsound hop] at hbad
  simp [releaseSignal, hpage, hgo]

end Signals

section Patches

variable (h : o.pkt.body = .patchFromFlag f w off) (hpage : flagAllowed b o.ctx f = true) (hsound : flagBad b f = false)
include h hpage hsound

theorem relPatch_wide (hwide : 2 ^ (8 * w) ≤ (flagOf b f).toNat) : relPatch o b = failOp o.oid .badParam b := by
  simp [relPatch, h, hpage, hsound, hwide]

theorem relPatch_fits (hfits : (flagOf b f).toNat < 2 ^ (8 * w)) :
    relPatch o b = releaseDone o.oid (modSub o.q o.sid (fun s => { s with
      lch := { s.lch with flagWr := s.lch.flagWr ++ [(off, leBytes (flagOf b f).toNat w)] } }) b) := by
  simp [relPatch, h, hpage, hsound, Nat.not_le.mpr hfits]

end Patches

/-- Settles O31: a wait or signal of a flag is tested for its page, then for its word; one of memory for its range. -/
theorem flagPackets : Obligations.FlagPackets := by
  unfold Obligations.FlagPackets
  refine ⟨?wait, ?waitHeld, ?memoryWait, ?memorySignal, ?remoteSignal, ?signalFails, ?signal, ?patch⟩
  case wait =>
    intro b cs p o f c a v h hbody
    have row : exec (.waitFlag p) ⟨b, cs⟩ = nextAfter (relWait o b) cs := packetRow_ready h
    rw [row, relWait_flag hbody]
    refine ⟨fun hpage => ?_, fun hpage hbad => ?_, fun hpage hsound hcmp => ?_, fun hpage hsound hcmp => ?_⟩
    · rw [releaseWait_closed hpage]
    · rw [releaseWait_bad hpage hbad]
    · rw [releaseWait_holds hpage hsound hcmp]
      rfl
    · rw [releaseWait_waits hpage hsound hcmp]
  case waitHeld =>
    intro b cs p o f c a v hs hq hrel hbody hfull
    exact packetRow_waitFull hs hq hrel (waitFull_flag hbody hfull)
  case memoryWait =>
    intro b cs p o f c a v h hbody
    refine (packetRow_ready h).trans ?_
    rw [relWait_memory hbody, releaseMemWait]
  case memorySignal =>
    intro b cs p o remote f op node a v h hbody
    have row : exec (.signalFlag p) ⟨b, cs⟩ = nextAfter (relSignal o b) cs := packetRow_ready h
    rw [row, relSignal_memory hbody]
    refine ⟨fun hsealed => ?_, fun b' hopen hissue => ?_⟩
    · rw [releaseMemSignal_sealed hsealed]
    · rw [releaseMemSignal_issued hopen hissue]
  case remoteSignal =>
    intro b cs p o f op node a v h hbody hnode
    refine (packetRow_ready h).trans ?_
    rw [relSignal_elsewhere hbody hnode]
    rfl
  case signalFails =>
    intro b cs p o remote f op node a v h hbody hhere
    have row : exec (.signalFlag p) ⟨b, cs⟩ = nextAfter (relSignal o b) cs := packetRow_ready h
    rw [row, relSignal_here hbody hhere]
    refine ⟨fun hpage => ?_, fun hpage hop hbad => ?_⟩
    · rw [releaseSignal_closed hpage]
    · rw [releaseSignal_bad hpage hop hbad]
  case signal =>
    intro b cs p o remote f op node a v h hbody hhere hpage hsound hop
    refine (packetRow_ready h).trans ?_
    rw [relSignal_here hbody hhere, releaseSignal_done hpage hsound, signalFlag_sound hsound, signalValue_eq hop]
    rfl
  case patch =>
    intro b cs p o f w off h hbody hpage hsound
    have row : exec (.patchFromFlag p) ⟨b, cs⟩ = nextAfter (relPatch o b) cs := packetRow_ready h
    rw [row]
    refine ⟨fun hwide => ?_, fun hfits => ?_⟩
    · rw [relPatch_wide hbody hpage hsound hwide]
    · rw [relPatch_fits hbody hpage hsound hfits]
      rfl

end Sys2Proof.Machine

/-! ### Turn loops and sequences -/

namespace Sys2Proof.Machine

variable {b : Block} {o : Op}

/-- The loop of operation `o`'s slot is begun by it, with `turns` turns to go. -/
def loopBegun (o : Op) (turns : Nat) (b : Block) : Block :=
  modLoop o.slot (fun l => { l with oid := some o.oid, left := turns, event := true, failed := [] }) (markReleased o.oid b)

theorem leads_loopBegun (turns k : Nat) : leads (loopBegun o turns b) k = leads b k := rfl

/-- A loop begins at the pool's context where this chip leads the mosaic, and there with turns to run; elsewhere it joins a
turn begun before (R245). -/
theorem relTurn_begins {turns tl ta y z : Nat} (h : o.pkt.body = .launchTurn turns tl ta y z) (hon : domOn b 2 = true)
    (hidle : (loopOf b o.slot).oid = none) (hpool : poolFor b o.slot = true)
    (howner : leads b o.slot = true → poolOwner b o.slot = some o.ctx) (hturns : leads b o.slot = true → turns ≠ 0) :
    relTurn o b = wake 2 6 (if leads (loopBegun o turns b) o.slot then loopBegun o turns b
      else joinTurn o.slot (loopBegun o turns b)) := by
  have hgo : ((loopOf b o.slot).oid.isSome || !poolFor b o.slot
      || (leads b o.slot && poolOwner b o.slot != some o.ctx)) = false := by
    simpa [hidle, hpool] using howner
  have hwork : ¬(turns = 0 ∧ leads b o.slot = true) := fun ⟨hnone, hleads⟩ => hturns hleads hnone
  simp only [relTurn, h, hon, hgo, if_neg hwork, Bool.not_true, Bool.false_eq_true, if_false]
  rfl

section Admits

variable {i pool prio draft pa pl mt : Nat} {stops : List Nat}
  (h : o.pkt.body = .seqAdmit i pool prio draft stops pa pl mt) (hon : domOn b 2 = true) (hleads : leads b o.slot = true)
  (hfree : (seqnOf b i).state = .free)
include h hon hleads hfree

theorem relAdmit_refused (hno : (ringOf b o.ctx).en = false ∨ (poolOf b pool).failed = true) :
    relAdmit o b = wake 2 6 (failOp o.oid .badState b) := by
  have hrefused : (!(ringOf b o.ctx).en || (poolOf b pool).failed) = true := by simpa using hno
  simp [relAdmit, h, hon, hleads, hfree, hrefused]

variable (hring : (ringOf b o.ctx).en = true) (hpool : (poolOf b pool).failed = false)
include hring hpool

theorem relAdmit_empty (hnone : pl = 0 ∨ mt = 0) : relAdmit o b = wake 2 6 (releaseDone o.oid b) := by
  simp [relAdmit, h, hon, hleads, hfree, hring, hpool, hnone]

theorem relAdmit_joins (hprompt : pl ≠ 0) (htokens : mt ≠ 0) : relAdmit o b =
    let s := admitted o prio pool draft stops pa pl mt (loopOf b o.slot).joinCtr
    wake 2 6 (loopEvent o.slot (batPump 64 (releaseDone o.oid
      (modLoop o.slot (fun l => { l with joinCtr := (l.joinCtr + 1) % 2 ^ 32 })
        ((dirWrites s i (poolOf b pool)).foldl (fun b w => batWrite w b) (modSeqn i (fun _ => s) b)))))) := by
  simp [relAdmit, h, hon, hleads, hfree, hring, hpool, hprompt, htokens]

end Admits

theorem relRetire_sets {i : Nat} (h : o.pkt.body = .seqRetire i) (hon : domOn b 2 = true) (htest : seqTest o i b = none) :
    relRetire o b = wake 2 6 (loopEvent o.slot
      (modSeqn i (fun s => { s with retire := true, retOps := s.retOps ++ [o.oid] }) (markReleased o.oid b))) := by
  simp [relRetire, h, hon, htest]

/-- The end of the positions for which a KV_RESERVE of `t` more makes sequence `i` hold pages (R243). -/
def reserveEnd (b : Block) (i t : Nat) : Nat := min ((seqnOf b i).pos + t) (2 ^ 40 - 1)

section Reserves

variable {i t : Nat} (h : o.pkt.body = .kvReserve i t) (hon : domOn b 2 = true) (htest : seqTest o i b = none) (hpos : t ≠ 0)
include h hon htest hpos

theorem relReserve_none (htake : takeFor i (reserveEnd b i t) b = none) :
    relReserve o b = wake 2 6 (failOp o.oid .noResource b) := by
  rw [reserveEnd] at htake
  simp only [relReserve, h, hon, htest, htake, if_neg hpos, Bool.not_true, Bool.false_eq_true, if_false]

theorem relReserve_takes {b' : Block} (htake : takeFor i (reserveEnd b i t) b = some b') :
    relReserve o b = wake 2 6 (loopEvent o.slot (batPump 64 (releaseDone o.oid
      (modSeqn i (fun s => { s with resvEnd := max s.resvEnd (reserveEnd b i t) }) b')))) := by
  rw [reserveEnd] at htake
  simp only [relReserve, h, hon, htest, htake, if_neg hpos, Bool.not_true, Bool.false_eq_true, if_false, reserveEnd]

end Reserves

/-- Settles O33: with PD_BAT ON each packet is an event of the domain and, its release-time tests passed, makes its change. -/
theorem sequencePackets : Obligations.SequencePackets := by
  unfold Obligations.SequencePackets
  refine ⟨?leader, ?member, ?joins, ?refused, ?retire, ?reserve⟩
  case leader =>
    intro b cs p o turns tl ta x y h hbody hon hidle hpool howner hleads hturns
    refine (packetRow_ready h).trans ?_
    rw [relTurn_begins hbody hon hidle hpool (fun _ => howner) (fun _ => hturns), leads_loopBegun, if_pos hleads]
    rfl
  case member =>
    intro b cs p o turns tl ta x y h hbody hon hidle hpool hmember
    have hnot : leads b o.slot ≠ true := by simp [hmember]
    refine (packetRow_ready h).trans ?_
    rw [relTurn_begins hbody hon hidle hpool (absurd · hnot) (absurd · hnot)]
    rfl
  case joins =>
    intro b cs p o i pool prio draft pa pl mt stops h hbody hon hleads hfree hprompt htokens hring hpool
    refine (packetRow_ready h).trans ?_
    rw [relAdmit_joins hbody hon hleads hfree hring hpool hprompt htokens]
    rfl
  case refused =>
    intro b cs p o i pool prio draft pa pl mt stops h hbody hon hleads hfree
    have row : exec (.seqAdmit p) ⟨b, cs⟩ = nextAfter (relAdmit o b) cs := packetRow_ready h
    rw [row]
    refine ⟨fun hno => ?_, fun hring hpool hnone => ?_⟩
    · rw [relAdmit_refused hbody hon hleads hfree hno]
    · rw [relAdmit_empty hbody hon hleads hfree hring hpool hnone]
      rfl
  case retire =>
    intro b cs p o i h hbody hon htest
    refine (packetRow_ready h).trans ?_
    rw [relRetire_sets hbody hon htest]
  case reserve =>
    intro b cs p o i t h hbody hon htest hpos e
    have row : exec (.kvReserve p) ⟨b, cs⟩ = nextAfter (relReserve o b) cs := packetRow_ready h
    rw [row]
    refine ⟨fun htake => ?_, fun b' htake => ?_⟩
    · rw [relReserve_none hbody hon htest hpos htake]
    · rw [relReserve_takes hbody hon htest hpos htake]
      rfl

end Sys2Proof.Machine

/-! ### Collectives, keys and transcripts -/

namespace Sys2Proof.Machine

variable {b : Block} {o : Op}

/-- The run that a COLLECTIVE begins: number `n` of the mosaic of its slot, with no chunk moved. -/
def collBegun (o : Op) (n : Nat) : Coll :=
  { slot := o.slot, n := n, oid := o.oid, chunk := 0, slots := [], cover := 1, phase := 0, todo := []
    busy := 0, move := none, out := 0, loaded := false, stored := false }

/-- The COLLECTIVE of operation `o` is released and counted by its mosaic (R101). -/
def collCounted (o : Op) (b : Block) : Block :=
  modMos o.slot (fun m => { m with coll := m.coll + 1 }) (markReleased o.oid b)

theorem relCollective_begins {a : CollArgs} (hargs : collArgs o = some a) (hctx : (mosOf b o.slot).collCtx = o.ctx)
    (hroot : a.kind = 3 ∨ a.kind = 4 → a.root < (mosOf b o.slot).members.length) : relCollective o b =
      let c := collBegun o ((mosOf b o.slot).coll % 2 ^ 32)
      let r := collCounted o b
      if a.count = 0 then collNone c a r
      else collRun o.oid 64 (collCheck c a { r with fab := { r.fab with colls := r.fab.colls ++ [c] } }) := by
  have hother : ¬((mosOf b o.slot).collCtx ≠ o.ctx) := not_not_intro hctx
  have hranks : ¬((a.kind = 3 ∨ a.kind = 4) ∧ (mosOf b o.slot).members.length ≤ a.root) := fun ⟨hkind, hle⟩ =>
    Nat.not_le.mpr (hroot hkind) hle
  simp only [relCollective, hargs, if_neg hother, if_neg hranks]
  rfl

theorem nChannels_pos : 0 < nChannels b := by
  unfold nChannels
  cases b.fuses.config <;> decide

/-- An operation on the keys of every memory path waits its turn at the sideband, since no chip is without one. -/
theorem ksAdd_memInsts {op : KsOp} {handle : Nat} {args : List Nat} {u : KsUse} {r : Block} :
    ksAdd op handle args (memInsts r) u b = ksPump { b with sec := { b.sec with jobs := b.sec.jobs
      ++ [{ op := op, handle := handle, args := args, insts := memInsts r, issued := false, dead := 0, use := u }] } } := by
  have hsome : ¬(memInsts r).isEmpty = true := by simp [memInsts, nChannels_pos.ne']
  exact if_neg hsome

/-- A binding within the address space that meets none of its context and finds room is recorded and goes to every memory
path. -/
theorem relBind_binds {h base len : Nat} (hbody : o.pkt.body = .keyBind false h base len) (hon : domOn b 4 = true)
    (hloaded : (keyOf b h).state = .loaded) (hlen : len ≠ 0) (hfits : base + len + tagBytes len ≤ 2 ^ 64)
    (hfree : bindOverlaps b o.ctx base len = false) (hmine : (b.sec.bindings.filter (·.handle == h)).length < 8)
    (hroom : b.sec.bindings.length < 4096) : relBind o b = wake 4 7 (ksAdd .bind h [base, len] (memInsts b) (.bindOp o.oid)
      (markReleased o.oid { b with sec := { b.sec with
        bindings := b.sec.bindings ++ [{ ctx := o.ctx, handle := h, base := base, len := len }] } })) := by
  have hspace : ¬(8 ≤ (b.sec.bindings.filter (·.handle == h)).length ∨ 4096 ≤ b.sec.bindings.length) := by omega
  have hrevoking : ((keyOf b h).state == .revoking) = false := by simp [hloaded]
  have hempty : ((keyOf b h).state == .empty) = false := by simp [hloaded]
  simp only [relBind, hbody, hon, hrevoking, hempty, if_neg hlen, if_neg (Nat.not_lt.mpr hfits), hfree, if_neg hspace,
    Bool.not_true, Bool.false_eq_true, if_false]
  rfl

theorem relSeed_body {key : Nat} (hbody : o.pkt.body = .rngSeed key) :
    relSeed o b = releaseDone o.oid { b with sec := { b.sec with skey := tset 0 b.sec.skey o.ctx key } } := by
  simp only [relSeed, hbody]

/-- A mark whose own fold is done and whose descriptors all find tags is released, and awaits its eight answers. -/
theorem relMark_writes {mark dst n : Nat} {d : List Byte} {b' : Block} (hbody : o.pkt.body = .transcriptMark mark dst)
    (hfolded : b.sec.marks.any (·.1 == o.oid) = true) (hchain : tget ([], 0) b.sec.marks o.oid = (d, n))
    (hopen : sealedTouch b o.ctx dst 64 = false)
    (hissue : markWrites o (ddPortOf b o.slot) dst (markWords d n mark) b = some b') :
    relMark o b = modOp o.oid (fun o => { o with acks := 8 }) (markReleased o.oid
      { b' with sec := { b'.sec with marks := terase b'.sec.marks o.oid } }) := by
  simp only [relMark, hbody, hfolded, hchain, hopen, hissue, Bool.not_true, Bool.false_eq_true, if_false]

/-- The marks once record `f` is folded: that of its own TRANSCRIPT_MARK has the chain's digest and count `m` (R114). -/
def marksFolded (f : FoldRec) (m : List Byte × Nat) (marks : Table (List Byte × Nat)) : Table (List Byte × Nat) :=
  match f.mark with
  | some oid => tset ([], 0) marks oid m
  | none => marks

/-- The oldest record of a context is folded after the chain's value, once the CLK_HUB cycle in which it arose is over. -/
theorem foldNext_oldest {c : Nat} {f : FoldRec} {fs : List FoldRec} (hnext : tget [] b.sec.folds c = f :: fs)
    (hon : domOn b 4 = true) (hlater : f.cyc ≠ hubNow b) : foldNext c b =
      let h := tget chainZero b.sec.chains c
      let d := sha384 (h.d ++ foldBytesOf f h.n)
      { b with sec := { b.sec with
        chains := tset chainZero b.sec.chains c { d := d, n := h.n + 1 }, folds := tset [] b.sec.folds c fs
        marks := marksFolded f (d, h.n + 1) b.sec.marks } } := by
  simp only [foldNext, hnext, hon, if_neg hlater, Bool.not_true, Bool.false_eq_true, if_false]
  rfl

/-- Settles O34: each packet, its tests passed, makes its change; FOLD takes the record that heads its context's queue. -/
theorem keyAndTranscriptPackets : Obligations.KeyAndTranscriptPackets := by
  unfold Obligations.KeyAndTranscriptPackets
  refine ⟨?collective, ?bind, ?seed, ?mark, ?fold⟩
  case collective =>
    intro b cs p o a h hargs hctx hroot
    refine (packetRow_ready h).trans ?_
    rw [relCollective_begins hargs hctx hroot]
    rfl
  case bind =>
    intro b cs p o handle base len h hbody hon hloaded hlen hfits hfree hmine hroom
    refine (packetRow_ready h).trans ?_
    rw [relBind_binds hbody hon hloaded hlen hfits hfree hmine hroom, ksAdd_memInsts]
    rfl
  case seed =>
    intro b cs p o key h hbody
    refine (packetRow_ready h).trans ?_
    rw [relSeed_body hbody]
    rfl
  case mark =>
    intro b b' cs p o mark dst n d h hbody hfolded hchain hopen hissue
    refine (packetRow_ready h).trans ?_
    rw [relMark_writes hbody hfolded hchain hopen hissue]
  case fold =>
    intro b cs c f fs hs hc hnext hon hlater
    have row : exec (.fold c) ⟨b, cs⟩ = nextAfter (foldNext c b) cs := atUnit_work_eq hs hc
    rw [row, foldNext_oldest hnext hon hlater]
    rfl

end Sys2Proof.Machine

/-! ### The steps of a context teardown -/

namespace Sys2Proof.Machine

variable {b : Block} {t : Teardown} {ts : List Teardown} {n : Nat}

theorem modTd_cons {f : Teardown → Teardown} (htds : b.sec.tds = t :: ts) :
    modTd f b = { b with sec := { b.sec with tds := f t :: ts } } := by
  simp only [modTd, htds]

section Over

theorem tdOver_begun (hstep : t.step = 0) : tdOver b t = true := by
  simp [tdOver, hstep]

theorem tdOver_sideband (hstep : t.step = 1 ∨ t.step = 5) (hjobs : ∀ j ∈ b.sec.jobs, j.use ≠ .teardown) :
    tdOver b t = true := by
  rcases hstep with h | h <;> simpa [tdOver, h] using hjobs

theorem tdOver_aborted (hstep : t.step = 2) (hbanks : ∀ e ∈ b.seq.seqrs, ∀ k ∈ banksOf e.2, k.ctx ≠ t.ctx) :
    tdOver b t = true := by
  simpa [tdOver, hstep] using hbanks

theorem tdOver_drained (hstep : t.step = 3) (hdrained : drained b t = true) : tdOver b t = true := by
  simpa [tdOver, hstep] using hdrained

theorem tdOver_revoked (hstep : t.step = 4) (hraised : t.dead ≠ 0) (hport : b.sec.tr = none) : tdOver b t = true := by
  simp [tdOver, hstep, hraised, hport]

theorem tdOver_scrubbed (hstep : t.step = 6) (hend : t.scrubEnd ≤ hubNow b) : tdOver b t = true := by
  simpa [tdOver, hstep] using hend

end Over

section Steps

variable (htds : b.sec.tds = t :: ts)
include htds

/-- Step 4 begins with the revoke, which waits for the port. -/
theorem teardownStep_raises (hstep : t.step = 4) (hdead : t.dead = 0) : teardownStep b = tdRevoke t b := by
  simp only [teardownStep, htds, hstep, hdead, and_self, if_true]

/-- A step that is over gives way to the next, but for the drain, whose fences fall first, and the last. -/
theorem teardownStep_enters (hstep : t.step = n) (hover : tdOver b t = true) (hraised : n = 4 → t.dead ≠ 0)
    (hinner : n ≠ 3 ∧ n ≠ 6) : teardownStep b = tdEnter (n + 1) t b := by
  subst hstep
  have hraise : ¬(t.step = 4 ∧ t.dead = 0) := fun h => hraised h.1 h.2
  simp only [teardownStep, htds, if_neg hraise, hover, if_neg hinner.1, if_neg hinner.2, Bool.not_true,
    Bool.false_eq_true, if_false]

theorem teardownStep_drained (hstep : t.step = 3) (hdrained : drained b t = true) :
    teardownStep b = tdEnter 4 t (tdDrainEnd t b) := by
  have hraise : ¬(t.step = 4 ∧ t.dead = 0) := by simp [hstep]
  simp only [teardownStep, htds, if_neg hraise, tdOver_drained hstep hdrained, if_pos hstep, Bool.not_true,
    Bool.false_eq_true, if_false]

theorem teardownStep_scrubbed (hstep : t.step = 6) (hend : t.scrubEnd ≤ hubNow b) : teardownStep b = tdFree t b := by
  have hraise : ¬(t.step = 4 ∧ t.dead = 0) := by simp [hstep]
  have hdrain : ¬t.step = 3 := by simp [hstep]
  simp only [teardownStep, htds, if_neg hraise, tdOver_scrubbed hstep hend, if_neg hdrain, if_pos hstep, Bool.not_true,
    Bool.false_eq_true, if_false]

theorem tdRevoke_free (hport : b.sec.tr = none) : tdRevoke t b = trRaise 0 (ctxOf b t.ctx).ast .teardown
    { b with sec := { b.sec with tds := { t with dead := hubNow b + 2 ^ b.sec.tdLog2 } :: ts } } := by
  simp only [tdRevoke, hport, modTd_cons htds, Option.isSome_none, Bool.false_eq_true, if_false]

end Steps

/-- The last step clears what SEC holds of the context. -/
theorem sec_tdStep6 : (tdStep6 t b).sec =
    let s := (modTd (fun t => { t with scrubEnd := hubNow b + 64 }) b).sec
    { s with chains := tset chainZero s.chains t.ctx chainZero, skey := tset 0 s.skey t.ctx 0
             folds := tset [] s.folds t.ctx [], bindings := s.bindings.filter (·.ctx != t.ctx) } := rfl

theorem ctxOf_tdFree : ctxOf (tdFree t b) t.ctx = ctxZero := by
  simp only [tdFree, ctxOf, hub_admDone]
  split <;> exact ctxOf_modCtx_same _ t.ctx fun _ => ctxZero

/-- The drain bound has run out: SEC notes it, and every mosaic slot that the context used is reported and reset (R348). -/
def drainTimedOut (t : Teardown) (b : Block) : Block :=
  t.slots.foldl (fun b k => startPart k 0x1C none none (report (uccReport 0x1C 5 k .stateLost 0) b))
    (noteCycle .tdTimeout { b with sec := { b.sec with tdTimeout := true } })

theorem drainExpiry_passed (htds : b.sec.tds = t :: ts) (hstep : t.step = 3) (hpast : t.dead < hubNow b)
    (hopen : drained b t = false) (halive : (drainTimedOut t b).flt.stale = false) :
    drainExpiry b = tdEnter 4 t (tdDrainEnd t (drainTimedOut t b)) := by
  have hgo : ¬(t.step ≠ 3 ∨ expired (hubNow b) t.dead = false ∨ drained b t = true) := by
    simp [hstep, hopen, expired, hpast]
  rw [drainExpiry, htds]
  exact (if_neg hgo).trans (if_neg (ne_true_of_eq_false halive))

theorem drainExpiry_none (htds : b.sec.tds = []) : drainExpiry b = b := by
  simp only [drainExpiry, htds]

theorem revokeExpiry_one {r : Revoke} (hrevokes : b.sec.revokes = [r]) (hstep : r.step = 3) (hpast : r.dead < hubNow b) :
    revokeExpiry b
      = revokeRemove r.handle (noteCycle .tdTimeout { b with sec := { b.sec with tdTimeout := true } }) := by
  simp [revokeExpiry, hrevokes, hstep, expired, hpast]

/-- Settles O51: each step begins once that before it is over, the last leaves the context FREE, and the drain bound ends the
wait of a teardown or of a revocation. -/
theorem teardownSteps : Obligations.TeardownSteps := by
  unfold Obligations.TeardownSteps
  refine ⟨?steps, ?free, ?scrub, ?bound, ?revocation⟩
  case steps =>
    intro b cs t ts hs htds at_
    have row : exec .teardownStep ⟨b, cs⟩ = nextAfter (teardownStep b) cs := work_eq hs
    rw [row]
    refine ⟨fun hstep => ?suspend, fun hstep hjobs => ?abort, fun hstep hbanks => ?fence, fun hstep hdrained => ?drain,
      fun hstep hdead hport => ?raise, fun hstep hdead hport => ?remove, fun hstep hjobs => ?scrubs, fun hstep hend => ?last⟩
    case suspend =>
      rw [teardownStep_enters htds hstep (tdOver_begun hstep) nofun (by decide), tdEnter, modTd_cons htds]
      rfl
    case abort =>
      rw [teardownStep_enters htds hstep (tdOver_sideband (.inl hstep) hjobs) nofun (by decide), tdEnter, modTd_cons htds]
    case fence =>
      rw [teardownStep_enters htds hstep (tdOver_aborted hstep hbanks) nofun (by decide), tdEnter, modTd_cons htds]
    case drain =>
      rw [teardownStep_drained htds hstep hdrained]
    case raise =>
      rw [teardownStep_raises htds hstep hdead, tdRevoke_free htds hport]
      rfl
    case remove =>
      rw [teardownStep_enters htds hstep (tdOver_revoked hstep hdead hport) (fun _ => hdead) (by decide), tdEnter,
        modTd_cons htds]
    case scrubs =>
      rw [teardownStep_enters htds hstep (tdOver_sideband (.inr hstep) hjobs) nofun (by decide)]
      simp only [tdEnter, modTd_cons htds]
      rfl
    case last =>
      rw [teardownStep_scrubbed htds hstep hend]
  case free =>
    rintro b t c rfl
    exact ctxOf_tdFree
  case scrub =>
    intro b t r
    have hsec := sec_tdStep6 (b := b) (t := t)
    refine ⟨?_, ?_, ?_, fun x hx => ?_⟩
    · simp only [r, hsec, tget_tset_same]
    · simp only [r, hsec, tget_tset_same]
    · simp only [r, hsec, tget_tset_same]
    · simp only [r, hsec, List.mem_filter, bne_iff_ne] at hx
      exact hx.2
  case bound =>
    intro b cs t ts hs htds hstep hpast hopen w r halive
    have row : exec .teardownDrainExpiry ⟨b, cs⟩ = nextAfter (revokeExpiry (drainExpiry b)) cs := work_eq hs
    rw [row, drainExpiry_passed htds hstep hpast hopen halive]
    rfl
  case revocation =>
    intro b cs r hs htds hrevokes hstep hpast
    have row : exec .teardownDrainExpiry ⟨b, cs⟩ = nextAfter (revokeExpiry (drainExpiry b)) cs := work_eq hs
    rw [row, drainExpiry_none htds, revokeExpiry_one hrevokes hstep hpast]

end Sys2Proof.Machine

/-! ### Satisfied waits, memory polls and the wait-cycle detector -/

namespace Sys2Proof.Machine

variable {b : Block} {o : Op} {w : WcdFirst}

theorem waitComplete_sound {f : Nat} (hsound : flagBad b f = false) :
    waitComplete f b = (satisfiedWaits b f).foldl completeWaiter b := by
  simp [waitComplete, hsound]

/-- A memory wait whose interval has run is read again. -/
theorem mempollExpiry_interval {oid f c a d : Nat} {v : W64} (hop : opOf b oid = some o)
    (hbody : o.pkt.body = .waitFlag true f c v a) (hpoll : o.poll = .interval d) (hpast : d ≤ hubNow b) :
    mempollExpiry oid b = pollStart o a b := by
  simp only [mempollExpiry, hop, hbody, hpoll, if_pos hpast]

section Answers

variable {n tag : Nat} {u : DdUse}

/-- The descriptor of tag `tag` on port `n` is over. -/
def ddTaken (n tag : Nat) (b : Block) : Block := modSeqr n (fun s => { s with dd := tset none s.dd tag none }) b

theorem ddTake_ok (hup : seqUp b n = true) (huse : tget none (seqrOf b n).dd tag = some u) :
    ddTake n tag 0 b = (some (u, 0), ddTaken n tag b) := by
  simp [ddTake, hup, huse, ddTaken]

/-- The poll of operation `oid` has been answered. -/
def pollOver (oid : Nat) (b : Block) : Block := modOp oid (fun o => { o with acks := o.acks - 1, poll := .none }) b

theorem turnFault_plain {oid addr : Nat} {st : BitVec 3} (hop : opOf b oid = some o) (hinst : o.inst = 0) :
    turnFault oid addr st b = b := by
  simp only [turnFault, hop, if_pos hinst]

theorem mempollResponse_ok {oid : Nat} {v : W64} (hup : seqUp b n = true)
    (huse : tget none (seqrOf b n).dd tag = some u) (howner : u.owner = .poll oid) (hop : opOf b oid = some o)
    (hinst : o.inst = 0) : mempollResponse n tag 0 v b = pollAnswer oid 0 v (ddTaken n tag b) := by
  have hfault := turnFault_plain (b := ddTaken n tag b) (addr := u.addr) (st := 0) hop hinst
  simp only [mempollResponse, huse, howner, ddTake_ok hup huse, hfault]

/-- The answer of a good read completes its wait, or has it read again after the interval (R133). -/
theorem pollAnswer_ok {oid c f a : Nat} {m : Bool} {v x : W64} (hop : opOf b oid = some o) (hstage : o.stage = .released)
    (hbody : o.pkt.body = .waitFlag m f c x a) : pollAnswer oid 0 v b = if waitHolds c v x then
      completeOp oid (pollOver oid b)
      else modOp oid (fun o => { o with poll := .interval (hubNow b + b.dep.interval) }) (pollOver oid b) := by
  have hreleased : (o.stage != .released) = false := by simp [hstage]
  simp only [pollAnswer, hop, hreleased, hbody, Bool.false_eq_true, if_false, ne_eq, not_true_eq_false]
  rfl

end Answers

section Detector

variable (hen : b.dep.wcdEnable = true)
include hen

theorem wcdPass_first (hidle : b.dep.first = none) (hsome : candidates b ≠ []) : wcdPass b =
    { b with dep := { b.dep with
      candidate := candidates b
      first := some { d := candidates b
                      flags := ((candidates b).map (fun q => (failWaits b q).map (·.flag))).flatten
                      deadline := hubNow b + wcdCycles b - 1 + b.dep.wcdSettle
                      changed := false, second := none } } } := by
  simp only [wcdPass, hen, hidle, List.isEmpty_iff, if_neg hsome, Option.isSome_none, Bool.not_true, Bool.or_self,
    Bool.false_eq_true, if_false]

variable (hfirst : b.dep.first = some w) (hsame : candidates b = w.d) (hkept : w.changed = false)
include hfirst hsame hkept

theorem wcdSettle_begins (hsecond : w.second = none) (hpast : w.deadline ≤ hubNow b) : wcdSettle b =
    { b with dep := { b.dep with first := some { w with second := some (hubNow b + wcdCycles b - 1) } } } := by
  have hagain : (candidates b == w.d && !w.changed) = true := by simp [hsame, hkept]
  simp only [wcdSettle, hfirst, hen, hsecond, if_neg (Nat.not_lt.mpr hpast), hagain, Bool.not_true, Bool.false_eq_true,
    if_false, if_true]

/-- The set of both passes is found once the second is past its last cycle. -/
theorem wcdFound_second {e : Nat} (hsecond : w.second = some e) (hpast : e < hubNow b) : wcdFound b = some w.d := by
  simp [wcdFound, hfirst, hen, hsecond, expired, hpast, hkept, hsame]

theorem wcdSettle_declares {e : Nat} (hsecond : w.second = some e) (hpast : e < hubNow b) :
    wcdSettle b = wcdDeclare w.d b := by
  have hover : expired (hubNow b) e = true := decide_eq_true hpast
  simp only [wcdSettle, hfirst, hen, hsecond, hover, wcdFound_second hen hfirst hsame hkept hsecond hpast, Bool.not_true,
    Bool.false_eq_true, if_false]

end Detector

/-- Settles O32: the waits that a flag satisfies, the two events of a memory wait, and the passes of the detector. -/
theorem waitProgress : Obligations.WaitProgress := by
  unfold Obligations.WaitProgress
  refine ⟨?waits, ?interval, ?answer, ?first, ?second⟩
  case waits =>
    intro b cs f hs hf hsound
    have row : exec (.waitComplete f) ⟨b, cs⟩ = nextAfter (waitComplete f b) cs := atUnit_work_eq hs hf
    rw [row, waitComplete_sound hsound]
    rfl
  case interval =>
    intro b cs o f c a d v hs hop hbody hpoll hpast
    have row : exec (.mempollIntervalExpiry o.oid) ⟨b, cs⟩ = nextAfter (mempollExpiry o.oid b) cs := work_eq hs
    rw [row, mempollExpiry_interval hop hbody hpoll hpast]
  case answer =>
    intro b cs n tag u o f c a x v hs hn htag hup huse howner hop hstage hinst hbody t
    have row : exec (.mempollResponse n tag 0 v) ⟨b, cs⟩ = nextAfter (mempollResponse n tag 0 v b) cs :=
      (atUnit_eq (by simp [hn, htag])).trans (work_eq hs)
    have hop' : opOf (ddTaken n tag b) o.oid = some o := hop
    rw [row, mempollResponse_ok hup huse howner hop hinst, pollAnswer_ok hop' hstage hbody]
    refine ⟨fun hholds => ?_, fun hfails => ?_⟩
    · rw [if_pos hholds]
      rfl
    · rw [if_neg (ne_true_of_eq_false hfails)]
      rfl
  case first =>
    intro b cs hs hen hidle hsome
    have row : exec .wcdPass ⟨b, cs⟩ = nextAfter (wcdPass b) cs := work_eq hs
    rw [row, wcdPass_first hen hidle hsome]
    rfl
  case second =>
    intro b cs w hs hen hfirst hkept hsame
    have row : exec .wcdSettleExpiry ⟨b, cs⟩ = nextAfter (wcdSettle b) cs := work_eq hs
    rw [row]
    refine ⟨fun hsecond hpast => ?_, fun e hsecond hpast => ?_⟩
    · rw [wcdSettle_begins hen hfirst hsame hkept hsecond hpast]
    · rw [wcdSettle_declares hen hfirst hsame hkept hsecond hpast]
      rfl

end Sys2Proof.Machine

/-! ### Messages of turns, of flags on other chips and of collectives -/

namespace Sys2Proof.Machine

variable {b b' : Block} {k : Nat} {m : SerdoMsg} {t : Turn}

/-- A mosaic message of type `t` that passes R293 does to the block it leaves what its type says. -/
theorem mosRow_eq {cs : List Instr} {port t : Nat} {f : Nat → Block → Block} (h : mosaicReady b port t m k b' = true)
    (hact : m.typ = t → serdoAct port m b = mosGate m f b) :
    atUnit (decide (port < nPorts b)) (live (serdoRow t port m) ⟨b, cs⟩) = afterBeat (f k b') cs := by
  obtain ⟨hrow, htyp, haccept⟩ := mos_ready (cs := cs) h
  rw [hrow, hact htyp, mosGate, haccept]

section Acts

variable {port : Nat}

theorem serdoAct_turnCommit (h : m.typ = 0x28) :
    serdoAct port m b = mosGate m (fun k b => wake 2 6 (takeCommit k m b)) b := by
  simp only [serdoAct, h]

theorem serdoAct_turnArrive (h : m.typ = 0x29) :
    serdoAct port m b = mosGate m (fun k b => wake 2 6 (takeArrive k m b)) b := by
  simp only [serdoAct, h]

theorem serdoAct_turnAbort (h : m.typ = 0x2A) :
    serdoAct port m b = mosGate m (fun k b => wake 2 6 (takeAbort k m b)) b := by
  simp only [serdoAct, h]

theorem serdoAct_turnTokens (h : m.typ = 0x2B) :
    serdoAct port m b = mosGate m (fun k b => wake 2 6 (takeTokens k m b)) b := by
  simp only [serdoAct, h]

theorem serdoAct_flagSet (h : m.typ = 0x30) : serdoAct port m b = mosGate m (fun k b => takeFlagSet k m b) b := by
  simp only [serdoAct, h]

theorem serdoAct_flagReply (h : m.typ = 0x31) : serdoAct port m b = mosGate m (fun k b => takeFlagReply k m b) b := by
  simp only [serdoAct, h]

theorem serdoAct_collStep (h : m.typ = 0x38) : serdoAct port m b = mosGate m (fun k b => takeColl k m b) b := by
  simp only [serdoAct, h]

end Acts

section Turns

/-- A TURN_COMMIT has gone down the tree and a turn in flight that it does not count as committed is dropped (R257). -/
def commitPassed (k : Nat) (m : SerdoMsg) (b : Block) : Block :=
  let s := sendDown 0x28 m.body k b
  if (loopOf s k).turn.any (fun t => decide (bodyNat m 0 8 < t.num)) then dropTurn k s else s

/-- The loop of slot `k` has its number of committed turns from the TURN_COMMIT, and no turn in flight. -/
def commitCounted (k : Nat) (m : SerdoMsg) (b : Block) : Block :=
  modLoop k (fun l => { l with n := bodyNat m 0 8, turn := none, dead := none })
    (turnProgress k (bodyNat m 0 8) (commitPassed k m b))

/-- The turn that a TURN_COMMIT plans, as this chip joins it. -/
def plannedTurn (k : Nat) (m : SerdoMsg) (b : Block) : Turn :=
  { turnZero (bodyNat m 8 8) (bitOf (bodyNat m 16 1) 0) [] with
    published := true, idx := some (bodyNat m 24 8), skey := loopKey b k }

variable (hmember : leads b k = false)
include hmember

theorem takeCommit_plans (hplans : bodyNat m 0 8 < bodyNat m 8 8) : takeCommit k m b =
    let r := commitCounted k m b
    pruneInsts (joinTurn k (modLoop k (fun l => { l with turn := some (plannedTurn k m r) }) r)) := by
  simp only [takeCommit, hmember, if_neg (Nat.not_le.mpr hplans), Bool.false_eq_true, if_false]
  rfl

/-- One that plans no turn ends the loop and with it the LAUNCH_TURN (log entry 14). -/
theorem takeCommit_ends {oid : Nat} (hends : bodyNat m 8 8 ≤ bodyNat m 0 8)
    (hloop : (loopOf (commitCounted k m b) k).oid = some oid) : takeCommit k m b =
    pruneInsts (completeOp oid (modLoop k (fun l => { l with oid := none }) (commitCounted k m b))) := by
  rw [commitCounted, commitPassed] at hloop ⊢
  simp only [takeCommit, hmember, if_pos hends, hloop, Bool.false_eq_true, if_false]

theorem takeAbort_goesOn (hturn : (loopOf b k).turn = some t) (hnum : t.num = bodyNat m 0 8) : takeAbort k m b =
    abortTurn k (if bodyNat m 8 1 = Status.mosaicBroken.code then .lost else .failed .turnAborted)
      (sendAbort k t.num (bodyNat m 8 1) (some m.src) b) := by
  simp [takeAbort, hmember, hturn, hnum]

end Turns

/-- The first TURN_ARRIVE of a child for the turn in flight is noted with the tokens it counts. -/
theorem takeArrive_child (hturn : (loopOf b k).turn = some t) (hnum : t.num = bodyNat m 0 8)
    (hchild : m.src ∈ childNodes b k) (hnew : m.src ∉ t.arrived) : takeArrive k m b =
    stopBarrier k (modLoop k (fun l => { l with turn := some { t with
      arrived := t.arrived ++ [m.src], subToks := t.subToks + bodyNat m 8 4 } }) b) := by
  have hgo : ¬(t.num ≠ bodyNat m 0 8 ∨ (!(childNodes b k).contains m.src) = true ∨ t.arrived.contains m.src = true) := by
    simp [hnum, hchild, hnew]
  simp only [takeArrive, hturn, if_neg hgo]

theorem takeTokens_leader (hleads : leads b k = true) : takeTokens k m b = stopBarrier k
    ((List.range (min 56 (bodyNat m 8 2))).foldl (fun b i => takeOne k (bodyNat m 0 8) m i b) b) := by
  simp only [takeTokens, hleads, Bool.not_true, Bool.false_eq_true, if_false]

section Flags

/-- The page of the flag that a FLAG_SET names. -/
def flagPage (m : SerdoMsg) (b : Block) : PageCfg := tget pageZero b.dep.pages (bodyNat m 0 2 / 256)

/-- The answer to a FLAG_SET: performed, or refused. -/
def flagAnswer (k : Nat) (m : SerdoMsg) (refused : Nat) (b : Block) : Block :=
  sendMos 0x31 (leBytes (bodyNat m 16 4) 4 ++ leBytes refused 1) k m.src b

theorem takeFlagSet_open (hremote : (flagPage m b).remote = true) (hslot : (flagPage m b).slot = k) :
    takeFlagSet k m b = flagAnswer k m 0
      (signalFlag (bodyNat m 2 1) (bodyNat m 0 2) (BitVec.ofNat 64 (bodyNat m 8 8)) b) := by
  have hok : ((flagPage m b).remote && (flagPage m b).slot == k) = true := by simp [hremote, hslot]
  rw [flagPage] at hok
  simp only [takeFlagSet, hok, if_true]
  rfl

theorem takeFlagSet_closed (hno : (flagPage m b).remote = false ∨ (flagPage m b).slot ≠ k) :
    takeFlagSet k m b = flagAnswer k m 1 { b with dep := { b.dep with remoteDrop := satAdd 32 b.dep.remoteDrop 1 } } := by
  have hok : ((flagPage m b).remote && (flagPage m b).slot == k) = false := by
    rcases hno with h | h <;> simp [h]
  rw [flagPage] at hok
  simp only [takeFlagSet, hok, Bool.false_eq_true, if_false]
  rfl

theorem takeFlagReply_awaited {x : RemoteSig} (hawaited : b.dep.remote.find?
      (fun r => r.mos == k && r.node == m.src && r.rel == bodyNat m 0 4) = some x) : takeFlagReply k m b =
    let r : Block := { b with dep := { b.dep with remote := b.dep.remote.filter (· != x) } }
    if bodyNat m 4 1 = 0 then completeOp x.oid r else failRemote x.oid .notPermitted r := by
  simp only [takeFlagReply, hawaited]

end Flags

section Collectives

/-- The step that a COLL_STEP on slot `k` tells of. -/
def collMsgOf (k : Nat) (m : SerdoMsg) : CollMsg :=
  { slot := k, n := bodyNat m 0 4, kind := bodyNat m 4 1, rop := bodyNat m 5 1, fmt := bodyNat m 6 1
    count := bodyNat m 8 5, root := bodyNat m 14 2, chunk := bodyNat m 16 4, node := bodyNat m 20 2 }

/-- A COLL_STEP is kept for its collective. -/
def collKept (k : Nat) (m : SerdoMsg) (b : Block) : Block :=
  { b with fab := { b.fab with collMsgs := b.fab.collMsgs ++ [collMsgOf k m] } }

/-- The run of the collective that a COLL_STEP names. -/
def collNamed (k : Nat) (m : SerdoMsg) (b : Block) : Option Coll :=
  b.fab.colls.find? (fun c => c.slot == k && c.n == bodyNat m 0 4)

theorem takeColl_none (hnone : collNamed k m b = none) : takeColl k m b =
    if collPast b k (bodyNat m 0 4) then collLate k (collMsgOf k m) b else collKept k m b := by
  rw [collNamed] at hnone
  simp only [takeColl, hnone]
  rfl

theorem takeColl_runs {c : Coll} {a : CollArgs} (hsome : collNamed k m b = some c) (hlive : collLive b c.oid = true)
    (hargs : (opOf b c.oid).bind collArgs = some a) :
    takeColl k m b = collRun c.oid 64 (collCheck c a (collKept k m b)) := by
  have hargs' : (opOf (collKept k m b) c.oid).bind collArgs = some a := hargs
  rw [collNamed] at hsome
  rw [collKept, collMsgOf] at hargs' ⊢
  simp only [takeColl, hsome, hlive, hargs', Bool.not_true, Bool.false_eq_true, if_false]

end Collectives

/-- Settles O49: each message, passed for its slot, does what its type says of the block it leaves. -/
theorem turnAndFlagMessages : Obligations.TurnAndFlagMessages := by
  unfold Obligations.TurnAndFlagMessages
  refine ⟨?commit, ?arrive, ?abort, ?tokens, ?flagSet, ?flagReply, ?collStep⟩
  case commit =>
    intro b b' cs port k m h hmember s s' r
    have row : exec (.turnCommit port m) ⟨b, cs⟩ = afterBeat (wake 2 6 (takeCommit k m b')) cs :=
      (mosRow_eq h serdoAct_turnCommit :)
    rw [row]
    refine ⟨fun hplans => ?_, fun oid hends hloop => ?_⟩
    · rw [takeCommit_plans hmember hplans]
      rfl
    · rw [takeCommit_ends hmember hends hloop]
      rfl
  case arrive =>
    intro b b' cs port k m t h hturn hnum hchild hnew t'
    have row : exec (.turnArrive port m) ⟨b, cs⟩ = afterBeat (wake 2 6 (takeArrive k m b')) cs :=
      (mosRow_eq h serdoAct_turnArrive :)
    rw [row, takeArrive_child hturn hnum hchild hnew]
  case abort =>
    intro b b' cs port k m t h hturn hnum hmember
    have row : exec (.turnAbort port m) ⟨b, cs⟩ = afterBeat (wake 2 6 (takeAbort k m b')) cs :=
      (mosRow_eq h serdoAct_turnAbort :)
    rw [row, takeAbort_goesOn hmember hturn hnum]
  case tokens =>
    intro b b' cs port k m h hleads
    have row : exec (.turnTokens port m) ⟨b, cs⟩ = afterBeat (wake 2 6 (takeTokens k m b')) cs :=
      (mosRow_eq h serdoAct_turnTokens :)
    rw [row, takeTokens_leader hleads]
  case flagSet =>
    intro b b' cs port k m h f g answer
    have row : exec (.flagSet port m) ⟨b, cs⟩ = afterBeat (takeFlagSet k m b') cs := (mosRow_eq h serdoAct_flagSet :)
    rw [row]
    refine ⟨fun hremote hslot => ?_, fun hno => ?_⟩
    · rw [takeFlagSet_open hremote hslot]
      rfl
    · rw [takeFlagSet_closed hno]
      rfl
  case flagReply =>
    intro b b' cs port k m x h hawaited r
    have row : exec (.flagReply port m) ⟨b, cs⟩ = afterBeat (takeFlagReply k m b') cs := (mosRow_eq h serdoAct_flagReply :)
    rw [row, takeFlagReply_awaited hawaited]
  case collStep =>
    intro b b' cs port k m h x r
    have row : exec (.collStep port m) ⟨b, cs⟩ = afterBeat (takeColl k m b') cs := (mosRow_eq h serdoAct_collStep :)
    rw [row]
    refine ⟨fun hnone hahead => ?_, fun hnone hpast => ?_, fun c a hsome hlive hargs => ?_⟩
    · rw [takeColl_none hnone, if_neg (ne_true_of_eq_false hahead)]
      rfl
    · rw [takeColl_none hnone, if_pos hpast]
      rfl
    · rw [takeColl_runs hsome hlive hargs]
      rfl

end Sys2Proof.Machine

/-! ### Fault reports, watchdogs, partition resets and the lease -/

namespace Sys2Proof.Machine

variable {b : Block} {r : Report}

section Reports

/-- The error count of a source once report `r` is counted. -/
def errorsAfter (r : Report) (b : Block) : Nat := satAdd 32 (tget srcZero b.flt.srcs r.src).errors 1

/-- Report `r` is counted at its source, which is ACTIVE for its quiet period (R359). -/
def srcCounted (r : Report) (b : Block) : Block :=
  let w : Src := { tget srcZero b.flt.srcs r.src with
    active := true, cls := r.cls, scope := r.scope, errors := errorsAfter r b, dead := hubNow b + 2 ^ b.flt.quietLog2 }
  { b with flt := { b.flt with srcs := tset srcZero b.flt.srcs r.src w, lastSrc := r.src } }

/-- The class bit of report `r` rises with a source that was QUIET (R360). -/
def summaryRaised (r : Report) (b : Block) : Block :=
  if (tget srcZero b.flt.srcs r.src).active then srcCounted r b else sumSet r.cls (srcCounted r b)

theorem summaryRaised_active (hactive : (tget srcZero b.flt.srcs r.src).active = true) :
    summaryRaised r b = srcCounted r b := if_pos hactive

theorem summaryRaised_quiet (hquiet : (tget srcZero b.flt.srcs r.src).active = false) :
    summaryRaised r b = sumSet r.cls (srcCounted r b) := if_neg (ne_true_of_eq_false hquiet)

theorem summaryRaised_ftl (hcls : r.cls = .ftl) : summaryRaised r b = srcCounted r b := by
  rw [summaryRaised, hcls]
  exact ite_self _

theorem stale_summaryRaised : (summaryRaised r b).flt.stale = b.flt.stale := by
  unfold summaryRaised
  split
  · rfl
  · exact sumSet_stale _ _

theorem report_stale (hstale : b.flt.stale = true) : report r b = summaryRaised r b :=
  if_pos (stale_summaryRaised.trans hstale)

theorem bat_summaryRaised_ce (hcls : r.cls = .ce) : (summaryRaised r b).bat = b.bat := by
  unfold summaryRaised
  split
  · rfl
  · rw [hcls, bat_sumSet]
    rfl

section Alive

variable (halive : b.flt.stale = false)
include halive

theorem report_alive : report r b =
    let t := if r.cls == .ftl then enterStalemate (staleReason r.src) r.src (summaryRaised r b) else summaryRaised r b
    if r.cls == .ce && (tget srcZero b.flt.srcs r.src).active then t
    else logWrite (logRecord t { r with forced := r.forced || b.flt.forcing == r.src + 1 } (errorsAfter r b)) t :=
  if_neg (ne_true_of_eq_false (stale_summaryRaised.trans halive))

/-- A CE leaves the turn loops, sequences and pools alone. -/
theorem bat_report_ce (hcls : r.cls = .ce) : (report r b).bat = b.bat := by
  have hentry : (r.cls == .ftl) = false := by simp [hcls]
  rw [report_alive halive, hentry]
  dsimp only
  split
  · exact bat_summaryRaised_ce hcls
  · exact bat_summaryRaised_ce hcls

/-- A CE of a source that was ACTIVE already writes no record (R361). -/
theorem report_repeated (hcls : r.cls = .ce) (hactive : (tget srcZero b.flt.srcs r.src).active = true) :
    report r b = srcCounted r b := by
  have hentry : (r.cls == .ftl) = false := by simp [hcls]
  have hsilent : (r.cls == .ce && (tget srcZero b.flt.srcs r.src).active) = true := by simp [hcls, hactive]
  rw [report_alive halive, hentry, hsilent, summaryRaised_active hactive]
  rfl

variable (hforcing : b.flt.forcing = 0)
include hforcing

theorem report_unforced (hloud : (r.cls == .ce && (tget srcZero b.flt.srcs r.src).active) = false) : report r b =
    let t := if r.cls == .ftl then enterStalemate (staleReason r.src) r.src (summaryRaised r b) else summaryRaised r b
    logWrite (logRecord t r (errorsAfter r b)) t := by
  have hforced : (r.forced || b.flt.forcing == r.src + 1) = r.forced := by simp [hforcing]
  rw [report_alive halive, hloud, hforced]
  rfl

theorem report_recorded (hcls : r.cls ≠ .ftl) (hnew : r.cls = .ce → (tget srcZero b.flt.srcs r.src).active = false) :
    report r b = logWrite (logRecord (summaryRaised r b) r (errorsAfter r b)) (summaryRaised r b) := by
  have hloud : (r.cls == .ce && (tget srcZero b.flt.srcs r.src).active) = false := by simpa using hnew
  rw [report_unforced halive hforcing hloud, beq_false_of_ne hcls]
  rfl

/-- A fatal report enters stalemate, then writes its record (R370). -/
theorem report_fatal (hcls : r.cls = .ftl) : report r b =
    let t := enterStalemate (staleReason r.src) r.src (srcCounted r b)
    logWrite (logRecord t r (errorsAfter r b)) t := by
  have hloud : (r.cls == .ce && (tget srcZero b.flt.srcs r.src).active) = false := by simp [hcls]
  have hentry : (r.cls == .ftl) = true := by simp [hcls]
  rw [report_unforced halive hforcing hloud, hentry, summaryRaised_ftl hcls]
  rfl

end Alive

end Reports

section Summary

theorem flt_msix (v : Nat) (b : Block) : (msix v b).flt = b.flt := by
  unfold msix
  split <;> rfl

/-- The class bit of CEs is set. -/
def ceSet (b : Block) : Block := { b with flt := { b.flt with sumCe := true } }

/-- The class bit of UCCs is set. -/
def uccSet (b : Block) : Block := { b with flt := { b.flt with sumUcc := true } }

theorem sumSet_ce : sumSet .ce b = if !b.flt.sumCe && b.flt.ceIrq then msix 1025 (ceSet b) else ceSet b := rfl

theorem sumSet_ucc : sumSet .ucc b = if !b.flt.sumUcc then msix 1025 (uccSet b) else uccSet b := rfl

theorem sumCe_sumSet : (sumSet .ce b).flt.sumCe = true := by
  rw [sumSet_ce]
  split
  · rw [flt_msix]
    rfl
  · rfl

theorem sumUcc_sumSet : (sumSet .ucc b).flt.sumUcc = true := by
  rw [sumSet_ucc]
  split
  · rw [flt_msix]
    rfl
  · rfl

theorem sumSet_ce_again (hset : b.flt.sumCe = true) : sumSet .ce b = b := by
  have hsame : ceSet b = b := by rw [ceSet, ← hset]
  simp [sumSet_ce, hset, hsame]

theorem sumSet_ucc_again (hset : b.flt.sumUcc = true) : sumSet .ucc b = b := by
  have hsame : uccSet b = b := by rw [uccSet, ← hset]
  simp [sumSet_ucc, hset, hsame]

end Summary

section Entry

variable {reason src : Nat} (halive : b.flt.stale = false)
include halive

theorem enterStalemate_flt : (enterStalemate reason src b).flt = { b.flt with
    stale := true, reason := reason, src := src, entry := refNow b % 2 ^ 32
    stalemates := satAdd 16 b.flt.stalemates 1, fatalPin := true, parts := [], freshDue := true
    capDue := if stalemateCapture b then some { reason := reason, src := src, slot := 0 } else b.flt.capDue
    dumpValid := if stalemateCapture b then false else b.flt.dumpValid } := by
  rw [enterStalemate, halive]
  exact (staleReplies_keep _).1.trans (staleHeld_keep _).1

theorem keysGone_enterStalemate : keysGone (enterStalemate reason src b) = true := by
  have hsec : (enterStalemate reason src b).sec = (secWipe b).sec := by
    rw [enterStalemate, halive]
    exact (staleReplies_keep _).2.trans (staleHeld_keep _).2
  rw [keysGone, hsec]
  rfl

end Entry

theorem quietExpiry_past {s : Nat} (hactive : (tget srcZero b.flt.srcs s).active = true)
    (hpast : (tget srcZero b.flt.srcs s).dead < hubNow b) : quietExpiry s b =
    let r := tget srcZero b.flt.srcs s
    { b with flt := { b.flt with
      srcs := tset srcZero b.flt.srcs s { r with active := false, recov := satAdd 16 r.recov 1 } } } := by
  simp [quietExpiry, hactive, expired, hpast]

section Watchdog

variable {q : Nat}

/-- A submission with an inline wait outstanding is what the halt with HANG names (R366). -/
theorem hangHalt_inline {s : Sub} (hfind : (queueOf b q).subs.find?
      (fun s => s.fail.isNone && (inlineWaits s || (opsOfSub b s.sid).any Op.live)) = some s)
    (hinline : inlineWaits s = true) : hangHalt q b = report (uccReport 0x15 3 q .hang 0xFFFFFFFF)
      (failSub q s.sid { status := .hang, kind := 0, detail := 0xFFFFFFFF } b) := by
  simp only [hangHalt, hfind, hinline]

variable (hen : b.flt.wdEn = true) (howes : owes b q = true) (hpast : 2 ^ b.flt.wdLog2 < tget 0 b.flt.wd q)
include hen howes hpast

theorem watchdog_past : (!b.flt.wdEn || !owes b q || decide (tget 0 b.flt.wd q ≤ 2 ^ b.flt.wdLog2)) = false := by
  simpa [hen, howes] using hpast

theorem hangExpiry_declares {d : List Nat} (hfound : wcdFound b = some d) (hmem : q ∈ d) :
    hangExpiry q b = wcdDeclare d b := by
  have hnamed : (wcdFound b).filter (·.contains q) = some d := by simp [hfound, Option.filter, hmem]
  simp only [hangExpiry, watchdog_past hen howes hpast, hnamed, Bool.false_eq_true, if_false]

theorem hangExpiry_halts (hnone : ∀ d, wcdFound b = some d → q ∉ d) :
    hangExpiry q b = progress q (hangHalt q b) := by
  have hother : (wcdFound b).filter (·.contains q) = none := by simpa [Option.filter_eq_none_iff] using hnone
  simp only [hangExpiry, watchdog_past hen howes hpast, hother, Bool.false_eq_true, if_false]

end Watchdog

section Partition

variable {k : Nat} {p : PartRst}

/-- The partition reset of slot `k` begins its next step. -/
def partNext (k : Nat) (b : Block) : Block := modPart k (fun p => { p with step := p.step + 1 }) b

theorem partOver_passes (hstep : p.step = 2) (hnone : noPasses b k = true) : partOver b k p = true := by
  simpa [partOver, hstep] using hnone

theorem partOver_lanes (hstep : p.step = 3) (hnone : p.lanes = []) : partOver b k p = true := by
  simp [partOver, hstep, hnone]

theorem partOver_scrub (hstep : p.step = 5) (hranges : p.ranges = []) (hout : p.out = 0) : partOver b k p = true := by
  simp [partOver, hstep, hranges, hout]

/-- The other steps are over as they begin. -/
theorem partOver_other (hstep : p.step ≠ 2 ∧ p.step ≠ 3 ∧ p.step ≠ 5) : partOver b k p = true := by
  obtain ⟨h2, h3, h5⟩ := hstep
  unfold partOver
  split
  · contradiction
  · contradiction
  · contradiction
  · rfl

/-- What the next step does once step `n` is over (R367). -/
def partBegins (n k : Nat) (p : PartRst) (b : Block) : Block :=
  match n with
  | 1 => partStep2 k p b
  | 2 => partStep3 k b
  | 3 => partStep4 k p b
  | 4 => partStep5 k b
  | 5 => partStep6 k b
  | _ => partStep7 k p b

theorem partStep_over {n : Nat} (hpart : tget none b.flt.parts k = some p) (hstep : p.step = n)
    (hover : partOver b k p = true) : partStep k b = partBegins n k p (partNext k b) := by
  subst hstep
  rw [partStep, hpart]
  exact if_neg (by simp [hover])

end Partition

/-- The collector's own fault counts at its source and enters stalemate with reason SELF, then the record is written, with no
class bit and no LAST_SRC (R364). -/
theorem selfFault_alive (halive : b.flt.stale = false) (hforcing : b.flt.forcing = 0) : selfFault b =
    let s := tget srcZero b.flt.srcs 0x3F
    let errors := satAdd 32 s.errors 1
    let w : Src := { s with
      active := true, cls := .ftl, scope := 6, errors := errors, dead := hubNow b + 2 ^ b.flt.quietLog2 }
    let t := enterStalemate 2 0x3F { b with flt := { b.flt with srcs := tset srcZero b.flt.srcs 0x3F w } }
    logWrite (logRecord t (ftlReport 0x3F) errors) t := by
  simp only [selfFault, halive, hforcing, Bool.false_eq_true, if_false]
  rfl

/-- Every queue is stopped by the lease, and the expiry is counted (R374). -/
def leaseStopped (b : Block) : Block :=
  { b with
    hub := { b.hub with
      leaseExpired := true, queues := tmap queueZero b.hub.queues (fun _ r => { r with leaseStop := true }) }
    flt := { b.flt with leaseDead := none, expiries := satAdd 16 b.flt.expiries 1 } }

theorem leaseExpiry_noLoops {d : Nat} (hdead : b.flt.leaseDead = some d) (hpast : d < refNow b)
    (halive : b.flt.stale = false) (hloops : b.bat.loops = []) :
    leaseExpiry b = report (ceReport 0x1F) (leaseStopped b) := by
  have hdue : due (refNow b) b.flt.leaseDead = true := by simp [hdead, due, expired, hpast]
  have hnone : (report (ceReport 0x1F) (leaseStopped b)).bat.loops = [] := by
    rw [bat_report_ce (b := leaseStopped b) halive rfl]
    exact hloops
  rw [leaseStopped] at hnone ⊢
  simp only [leaseExpiry, hdue, if_true, leaseExpired, hnone, List.map_nil, List.foldl_nil]

theorem alive_of_running (h : running b = true) : b.flt.stale = false := by
  simp only [running, Bool.and_eq_true, Bool.not_eq_true'] at h
  exact h.2

/-- Settles O52: what a report does by its class and its source's state, then the timers and steps of FLT. -/
theorem faultCommands : Obligations.FaultCommands := by
  unfold Obligations.FaultCommands
  refine ⟨?reports, ?summary, ?entry, ?entropy, ?quiet, ?hang, ?cycle, ?partition, ?self, ?lease⟩
  case reports =>
    intro b r s hforcing hplain hs errors w c
    subst hs
    refine ⟨fun hstale hactive => ?_, fun hstale hquiet => ?_, fun halive hcls hactive => ?_,
      fun halive hcls hquiet => ?_, fun halive hcls hactive => ?_, fun halive hcls hquiet => ?_, fun halive hcls => ?_⟩
    · rw [report_stale hstale, summaryRaised_active hactive]
      rfl
    · rw [report_stale hstale, summaryRaised_quiet hquiet]
      rfl
    · rw [report_repeated halive hcls hactive]
      rfl
    · rw [report_recorded halive hforcing (by simp [hcls]) (fun _ => hquiet), summaryRaised_quiet hquiet, hcls]
      rfl
    · rw [report_recorded halive hforcing (by simp [hcls]) (by simp [hcls]), summaryRaised_active hactive]
      rfl
    · rw [report_recorded halive hforcing (by simp [hcls]) (fun _ => hquiet), summaryRaised_quiet hquiet, hcls]
      rfl
    · rw [report_fatal halive hforcing hcls]
      rfl
  case summary =>
    intro b
    refine ⟨sumCe_sumSet, sumUcc_sumSet, sumSet_ce_again, sumSet_ucc_again, fun hclear hirq => ?_, fun hclear => ?_⟩
    · rw [sumSet_ce, hclear, hirq]
      rfl
    · rw [sumSet_ucc, hclear]
      rfl
  case entry =>
    intro b reason src halive r
    have hflt : r.flt = _ := enterStalemate_flt halive
    rw [hflt]
    exact ⟨rfl, rfl, rfl, rfl, keysGone_enterStalemate halive⟩
  case entropy =>
    intro b cs hc
    exact timed_eq hc
  case quiet =>
    intro b cs src hc hsrc r hactive hpast w
    have row : exec (.quietPeriodExpiry src) ⟨b, cs⟩ = nextAfter (quietExpiry src b) cs :=
      (atUnit_eq (decide_eq_true hsrc)).trans (timed_eq hc)
    rw [row, quietExpiry_past hactive hpast]
  case hang =>
    intro b cs q s hs hq hen howes hpast hfind hinline hnone f
    have row : exec (.hangWatchdogExpiry q) ⟨b, cs⟩ = nextAfter (hangExpiry q b) cs := atUnit_work_eq hs hq
    rw [row, hangExpiry_halts hen howes hpast hnone, hangHalt_inline hfind hinline]
  case cycle =>
    intro b cs q d hs hq hen howes hpast hfound hmem
    have row : exec (.hangWatchdogExpiry q) ⟨b, cs⟩ = nextAfter (hangExpiry q b) cs := atUnit_work_eq hs hq
    rw [row, hangExpiry_declares hen howes hpast hfound hmem]
  case partition =>
    intro b cs k p hs hk hpart r
    have row : exec (.partResetStep k) ⟨b, cs⟩ = nextAfter (partStep k b) cs := atUnit_work_eq hs hk
    rw [row]
    refine ⟨fun hstep => ?_, fun hstep hnone => ?_, fun hstep hnone => ?_, fun hstep => ?_,
      fun hstep hranges hout => ?_, fun hstep => ?_⟩
    · rw [partStep_over hpart hstep (partOver_other (by simp [hstep]))]
      rfl
    · rw [partStep_over hpart hstep (partOver_passes hstep hnone)]
      rfl
    · rw [partStep_over hpart hstep (partOver_lanes hstep hnone)]
      rfl
    · rw [partStep_over hpart hstep (partOver_other (by simp [hstep]))]
      rfl
    · rw [partStep_over hpart hstep (partOver_scrub hstep hranges hout)]
      rfl
    · rw [partStep_over hpart hstep (partOver_other (by simp [hstep]))]
      rfl
  case self =>
    intro b cs s hc halive hforcing hs w
    subst hs
    have row : exec .collectorSelfFault ⟨b, cs⟩ = nextAfter (selfFault b) cs := timed_eq hc
    rw [row, selfFault_alive halive hforcing]
  case lease =>
    intro b cs d hr hdead hpast hloops
    have row : exec .hostLeaseExpiry ⟨b, cs⟩ = nextAfter (leaseExpiry b) cs := live_eq hr
    rw [row, leaseExpiry_noLoops hdead hpast (alive_of_running hr) hloops]
    rfl

end Sys2Proof.Machine

/-! ### Passes, from the descriptor to the report -/

namespace Sys2Proof.Machine

variable {b b' : Block} {n : Nat} {k : Bank} {p : Pass} {r : PassReport}

/-! Descriptors (R152) -/

theorem descriptorIssue_held (h : b.pwr.emerg.active = true ∨ b.pwr.dvfs.hold = true) : descriptorIssue b = b := by
  have hheld : (b.pwr.emerg.active || b.pwr.dvfs.hold) = true := by simpa using h
  simp only [descriptorIssue, hheld, if_true]

section Issue

variable (hcalm : b.pwr.emerg.active = false) (hfree : b.pwr.dvfs.hold = false)
include hcalm hfree

theorem descriptorIssue_ready (hready : (byRelease (allOffers b)).findSome? (fun o => placeReady o b) = some b') :
    descriptorIssue b = b' := by
  simp only [descriptorIssue, hcalm, hfree, hready, Bool.or_self, Bool.false_eq_true, if_false]

theorem descriptorIssue_next (hnone : (byRelease (allOffers b)).findSome? (fun o => placeReady o b) = none)
    (hnext : (allOffers b).findSome? (fun o => placeNext o b) = some b') : descriptorIssue b = b' := by
  simp only [descriptorIssue, hcalm, hfree, hnone, hnext, Bool.or_self, Bool.false_eq_true, if_false, Option.getD_some]

end Issue

/-! The swap of the banks and the start of a pass (R155, R173) -/

theorem bankFree_iff {s : Seqr} : bankFree s = true ↔ s.active = none ∨ ∃ p, s.pass = some p ∧ p.ended = true := by
  simp [bankFree, Option.any_eq_true]

/-- The contents of the shadow bank of sequencer `n` are all there. -/
def shadowReady (n : Nat) (b : Block) : Block :=
  modSeqr n (fun s => { s with shadow := s.shadow.map (fun k => { k with ready := true }) }) b

/-- Bank `k`, the shadow bank before, is the active one of sequencer `n`, and its pass has not started. -/
def banksSwapped (n : Nat) (k : Bank) (b : Block) : Block :=
  modSeqr n (fun s => dropStale { s with active := some k, shadow := none, pass := none }) b

theorem swapBank_noShadow (hshadow : (seqrOf b n).shadow = none) : swapBank n b = b := by
  simp only [swapBank, hshadow]

theorem swapBank_complete (hfree : bankFree (seqrOf b n) = true) (hshadow : (seqrOf b n).shadow = some k)
    (hready : k.ready = true) (hruns : bankRuns (seqrOf b n) k = true) : swapBank n b =
      if (seqrOf b n).reports.isEmpty then coresTake n k (banksSwapped n k b) else banksSwapped n k b := by
  simp only [swapBank, hshadow, hfree, hready, hruns, Bool.and_self, if_true]
  rfl

theorem seqrOf_shadowReady (hshadow : (seqrOf b n).shadow = some k) :
    seqrOf (shadowReady n b) n = { seqrOf b n with shadow := some { k with ready := true } } := by
  simp only [shadowReady, seqrOf_modSeqr_same, hshadow, Option.map_some]

theorem bankTransfer_swaps (hfree : bankFree (seqrOf b n) = true) (hshadow : (seqrOf b n).shadow = some k)
    (hruns : bankRuns (seqrOf b n) k = true) : bankTransfer n b =
      let t := banksSwapped n { k with ready := true } (shadowReady n b)
      if (seqrOf b n).reports.isEmpty then coresTake n k t else t := by
  have hseqr := seqrOf_shadowReady hshadow
  have hswap : swapBank n (shadowReady n b) = _ :=
    swapBank_complete (k := { k with ready := true }) (hseqr ▸ hfree) (by rw [hseqr]) rfl (hseqr ▸ hruns)
  rw [hseqr] at hswap
  exact hswap

theorem passStart_begins (hactive : (seqrOf b n).active = some k) (hpass : (seqrOf b n).pass = none)
    (hshadow : (seqrOf b n).shadow = none) : passStart n b = modSeqr n (fun s => { s with
      pass := some (passZero (passKind k) b.time.seq)
      progs := s.progs.map (fun g => if bankProg k g then { g with lastUse := b.time.root + 1 } else g) }) b := by
  simp only [passStart, swapBank_noShadow hshadow, hactive, hpass]

/-! The end of a pass (R181, R182) -/

section Ends

variable (hactive : (seqrOf b n).active = some k) (hpass : (seqrOf b n).pass = some p)
include hactive hpass

theorem endPass_reports : endPass n b = modSeqr n (fun s => { s with
      pass := some { p with ended := true }
      reports := s.reports ++ [{ bank := k, lanes := p.laneSt, fail := p.fail, abort := p.abort }]
      passes := satAdd 32 s.passes 1
      dd := tmap none s.dd (fun _ u => u.map (fun u =>
        if u.owner.ofPass then { u with owner := .orphan k.oid } else u)) }) b := by
  simp only [endPass, hactive, hpass]

/-- A program pass that runs whose streams have ended with nothing outstanding. -/
theorem passEnd_program (hruns : p.ended = false) (hfail : p.fail = none) (habort : p.abort = false)
    (hkind : p.kind = .program) (hacc : p.acc.ended = true) (hexe : p.exe.ended = true) (hrem : p.rem = none)
    (htags : passTags (seqrOf b n) = 0) (hlanes : lanesDone (seqrOf b n) k = true) : passEnd n b =
      if queueLeft k p then passFail n .badState false (lowLane k) p.acc.pc b else endPass n b := by
  simp only [passEnd, hactive, hpass, hruns, hfail, habort, hkind, hacc, hexe, hrem, htags, hlanes, Option.isSome_none,
    Option.isNone_none, BEq.rfl, Bool.or_self, Bool.and_self, Bool.false_eq_true, if_false, if_true]

end Ends

theorem jamExpiry_jammed {v : View} (hview : viewOf b n = some v) (hlong : 16 ≤ v.pass.jam) (hjam : jammed b v = true) :
    jamExpiry n b = passFail n .badState v.pass.acc.ended (lowLane v.bank) (streamOf v.pass v.pass.acc.ended).pc b := by
  simp only [jamExpiry, hview, if_pos (And.intro hlong hjam)]

/-! The report of a pass (R165) -/

theorem takeReport_lanes (hfail : r.fail = none) (habort : r.abort = false) (hchunk : r.bank.chunk = none) :
    takeReport n r b = (bySource r).foldl (fun b x => laneResult n r.bank.q r.lanes x b) b := by
  simp only [takeReport, hfail, habort, hchunk, Bool.false_eq_true, if_false]

/-- The last pass of sequencer `n` has been reported: no bank is active and no report is due. -/
def passReported (n : Nat) (b : Block) : Block :=
  modSeqr n (fun s => dropStale { s with active := none, pass := none, reports := [] }) b

/-- The one report due, of a pass after which none has begun. -/
theorem passEndReport_only (hreports : (seqrOf b n).reports = [r]) (hpass : (seqrOf b n).pass = some p)
    (hended : p.ended = true) : passEndReport n b = leaveCores (fun c => c / 8 == n) (dropAborted r.bank.oid
      (takeReport n r (progress r.bank.q (coresGo n none (passReported n b))))) := by
  simp only [passEndReport, hreports, hpass, hended, List.isEmpty_nil, Option.any_some, Bool.and_self, if_true]
  rfl

/-- Settles O35: each command of a pass's life, by the operation that it does. -/
theorem passLifetime : Obligations.PassLifetime := by
  unfold Obligations.PassLifetime
  refine ⟨?issue, ?held, ?swap, ?start, ?ends, ?report, ?jam⟩
  case issue =>
    intro b b' cs hs hcalm hfree
    have row : exec .descriptorIssue ⟨b, cs⟩ = nextAfter (descriptorIssue b) cs := work_eq hs
    rw [row]
    refine ⟨fun hready => ?_, fun hnone hnext => ?_⟩
    · rw [descriptorIssue_ready hcalm hfree hready]
    · rw [descriptorIssue_next hcalm hfree hnone hnext]
  case held =>
    intro b cs hs hheld
    have row : exec .descriptorIssue ⟨b, cs⟩ = nextAfter (descriptorIssue b) cs := work_eq hs
    rw [row, descriptorIssue_held hheld]
  case swap =>
    intro b cs n k hs hn hfree hshadow hruns
    have row : exec (.bankTransferComplete n) ⟨b, cs⟩ = nextAfter (bankTransfer n b) cs := atUnit_work_eq hs hn
    rw [row, bankTransfer_swaps (bankFree_iff.mpr hfree) hshadow hruns]
    rfl
  case start =>
    intro b cs n k hs hn hactive hpass hshadow
    have row : exec (.passStart n) ⟨b, cs⟩ = nextAfter (passStart n b) cs := atUnit_work_eq hs hn
    rw [row, passStart_begins hactive hpass hshadow]
    rfl
  case ends =>
    intro b cs n k p hs hn hactive hpass hruns hfail habort hkind hacc hexe hrem htags hlanes
    have row : exec (.passEnd n) ⟨b, cs⟩ = nextAfter (passEnd n b) cs := atUnit_work_eq hs hn
    rw [row, passEnd_program hactive hpass hruns hfail habort hkind hacc hexe hrem htags hlanes,
      endPass_reports hactive hpass, hfail, habort]
  case report =>
    intro b cs n r p hs hn hreports hpass hended hfail habort hchunk
    have row : exec (.passEndReport n) ⟨b, cs⟩ = nextAfter (passEndReport n b) cs := atUnit_work_eq hs hn
    rw [row, passEndReport_only hreports hpass hended, takeReport_lanes hfail habort hchunk]
    rfl
  case jam =>
    intro b cs n v hs hn hview hlong hjam
    have row : exec (.streamJamExpiry n) ⟨b, cs⟩ = nextAfter (jamExpiry n b) cs := atUnit_work_eq hs hn
    rw [row, jamExpiry_jammed hview hlong hjam, streamOf, apply_ite Stream.pc]

end Sys2Proof.Machine

/-! ### Lanes, tokens and the answers of descriptors -/

namespace Sys2Proof.Machine

variable {b : Block} {cs : List Instr} {n l tag : Nat}

/-- A command of a unit's part that exists does to a serving block what its operation does. -/
theorem atPart_work_eq {f : Block → Block} {i j m : Nat} (hs : serving b = true) (hn : i < m) (hl : l < j) :
    atUnit (decide (i < m) && decide (l < j)) (work f ⟨b, cs⟩) = nextAfter (f b) cs := by
  rw [atUnit_eq (by simp [hn, hl]), work_eq hs]

/-! Operations and their completions (R163, R164) -/

theorem laneTransfer_head {o : LaneOp} {os : List LaneOp} (hbuf : (laneOf (seqrOf b n) l).buf = o :: os)
    (hcalm : (laneOf (seqrOf b n) l).abReq = false) (hroom : (laneOf (seqrOf b n) l).out.length < 64) :
    laneTransfer n l b =
      let id := (laneOf (seqrOf b n) l).nextId % 256
      emit (.laneOp n l (o.data ||| BitVec.ofNat 256 id)) (modLane n l (fun x => { x with
        buf := os, nextId := (id + 1) % 256, out := x.out ++ [(id, o)] }) b) := by
  have hopen : ((laneOf (seqrOf b n) l).abReq || decide (64 ≤ (laneOf (seqrOf b n) l).out.length)) = false := by
    simp [hcalm, hroom]
  simp only [laneTransfer, hbuf, hopen, Bool.false_eq_true, if_false]

/-- The bound of the abort request on lane `l` has passed: its core counts as failed, and no reset waits for the lane. -/
def abortOver (n l : Nat) (b : Block) : Block :=
  partLaneDone n l (failCore (8 * n + l) (modLane n l (fun x => { x with expired := true, abDead := none }) b))

/-- The report's scope is the partition of the core's slot (R356). For a core of no slot the rules name no member: that the
report then says 0 and nothing is reset is the model's own choice. -/
theorem abortBound_passed {d : Nat} (hreq : (laneOf (seqrOf b n) l).abReq = true)
    (hfirst : (laneOf (seqrOf b n) l).expired = false) (hdead : (laneOf (seqrOf b n) l).abDead = some d)
    (hpast : d < hubNow b) : abortBound n l b =
      let r := abortOver n l b
      match slotOfCore r (8 * n + l) with
      | none => report (uccReport 0x14 5 0 .stateLost 0) r
      | some k =>
        let t := report (uccReport 0x14 5 k .stateLost 0) r
        if resetting r k then t else startPart k 0x14 ((seqrOf b n).active.map (·.q)) none t := by
  have hdue : due (hubNow b) (some d) = true := decide_eq_true hpast
  simp only [abortBound, hreq, hfirst, hdead, hdue, Bool.not_false, Bool.not_true, Bool.and_self, Bool.false_eq_true,
    if_false]
  rfl

section Up

variable (hup : seqUp b n = true)
include hup

theorem laneCompletion_inOrder {id : BitVec 8} {st : BitVec 3} {o : LaneOp} {os : List (Nat × LaneOp)}
    (hout : (laneOf (seqrOf b n) l).out = (id.toNat, o) :: os) (hst : st.toNat < 4) : laneCompletion n l id st b =
      modPass n (fun p => if p.ended then p else opDone l o st.toNat p)
        (modCore (8 * n + l) (fun c => { c with lastStatus := st.toNat }) (modLane n l (fun x => { x with out := os }) b)) := by
  have hknown : decide (4 ≤ st.toNat) = false := decide_eq_false (Nat.not_le.mpr hst)
  simp only [laneCompletion, hup, hout, hknown, ne_eq, not_true_eq_false, Bool.not_true, Bool.false_eq_true, if_false]

theorem laneCompletion_stray {id : BitVec 8} {st : BitVec 3} (hout : (laneOf (seqrOf b n) l).out = []) :
    laneCompletion n l id st b = laneStray b := by
  simp only [laneCompletion, hup, hout, Bool.not_true, Bool.false_eq_true, if_false]

/-! The abort handshake, tokens and descriptors (R166, R168, R203, R204) -/

theorem laneAck_falls (hreq : (laneOf (seqrOf b n) l).abReq = true) : laneAck n l b =
    let r := partLaneDone n l (emit (.laneAbort n l false) (modLane n l (fun x => { x with
      buf := [], out := [], abReq := false, abDead := none, expired := false, reraise := false }) b))
    if (laneOf (seqrOf b n) l).reraise then abortLane n l r else r := by
  simp only [laneAck, hup, hreq, Bool.not_true, Bool.false_eq_true, if_false]

theorem laneToken_ofTurn {seq draft tok : Nat} {k : Bank} {p : Pass} (hactive : (seqrOf b n).active = some k)
    (hpass : (seqrOf b n).pass = some p) (hturn : k.turn ≠ 0) (hlane : k.lanes.any (·.1 == l) = true)
    (hruns : p.ended = false) : laneToken n l seq draft tok b = batToken k.slot k.turn seq draft tok b := by
  simp only [laneToken, hup, hactive, hpass, hlane, hruns, decide_eq_true hturn, Bool.not_true, Bool.not_false,
    Bool.and_self, Bool.false_eq_true, if_false, if_true]

theorem ddBeat_read {u : DdUse} {d : Beat} (huse : tget none (seqrOf b n).dd tag = some u) : ddBeat n tag d b =
    modSeqr n (fun s => { s with dd := tset none s.dd tag (some { u with data := u.data ++ leBytes d.toNat 32 }) }) b := by
  simp only [ddBeat, hup, huse, Bool.not_true, Bool.false_eq_true, if_false]

theorem ddDrainAck_raised {ast : Nat} (hfence : (seqrOf b n).dfReq = some ast) : ddDrainAck n b =
    emit (.ddFence n false ast)
      (modSeqr n (fun s => { s with dfReq := none }) { b with sec := { b.sec with tdDd := clrBit b.sec.tdDd n } }) := by
  simp only [ddDrainAck, hup, hfence, Bool.not_true, Bool.false_eq_true, if_false]

/-- The good end of a descriptor that a pass outside a turn issued changes that pass alone. -/
theorem ddCompletion_ofPass {u : DdUse} (huse : tget none (seqrOf b n).dd tag = some u) (hpass : u.owner.ofPass = true)
    (hplain : ∀ k, (seqrOf b n).active = some k → k.turn = 0) : ddCompletion n tag 0 b =
      modPass n (fun p => if p.ended then p else ddPass u true p) (ddTaken n tag b) := by
  have hactive : (seqrOf (ddTaken n tag b) n).active = (seqrOf b n).active := by simp [ddTaken]
  have hturn : (seqrOf (ddTaken n tag b) n).active.bind (fun k => if k.turn = 0 then none else some k.slot) = none := by
    simpa [hactive] using hplain
  have htake := ddTake_ok hup huse
  -- the owners of a pass (load, store, lds, chunk, comb) all go one way; every other owner contradicts `hpass`
  cases howner : u.owner <;> simp only [howner, DdOwner.ofPass, Bool.false_eq_true] at hpass <;>
    simp only [ddCompletion, htake, howner, hturn, ddOfPass, if_true, decide_true]

end Up

/-! Inputs of a domain that is not ON (R169, R205) -/

section Asleep

variable (hdown : seqUp b n = false)
include hdown

theorem laneCompletion_asleep (id : BitVec 8) (st : BitVec 3) : laneCompletion n l id st b = b := by
  simp [laneCompletion, hdown]

theorem laneAck_asleep : laneAck n l b = b := by
  simp [laneAck, hdown]

theorem laneToken_asleep (seq draft tok : Nat) : laneToken n l seq draft tok b = b := by
  simp [laneToken, hdown]

theorem ddCompletion_asleep (st : BitVec 3) : ddCompletion n tag st b = b := by
  have htake : ddTake n tag st b = (none, b) := by simp [ddTake, hdown]
  simp only [ddCompletion, htake]

theorem ddBeat_asleep (d : Beat) : ddBeat n tag d b = b := by
  simp [ddBeat, hdown]

theorem ddDrainAck_asleep : ddDrainAck n b = b := by
  simp [ddDrainAck, hdown]

end Asleep

/-- A command whose operation leaves the block as it is. -/
theorem exec_ignored {c : Instr} {f : Block → Block} (row : exec c ⟨b, cs⟩ = nextAfter (f b) cs) (hidle : f b = b) :
    exec c ⟨b, cs⟩ = nextAfter b cs := by
  rw [row, hidle]

/-- Settles O40: each event of a lane or of a descriptor port, then all that come while the domain sleeps. -/
theorem lanesAndPorts : Obligations.LanesAndPorts := by
  unfold Obligations.LanesAndPorts
  refine ⟨?transfer, ?completion, ?stray, ?ack, ?bound, ?token, ?descriptor, ?beat, ?drain, ?asleep⟩
  case transfer =>
    intro b cs n l o os hs hn hl x hbuf hcalm hroom
    have row : exec (.laneOpTransfer n l) ⟨b, cs⟩ = nextAfter (laneTransfer n l b) cs := atPart_work_eq hs hn hl
    rw [row, laneTransfer_head hbuf hcalm hroom]
  case completion =>
    intro b cs n l id o os hs hn hl hup hout st hst
    have row : exec (.laneCompletion n l id st) ⟨b, cs⟩ = nextAfter (laneCompletion n l id st b) cs :=
      atPart_work_eq hs hn hl
    rw [row, laneCompletion_inOrder hup hout hst]
  case stray =>
    intro b cs n l id st hs hn hl hup hout
    have row : exec (.laneCompletion n l id st) ⟨b, cs⟩ = nextAfter (laneCompletion n l id st b) cs :=
      atPart_work_eq hs hn hl
    rw [row, laneCompletion_stray hup hout]
    rfl
  case ack =>
    intro b cs n l hs hn hl hup hreq
    have row : exec (.laneAbortAck n l) ⟨b, cs⟩ = nextAfter (laneAck n l b) cs := atPart_work_eq hs hn hl
    rw [row, laneAck_falls hup hreq]
  case bound =>
    intro b cs n l d hs hn hl hreq hfirst hdead hpast
    have row : exec (.abortBoundExpiry n l) ⟨b, cs⟩ = nextAfter (abortBound n l b) cs := atPart_work_eq hs hn hl
    rw [row, abortBound_passed hreq hfirst hdead hpast]
    rfl
  case token =>
    intro b cs n l seq draft tok k p hs hn hl hup hactive hpass hturn hlane hruns
    have row : exec (.laneToken n l seq draft tok) ⟨b, cs⟩
        = nextAfter (laneToken n l seq.toNat draft.toNat tok.toNat b) cs := atPart_work_eq hs hn hl
    rw [row, laneToken_ofTurn hup hactive hpass hturn hlane hruns]
  case descriptor =>
    intro b cs n tag u hs hn htag hup huse hpass hplain
    have row : exec (.ddCompletion n tag 0) ⟨b, cs⟩ = nextAfter (ddCompletion n tag 0 b) cs := atPart_work_eq hs hn htag
    rw [row, ddCompletion_ofPass hup huse hpass hplain]
    rfl
  case beat =>
    intro b cs n tag u d hs hn htag hup huse
    have row : exec (.ddReadBeat n tag d) ⟨b, cs⟩ = nextAfter (ddBeat n tag d b) cs := atPart_work_eq hs hn htag
    rw [row, ddBeat_read hup huse]
  case drain =>
    intro b cs n ast hs hn hup hfence
    have row : exec (.ddDrainAck n) ⟨b, cs⟩ = nextAfter (ddDrainAck n b) cs := atUnit_work_eq hs hn
    rw [row, ddDrainAck_raised hup hfence]
  case asleep =>
    intro b cs n l tag id st seq draft tok d hs hn hl htag hdown
    exact ⟨exec_ignored (f := laneCompletion n l id st) (atPart_work_eq hs hn hl) (laneCompletion_asleep hdown id st),
      exec_ignored (f := laneAck n l) (atPart_work_eq hs hn hl) (laneAck_asleep hdown),
      exec_ignored (f := laneToken n l seq.toNat draft.toNat tok.toNat) (atPart_work_eq hs hn hl) (laneToken_asleep hdown _ _ _),
      exec_ignored (f := ddCompletion n tag st) (atPart_work_eq hs hn htag) (ddCompletion_asleep hdown st),
      exec_ignored (f := ddBeat n tag d) (atPart_work_eq hs hn htag) (ddBeat_asleep hdown d),
      exec_ignored (f := ddDrainAck n) (atUnit_work_eq hs hn) (ddDrainAck_asleep hdown)⟩

end Sys2Proof.Machine

/-! ### The fixed passes and the fetch of a program -/

namespace Sys2Proof.Machine

variable {b b' : Block} {n : Nat} {k : Bank} {p : Pass}

/-! Combine and chunk passes (R199) -/

section Runs

variable (hactive : (seqrOf b n).active = some k) (hpass : (seqrOf b n).pass = some p) (hfail : p.fail = none)
  (habort : p.abort = false) (hruns : p.ended = false)
include hactive hpass hfail habort hruns

theorem combinePass_steps (hkind : p.kind = .combine) :
    combinePass n b = k.lanes.foldl (fun b x => combLane n k x b) b := by
  simp only [combinePass, hactive, hpass, hkind, hfail, habort, hruns, Option.isNone_none, BEq.rfl, Bool.not_false,
    Bool.and_self, if_true]

/-- The one descriptor of a chunk whose ranges touch nothing sealed, under an open regulator and with a tag free. -/
theorem chunkPass_issues {i off len kind kdata : Nat} {o : Op} {body : List Nat} {rs : List (Nat × Nat)}
    (hkind : p.kind = .chunk) (hfirst : tget 0 p.cstep 0 = 0) (hchunk : k.chunk = some (i, off, len))
    (hop : opOf b k.oid = some o) (hbody : chunkBody o off len = some (kind, kdata, body, rs))
    (hplain : ∀ r ∈ rs, sealedTouch b k.ctx r.1 r.2 = false) (hopen : bwOpen b k.slot = true)
    (hissue : ddIssue n (.chunk k.oid) (passDesc b k kind 0 kdata none false body) b = some b') : chunkPass n b =
      modPass n (fun p => { p with cstep := tset 0 p.cstep 0 1 }) (bwTake k.slot len b') := by
  have hunsealed : rs.any (fun r => sealedTouch b k.ctx r.1 r.2) = false := by simpa using hplain
  simp only [chunkPass, hactive, hpass, hkind, hfail, habort, hruns, hfirst, hchunk, hop, hbody, hunsealed, hopen, hissue,
    Option.isNone_none, BEq.rfl, Bool.not_false, Bool.not_true, Bool.and_self, Bool.false_eq_true, if_false]

end Runs

/-! Program fetch (R177, R178) -/

/-- Sequencer `n`, left as `s` by the evictions, takes an empty entry for the program of its shadow bank `k`. -/
def entryOpened (n : Nat) (k : Bank) (s : Seqr) (b : Block) : Block :=
  modSeqr n (fun _ => { s with
    shadow := some { k with gen := none }
    progs := s.progs ++ [{ ctx := k.ctx, addr := k.launch.progAddr, len := k.launch.progLen, chunks := [], nextOff := 0
                           out := 0, resident := false, stale := false, lastUse := b.time.root + 1
                           gen := (seqrOf b n).nextFetch }]
    nextFetch := (seqrOf b n).nextFetch + 1 }) b

theorem programFetch_begins {s : Seqr} (hshadow : (seqrOf b n).shadow = some k) (hrole : k.role ≠ .combine)
    (hchunk : k.chunk = none) (habsent : (seqrOf b n).progs.any (bankProg k) = false)
    (hroom : makeRoom (ceilDiv k.launch.progLen 4096) ((seqrOf b n).progs.length + 1) (seqrOf b n) = some s) :
    programFetch n b = fetchOutcome n (pfetches n k 16 (entryOpened n k s b)) := by
  have hprogram : (k.role == .combine || k.chunk.isSome) = false := by simp [hrole, hchunk]
  simp only [programFetch, hshadow, hprogram, habsent, hroom, Bool.false_eq_true, if_false]
  rfl

/-- Settles O36: the step of a combine pass, the descriptor of a chunk pass and the start of a fetch. -/
theorem fixedPasses : Obligations.FixedPasses := by
  unfold Obligations.FixedPasses
  refine ⟨?combine, ?chunk, ?fetch⟩
  case combine =>
    intro b cs n k p hs hn hactive hpass hkind hfail habort hruns
    have row : exec (.combinePass n) ⟨b, cs⟩ = nextAfter (combinePass n b) cs := atUnit_work_eq hs hn
    rw [row, combinePass_steps hactive hpass hfail habort hruns hkind]
  case chunk =>
    intro b b' cs n i off len kind kdata k p o body rs hs hn hactive hpass hkind hfail habort hruns hfirst hchunk hop hbody
      hplain hopen hissue
    have row : exec (.chunkPass n) ⟨b, cs⟩ = nextAfter (chunkPass n b) cs := atUnit_work_eq hs hn
    rw [row, chunkPass_issues hactive hpass hfail habort hruns hkind hfirst hchunk hop hbody hplain hopen hissue]
  case fetch =>
    intro b cs n k s hs hn hshadow hrole hchunk habsent hroom
    have row : exec (.programFetch n) ⟨b, cs⟩ = nextAfter (programFetch n b) cs := atUnit_work_eq hs hn
    rw [row, programFetch_begins hshadow hrole hchunk habsent hroom]
    rfl

end Sys2Proof.Machine

/-! ### Instructions of a tile program -/

namespace Sys2Proof.Machine

variable {b : Block} {cs : List Instr} {n m w : Nat} {exe : Bool} {v : View}

theorem instrReady_iff : instrReady b n exe v w = true ↔ serving b = true ∧ n < nSeqrs b ∧ viewOf b n = some v ∧
    nextInstr v exe = some w ∧ gateOf b v exe w = .go := by
  simp only [instrReady, Bool.and_eq_true, decide_eq_true_eq, beq_iff_eq, and_assoc]

theorem instrRow_go {f : View → Nat → Block → Block} (hview : viewOf b n = some v) (hnext : nextInstr v exe = some w)
    (hmajor : majorOf w = m) (hgate : gateOf b v exe w = .go) : instrRow n exe m f b = f v w b := by
  simp only [instrRow, hview, hnext, hmajor, hgate, ne_eq, not_true_eq_false, if_false]

/-- The command of a stream's row does the effect of its instruction, when that is the stream's next and may issue. -/
theorem instr_work_eq (f : View → Nat → Block → Block) (hready : instrReady b n exe v w = true) (hmajor : majorOf w = m) :
    atUnit (decide (n < nSeqrs b)) (work (instrRow n exe m f) ⟨b, cs⟩) = nextAfter (f v w b) cs := by
  obtain ⟨hs, hn, hview, hnext, hgate⟩ := instrReady_iff.mp hready
  rw [atUnit_work_eq hs hn, instrRow_go hview hnext hmajor hgate]

/-! Loops (R186, R187) -/

/-- A count from the instruction opens the level with its counter at zero; the access stream keeps its a-registers for the
rewind. -/
theorem loopEff_opens (himm : bitOf w 54 = false) (hcount : fld w 0 24 ≠ 0)
    (hbound : openCount (streamOf v.pass exe) * fld w 0 24 ≤ 2 ^ 48) : loopEff n exe v w b =
      nextPc n exe (modPass n (modStream exe (fun r => { r with
        c := tset 0 r.c (fld w 55 3) 0
        levels := r.levels ++ [{ total := fld w 0 24, saved := if exe then [] else v.pass.a
                                 back := (streamOf v.pass exe).pc + 1 }] })) b) := by
  simp only [loopEff, savedA, himm, Bool.false_eq_true, if_false, if_neg (Nat.not_lt.mpr hbound), if_neg hcount]

section Endl

variable {lv : Level} (hlast : (streamOf v.pass exe).levels.getLast? = some lv)
include hlast

theorem endlEff_again (hmore : tget 0 (streamOf v.pass exe).c (fld w 55 3) + 1 < lv.total) : endlEff n exe v w b =
    modPass n (fun p => modStream exe (fun r => { r with
      c := tset 0 r.c (fld w 55 3) (tget 0 (streamOf v.pass exe).c (fld w 55 3) + 1), pc := lv.back, ready := none })
        (if exe then p else addIncs v.bank (fld w 55 3) p)) b := by
  simp only [endlEff, hlast, if_pos hmore]

theorem endlEff_leaves (hdone : lv.total ≤ tget 0 (streamOf v.pass exe).c (fld w 55 3) + 1) : endlEff n exe v w b =
    modPass n (fun p => modStream exe (fun r => { r with
      c := tset 0 r.c (fld w 55 3) (tget 0 (streamOf v.pass exe).c (fld w 55 3) + 1), levels := r.levels.dropLast
      pc := r.pc + 1, ready := none }) (if exe then p else { p with a := lv.saved })) b := by
  simp only [endlEff, hlast, if_neg (Nat.not_lt.mpr hdone)]

end Endl

/-! Registers (R174, R180, R189) -/

/-- What an RDP of index `i` copies on lane `l` (log entry 6). -/
def rdpValue (b : Block) (k : Bank) (i l : Nat) : W64 :=
  match passValue k l i with
  | some y => BitVec.ofNat 64 y
  | none => freeVal 64 b

theorem rdpEff_present (hpresent : rdpAbsent v.bank (fld w 43 9) = false) : rdpEff n exe v w b =
    useFree (writeReg n exe (fld w 52 2) (fld w 54 4)
      ((lanesOf v.bank).map (fun l => (l, rdpValue b v.bank (fld w 43 9) l))) b) := by
  simp only [rdpEff, hpresent, Bool.false_eq_true, if_false]
  rfl

theorem aincEff_immediate (himm : bitOf w 50 = false) : aincEff n v w b = nextPc n false (modPass n (fun p => { p with
    inc := tset 0 p.inc (16 * fld w 55 3 + fld w 51 4) (sext w 40) }) b) := by
  simp only [aincEff, himm, Bool.false_eq_true, if_false]

theorem differs_eq_none {f : Nat → W64} : differs v f = none ↔ ∀ l ∈ lanesOf v.bank, f l = f (lowLane v.bank) := by
  simp [differs]

theorem shapeEff_uniform (huniform : ∀ l ∈ lanesOf v.bank,
      sReg v.pass.acc l (fld w 12 4) = sReg v.pass.acc (lowLane v.bank) (fld w 12 4)) : shapeEff n v w b =
    nextPc n false (modPass n (fun p => { p with
      shapes := tset { rowBytes := 0, rows := 0, stride := 0 } p.shapes (fld w 56 2)
        { rowBytes := fld w 32 24, rows := fld w 16 16
          stride := (sReg v.pass.acc (lowLane v.bank) (fld w 12 4)).toNat % 2 ^ 32 } }) b) := by
  simp only [shapeEff, differs_eq_none.mpr huniform]

/-- Settles O37: each instruction of both streams, by its effect. -/
theorem scalarInstructions : Obligations.ScalarInstructions := by
  unfold Obligations.ScalarInstructions
  intro b cs n st v w x hready s ls put
  refine ⟨?loop, ?endl, ?smov, ?salu, ?rdp, ?drop, ?nop, ?stop⟩
  case loop =>
    intro hm himm hcount hbound
    have row : exec (.loopI n st) ⟨b, cs⟩ = nextAfter (loopEff n x v w b) cs := instr_work_eq _ hready hm
    rw [row, loopEff_opens himm hcount hbound]
  case endl =>
    intro lv hm hlast d c
    have row : exec (.endl n st) ⟨b, cs⟩ = nextAfter (endlEff n x v w b) cs := instr_work_eq _ hready hm
    rw [row]
    refine ⟨fun hmore => ?_, fun hdone => ?_⟩
    · rw [endlEff_again hlast hmore]
    · rw [endlEff_leaves hlast hdone]
  case smov => exact instr_work_eq (smovEff n x) hready
  case salu => exact instr_work_eq (saluEff n x) hready
  case rdp =>
    intro hm hpresent
    have row : exec (.rdp n st) ⟨b, cs⟩ = nextAfter (rdpEff n x v w b) cs := instr_work_eq _ hready hm
    rw [row, rdpEff_present hpresent]
    rfl
  case drop => exact instr_work_eq (dropEff n x) hready
  case nop => exact instr_work_eq (nopEff n x) hready
  case stop => exact instr_work_eq (endEff n x) hready

/-- Settles O38: the instructions of the access stream, then those of the execute stream. -/
theorem queueAndShapeInstructions : Obligations.QueueAndShapeInstructions := by
  unfold Obligations.QueueAndShapeInstructions
  refine ⟨fun b cs n v w hready => ⟨?ainc, ?shape, ?alloc, ?pushs⟩, fun b cs n v w hready => ⟨?tshape, ?pops⟩⟩
  case ainc =>
    intro hm himm
    have row : exec (.aInc n) ⟨b, cs⟩ = nextAfter (aincEff n v w b) cs := instr_work_eq _ hready hm
    rw [row, aincEff_immediate himm]
  case shape =>
    intro hm huniform
    have row : exec (.shape n) ⟨b, cs⟩ = nextAfter (shapeEff n v w b) cs := instr_work_eq _ hready hm
    rw [row, shapeEff_uniform huniform]
  case alloc => exact instr_work_eq (allocEff n) hready
  case pushs => exact instr_work_eq (pushsEff n) hready
  case tshape => exact instr_work_eq (tshapeEff n) hready
  case pops => exact instr_work_eq (popsEff n) hready

end Sys2Proof.Machine

/-! ### Transfers and operations of a tile program -/

namespace Sys2Proof.Machine

variable {b : Block} {n w : Nat} {v : View}

/-! Transfers (R189, R190, R195) -/

section Fresh

variable (hrem : v.pass.rem = none)
include hrem

/-- An instruction of which no lane is still to come begins now. -/
theorem startOr_begins (start : Block → Nat × Nat × List Nat × Block) : startOr n v start b =
    ((start b).1, (start b).2.1, (start b).2.2.1,
      beginLanes n (start b).1 (start b).2.1 (start b).2.2.1 (start b).2.2.2) := by
  simp only [startOr, hrem]

theorem loadEff_begins : loadEff n v w b =
    let h := (fld w 44 6 + tget 0 v.pass.acc.c (fld w 28 3) % (fld w 31 3 + 1)) * 2 ^ 10 + fld w 34 10
    let ts := if bitOf w 24 then (lanesOf v.bank).take 1 else lanesOf v.bank
    issueLanes n v (fun b l => moveLane b v w true h v.pass.nextEid (if bitOf w 24 then laneMask v.bank else 2 ^ l) l) ts
      (beginLanes n h v.pass.nextEid ts (modPass n (pushQ (fld w 50 4) h 0 0 ts.length) b)) := by
  simp only [loadEff, startOr_begins hrem, at_]

theorem sldEff_begins : sldEff n v w b =
    let h := fld w 44 6 * 2 ^ 10 + fld w 34 10
    issueLanes n v (fun b l => slotLane b v true h v.pass.nextEid l) (lanesOf v.bank)
      (beginLanes n h v.pass.nextEid (lanesOf v.bank)
        (modPass n (pushQ (fld w 50 4) h 0 0 (lanesOf v.bank).length) b)) := by
  simp only [sldEff, startOr_begins hrem, at_]

theorem ldsEff_begins : ldsEff n v w b =
    issueLanes n v (fun b l => ldsLane b v w l) (lanesOf v.bank) (beginLanes n 0 0 (lanesOf v.bank) b) := by
  simp only [ldsEff, startOr_begins hrem]

section Pops

variable {e : QEntry} {es : List QEntry} (hhead : queueQ v.pass (fld w 50 4) = e :: es)
include hhead

theorem storeEff_begins : storeEff n v w b =
    issueLanes n v (fun b l => moveLane b v w false e.handle 0 (2 ^ l) l) (lanesOf v.bank)
      (beginLanes n e.handle 0 (lanesOf v.bank) (modPass n (popQ (fld w 50 4)) b)) := by
  simp only [storeEff, startOr_begins hrem, hhead, List.head?_cons]

theorem sstEff_begins : sstEff n v w b =
    issueLanes n v (fun b l => slotLane b v false e.handle 0 l) (lanesOf v.bank)
      (beginLanes n e.handle 0 (lanesOf v.bank) (modPass n (popQ (fld w 50 4)) b)) := by
  simp only [sstEff, startOr_begins hrem, hhead, List.head?_cons]

end Pops

end Fresh

/-! Tile operations (R192 to R194, R197) -/

/-- Without a hint the stream goes on at once (R196). -/
theorem hintedPc_zero : hintedPc n v 0 b = nextPc n true b := by
  simp only [hintedPc, true_or, if_true]

/-- The tile operation of a TOP on lane `l`, its handles being `h`. -/
def topOp (v : View) (t : TopF) (h : TopH) (eid l : Nat) : LaneOp :=
  let s := v.pass.ts
  let d := topDest t h
  let la (x : Option Nat) : Option Nat := x.map (laOf v.prog)
  { data := opData t.topc t.fmtA t.fmtB t.fmtD (la h.a) (la h.b) (la h.c) (la d) (la h.x) s t.opn t.cls 0 0
      (if s.immen then sReg v.pass.exe l s.imms else 0)
    regions := regionsOf (h.a.toList ++ h.b.toList ++ h.c.toList ++ d.toList ++ h.x.toList)
    out := (if t.ed then d else none).map (fun _ => (t.qd, eid)) }

/-- The pass of a TOP that has popped its operands pushes its destination, if it gives one back. -/
def topPush (t : TopF) (h : TopH) (p : Pass) : Pass :=
  match if t.ed then topDest t h else none with
  | some d => pushQ t.qd d 255 0 0 p
  | none => p

theorem topEff_issues {es : List QEntry} {p : Pass} (hpops : popAll v.bank (topPops (topOf w) v.pass.ts) v.pass = .ok (es, p))
    (hcheck : topCheck v (topOf w) (topHandles (topOf w) v.pass.ts es) = none) (hhint : (topOf w).hint = 0) :
    topEff n v w b =
      let h := topHandles (topOf w) v.pass.ts es
      nextPc n true (issueOps n (topOp v (topOf w) h p.nextEid) (lanesOf v.bank)
        (modPass n (fun _ => topPush (topOf w) h p) b)) := by
  simp only [topEff, hpops, hcheck, hhint, hintedPc_zero]
  rfl

/-- The SAMPLE operation on lane `l`, its logits in the tile of handle `h` (R222). -/
def sampleOp (b : Block) (v : View) (w h l : Nat) : LaneOp :=
  let q := (sReg v.pass.exe l (fld w 54 4)).toNat
  let pos := (sReg v.pass.exe l (fld w 50 4)).toNat
  { data := opData 0x07 (fld w 41 5) 0 0 (some (laOf v.prog h)) none none none none v.pass.ts false false
      (fld q 14 3) (fld q 0 14) (genValue (turnKey b v.bank) (fld q 0 14) (fld q 14 3) pos)
    regions := regionsOf [h]
    out := none }

/-- A SAMPLE over one row without an X operand, whose sequence and position are in range on every lane. -/
theorem sampleEff_issues {e : QEntry} {p : Pass} (hvalid : v.pass.ts.valid = true) (hrow : v.pass.ts.tm = 1)
    (hwidth : v.pass.ts.tk ≠ 0) (hx : v.pass.ts.xen = false) (hhint : fld w 0 10 = 0)
    (hpops : popAll v.bank [fld w 46 4] v.pass = .ok ([e], p))
    (hrange : ∀ l ∈ lanesOf v.bank, (sReg v.pass.exe l (fld w 54 4)).toNat < 2 ^ 17 ∧
      (sReg v.pass.exe l (fld w 50 4)).toNat < 2 ^ 40) : sampleEff n v w b =
        nextPc n true (issueOps n (sampleOp b v w e.handle) (lanesOf v.bank) (modPass n (fun _ => p) b)) := by
  have hinRange : (lanesOf v.bank).find? (fun l => decide (2 ^ 17 ≤ (sReg v.pass.exe l (fld w 54 4)).toNat)
      || decide (2 ^ 40 ≤ (sReg v.pass.exe l (fld w 50 4)).toNat)) = none := by
    simpa using hrange
  have hshape : (!v.pass.ts.valid || v.pass.ts.tm != 1 || v.pass.ts.tk == 0) = false := by
    simp [hvalid, hrow, hwidth]
  simp only [sampleEff, hx, hpops, hinRange, hshape, hhint, hintedPc_zero, Bool.false_eq_true, if_false]
  rfl

/-- Settles O39: each transfer as it begins, then the operations of TOP and SAMPLE. -/
theorem transferInstructions : Obligations.TransferInstructions := by
  unfold Obligations.TransferInstructions
  refine ⟨fun b cs n v w hready hrem => ⟨?load, ?store, ?sld, ?sst, ?lds⟩, ?top, ?sample⟩
  case load =>
    intro hm
    have row : exec (.load n) ⟨b, cs⟩ = nextAfter (loadEff n v w b) cs := instr_work_eq _ hready hm
    rw [row, loadEff_begins hrem]
  case store =>
    intro e es hm hhead
    have row : exec (.store n) ⟨b, cs⟩ = nextAfter (storeEff n v w b) cs := instr_work_eq _ hready hm
    rw [row, storeEff_begins hrem hhead]
  case sld =>
    intro hm
    have row : exec (.sld n) ⟨b, cs⟩ = nextAfter (sldEff n v w b) cs := instr_work_eq _ hready hm
    rw [row, sldEff_begins hrem]
  case sst =>
    intro e es hm hhead
    have row : exec (.sst n) ⟨b, cs⟩ = nextAfter (sstEff n v w b) cs := instr_work_eq _ hready hm
    rw [row, sstEff_begins hrem hhead]
  case lds =>
    intro hm
    have row : exec (.lds n) ⟨b, cs⟩ = nextAfter (ldsEff n v w b) cs := instr_work_eq _ hready hm
    rw [row, ldsEff_begins hrem]
  case top =>
    intro b cs n v w es p hready hm t s h d hpops hcheck hhint
    have row : exec (.top n) ⟨b, cs⟩ = nextAfter (topEff n v w b) cs := instr_work_eq _ hready hm
    rw [row, topEff_issues hpops hcheck hhint]
    rfl
  case sample =>
    intro b cs n v w e p hready hm s q pos hvalid hrow hwidth hx hhint hpops hrange
    have row : exec (.sample n) ⟨b, cs⟩ = nextAfter (sampleEff n v w b) cs := instr_work_eq _ hready hm
    rw [row, sampleEff_issues hvalid hrow hwidth hx hhint hpops hrange]
    rfl

end Sys2Proof.Machine

/-! ### The end of a row of tokens -/

namespace Sys2Proof.Machine

variable {i num n d y q : Nat} {pos : Nat → Nat} {ts : List (Nat × Nat)} {b : Block} {s : Seqn} {e : Status}

theorem endCond_eq : endCond s y q =
    if y ∈ s.stops then some .stopToken else if s.gen + 1 = s.maxTok then some .maxTokens
    else if q = 2 ^ 40 - 1 then some .lengthLimit else none := by
  simp only [endCond, List.contains_iff_mem]

theorem endCond_none (hstop : y ∉ s.stops) (hmax : s.gen + 1 ≠ s.maxTok) (hlast : q ≠ 2 ^ 40 - 1) :
    endCond s y q = none := by
  rw [endCond_eq, if_neg hstop, if_neg hmax, if_neg hlast]

/-- Token `y` of draft index `d` is in sequence `i`'s ring and is its pending token. -/
def tokenApplied (i num : Nat) (pos : Nat → Nat) (d y : Nat) (b : Block) : Block :=
  let e := endCond (seqnOf b i) y (pos d)
  modSeqn i (fun s => { s with gen := s.gen + 1, pend := y })
    (ringPut (seqnOf b i).ctx
      (fun r => tokenRecord r y (pos d) ((e.map Status.code).getD 0) e.isSome true d i num) b)

theorem seqnOf_tokenApplied : seqnOf (tokenApplied i num pos d y b) i =
    { seqnOf b i with gen := (seqnOf b i).gen + 1, pend := y } := seqnOf_modSeqn_same ..

theorem applyTokens_ends (he : endCond (seqnOf b i) y (pos d) = some e) :
    applyTokens i num pos ((d, y) :: ts) n b =
      (n + 1, modSeqn i (fun s => { s with state := .ended, reason := e.code, owes := false })
        (tokenApplied i num pos d y b)) := by
  simp only [applyTokens, tokenApplied, he, Option.map_some, Option.getD_some]

theorem applyTokens_goesOn (he : endCond (seqnOf b i) y (pos d) = none) :
    applyTokens i num pos ((d, y) :: ts) n b = applyTokens i num pos ts (n + 1) (tokenApplied i num pos d y b) := by
  simp only [applyTokens, tokenApplied, he, Option.map_none, Option.getD_none]

theorem applyTokens_bounds :
    n ≤ (applyTokens i num pos ts n b).1 ∧ (applyTokens i num pos ts n b).1 ≤ n + ts.length := by
  induction ts generalizing n b with
  | nil => exact ⟨Nat.le_refl n, Nat.le_refl n⟩
  | cons x ts ih =>
    obtain ⟨d, y⟩ := x
    rw [List.length_cons]
    cases he : endCond (seqnOf b i) y (pos d) with
    | some e =>
      rw [applyTokens_ends he]
      dsimp only
      omega
    | none =>
      obtain ⟨hlow, hhigh⟩ := @ih (n + 1) (tokenApplied i num pos d y b)
      rw [applyTokens_goesOn he]
      omega

/-- While no token meets an end condition, the sequence keeps its stop tokens and MAX_TOKENS, and GEN counts the
tokens. -/
theorem applyTokens_all (hstop : ∀ x ∈ ts, x.2 ∉ (seqnOf b i).stops)
    (hmax : (seqnOf b i).gen + ts.length < (seqnOf b i).maxTok) (hlast : ∀ x ∈ ts, pos x.1 ≠ 2 ^ 40 - 1) :
    (applyTokens i num pos ts n b).1 = n + ts.length
      ∧ (seqnOf (applyTokens i num pos ts n b).2 i).gen = (seqnOf b i).gen + ts.length := by
  induction ts generalizing n b with
  | nil => exact ⟨rfl, rfl⟩
  | cons x ts ih =>
    obtain ⟨d, y⟩ := x
    rw [List.forall_mem_cons] at hstop hlast
    rw [List.length_cons] at hmax ⊢
    have he : endCond (seqnOf b i) y (pos d) = none := endCond_none hstop.1 (by omega) hlast.1
    have hs := @seqnOf_tokenApplied i num d y pos b
    obtain ⟨hcount, hgen⟩ := @ih (n + 1) (tokenApplied i num pos d y b) (by rw [hs]; exact hstop.2)
      (by rw [hs]; dsimp only; omega) hlast.2
    rw [hs] at hgen
    rw [applyTokens_goesOn he, hcount, hgen]
    dsimp only
    omega

/-- Settles O42: the first end condition of a token, and by induction over the tokens how many of a row are applied. -/
theorem tokenEndConditions : Obligations.TokenEndConditions := by
  unfold Obligations.TokenEndConditions
  exact ⟨fun _ _ _ => endCond_eq, fun _ _ _ _ _ _ => applyTokens_bounds,
    fun _ _ _ _ _ _ hstop hmax hlast => applyTokens_all hstop hmax hlast⟩

end Sys2Proof.Machine

/-! ### Commands on pools, shares, boards, partitions and the lease -/

namespace Sys2Proof.Machine

variable {b : Block} {i : Nat} {e : List Byte}

section Pools

/-- The pool that a POOL_CONFIG sets up, of which nothing is to be written. -/
def poolNamed (e : List Byte) : Pool :=
  { poolZero with
    cfgd := true, slot := ef e 4 8 6, ctx := ef e 4 16 8, base := dword e 8, pageLog2 := ef e 5 0 5
    pageTok := ef e 6 0 17, pages := word e 7, cached := min 128 (word e 7) }

/-- Pool `p` takes the place of the one that a POOL_CONFIG names, and its loop hears of it. -/
def poolRecorded (e : List Byte) (p : Pool) (b : Block) : Block :=
  loopEvent (ef e 4 8 6) (modPool (ef e 4 0 6) (fun _ => p) (forgetPages (ef e 4 0 6) b))

theorem ceilDiv_two (a : Nat) : ceilDiv a 2 = (a + 1) / 2 := rfl

variable (hcheck : poolCheck b e = none)
include hcheck

theorem poolConfig_removes (hremove : ef e 4 24 1 = 1) : poolConfig i e b =
    admReply i .ok 0xFFFFFFFF (poolResult b e) true
      (modPool (ef e 4 0 6) (fun r => { r with removed := r.cfgd }) (failPool (ef e 4 0 6) b)) := by
  simp only [poolConfig, hcheck, if_pos hremove]

variable (hkeep : ef e 4 24 1 = 0)
include hkeep

theorem poolConfig_member (hmember : leads b (ef e 4 8 6) = false) : poolConfig i e b =
    admReply i .ok 0xFFFFFFFF (poolResult b e) true (poolRecorded e (poolNamed e) b) := by
  simp only [poolConfig, hcheck, hkeep, hmember, zero_ne_one, if_false, Bool.false_eq_true]
  rfl

/-- The leader's pool answers command `i` once its directory and free stack are written (R237). -/
theorem poolConfig_leader (hleads : leads b (ef e 4 8 6) = true) : poolConfig i e b =
    batPump 64 (poolRecorded e
      { poolNamed e with initEnd := 8 * nSequences b + (word e 7 + 1) / 2, adm := some i } b) := by
  simp only [poolConfig, hcheck, hkeep, hleads, zero_ne_one, if_false, if_true, ceilDiv_two]
  rfl

end Pools

theorem firstBelow_none {n : Nat} {p : Nat → Bool} (h : ∀ j < n, p j = false) : firstBelow n p = none := by
  simpa [firstBelow] using h

theorem sharesSet_all (hsome : ef e 4 0 5 ≠ 0) (hfit : ef e 4 0 5 ≤ 27)
    (hrange : ∀ j < ef e 4 0 5, (shareCtxs e).getD j 0 < nContexts b)
    (hnew : ∀ j < ef e 4 0 5, (shareCtxs e).getD j 0 ∉ (shareCtxs e).take j)
    (hactive : ∀ j < ef e 4 0 5, (ctxOf b ((shareCtxs e).getD j 0)).state = .active) :
    sharesSet i e b = admFinal i .ok ((List.range (ef e 4 0 5)).foldl (fun b j =>
      modSchCtx ((shareCtxs e).getD j 0) (fun r => { r with share := ef e (5 + j) 16 16 }) b) b) := by
  have hlen : ¬(ef e 4 0 5 = 0 ∨ 27 < ef e 4 0 5) := by omega
  have hparam : firstBelow (ef e 4 0 5) (fun j => decide (nContexts b ≤ (shareCtxs e).getD j 0)
      || ((shareCtxs e).take j).contains ((shareCtxs e).getD j 0)) = none :=
    firstBelow_none fun j hj => by
      have hseen := Bool.eq_false_iff.mpr (mt List.contains_iff_mem.mp (hnew j hj))
      rw [hseen, decide_eq_false (Nat.not_le.mpr (hrange j hj)), Bool.or_self]
  have hstate : firstBelow (ef e 4 0 5) (fun j => (ctxOf b ((shareCtxs e).getD j 0)).state != .active) = none :=
    firstBelow_none fun j hj => by rw [hactive j hj, bne_self_eq_false]
  simp only [sharesSet, if_neg hlen, hparam, hstate]

section Slots

variable (hfree : (mosOf b (ef e 4 0 6)).state ≠ .free)
  (hreleasing : (mosOf b (ef e 4 0 6)).state ≠ .releasing)
include hfree hreleasing

theorem slot_held : ((mosOf b (ef e 4 0 6)).state == .free || (mosOf b (ef e 4 0 6)).state == .releasing) = false := by
  simp [hfree, hreleasing]

theorem boardLoad_reads (hbuf : bufBad (dword e 6) 16 16 = none) : boardLoad i e b = admRead i b := by
  simp only [boardLoad, slot_held hfree hreleasing, hbuf, Bool.false_eq_true, if_false]

theorem partitionReset_starts : partitionReset i e b = startPart (ef e 4 0 6) 0 none (some i) b := by
  simp only [partitionReset, slot_held hfree hreleasing, Bool.false_eq_true, if_false]

end Slots

/-- A reset that a command asks for of a slot that is not in reset begins with step 1, and is counted (R368). -/
theorem startPart_first {k : Nat} (halive : b.flt.stale = false) (hnone : tget none b.flt.parts k = none) :
    startPart k 0 none (some i) b = { b with flt := { b.flt with
      parts := tset none b.flt.parts k (some { step := 1, src := 0, cause := none, adms := [i], lanes := []
                                               ranges := [], out := 0 })
      partResets := satAdd 32 b.flt.partResets 1 } } := by
  simp only [startPart, halive, hnone, Bool.false_eq_true, if_false, ne_eq, not_true_eq_false]
  rfl

theorem leaseConfig_off (hoff : ef e 4 8 1 = 1) : leaseConfig i e b =
    admFinal i .ok { b with flt := { b.flt with leaseOff := true, leaseDead := none } } := by
  simp [leaseConfig, leaseStart, hoff]

theorem leaseConfig_on (hon : ef e 4 8 1 = 0) (hlow : 20 ≤ ef e 4 0 5) (hhigh : ef e 4 0 5 ≤ 31) :
    leaseConfig i e b = admFinal i .ok { b with flt := { b.flt with
      leaseOff := false, leaseLog2 := ef e 4 0 5, leaseDead := some (refNow b + 2 ^ ef e 4 0 5) } } := by
  have hperiod : ¬(ef e 4 0 5 < 20 ∨ 31 < ef e 4 0 5) := by omega
  simp [leaseConfig, leaseStart, hon, hperiod, refNow]

/-- Settles O19: each command that passes its checks makes its change. -/
theorem schedulingCommands : Obligations.SchedulingCommands := by
  unfold Obligations.SchedulingCommands
  refine ⟨?member, ?leader, ?remove, ?shares, ?board, ?partition, ?lease⟩
  case member =>
    intro b cs i e h s hcheck hkeep hmember
    have row : exec (.poolConfig (i % 1024)) ⟨b, cs⟩ = nextAfter (poolConfig i e s) cs := adminWork_ready h
    rw [row, poolConfig_member hcheck hkeep hmember]
    rfl
  case leader =>
    intro b cs i e h s hcheck hkeep hleads
    have row : exec (.poolConfig (i % 1024)) ⟨b, cs⟩ = nextAfter (poolConfig i e s) cs := adminWork_ready h
    rw [row, poolConfig_leader hcheck hkeep hleads]
    rfl
  case remove =>
    intro b cs i e h s hcheck hremove
    have row : exec (.poolConfig (i % 1024)) ⟨b, cs⟩ = nextAfter (poolConfig i e s) cs := adminWork_ready h
    rw [row, poolConfig_removes hcheck hremove]
  case shares =>
    intro b cs i e h n hsome hfit hall
    have row : exec (.sharesSet (i % 1024)) ⟨b, cs⟩ = nextAfter (sharesSet i e (admStarted i b)) cs :=
      adminWork_ready h
    rw [row, sharesSet_all (b := admStarted i b) hsome hfit (fun j hj => (hall j hj).1)
      (fun j hj => (hall j hj).2.1) (fun j hj => (hall j hj).2.2)]
    rfl
  case board =>
    intro b cs i e h hfree hreleasing hbuf
    have row : exec (.boardLoad (i % 1024)) ⟨b, cs⟩ = nextAfter (boardLoad i e (admStarted i b)) cs :=
      adminWork_ready h
    rw [row, boardLoad_reads (b := admStarted i b) hfree hreleasing hbuf]
    rfl
  case partition =>
    intro b cs i e h k s hfree hreleasing hnone
    have row : exec (.partitionReset (i % 1024)) ⟨b, cs⟩ = nextAfter (partitionReset i e s) cs := adminWork_ready h
    have halive : s.flt.stale = false := alive_of_running (running_of_serving (admReady_parts h).1)
    rw [row, partitionReset_starts (b := s) hfree hreleasing, startPart_first halive hnone]
  case lease =>
    intro b cs i e h
    have row : exec (.leaseConfig (i % 1024)) ⟨b, cs⟩ = nextAfter (leaseConfig i e (admStarted i b)) cs :=
      adminWork_ready h
    rw [row]
    refine ⟨fun hoff => ?_, fun hon hlow hhigh => ?_⟩
    · rw [leaseConfig_off hoff]
      rfl
    · rw [leaseConfig_on hon hlow hhigh]
      rfl

end Sys2Proof.Machine

/-! ### A turn from its formation to its commit -/

namespace Sys2Proof.Machine

variable {b g h : Block} {cs : List Instr} {k i t : Nat} {f : Forming} {s : Seqn}

section Rows

theorem tMax_eq {l : Loop} {budget : Nat} : tMax l s budget =
    if s.promptLen ≤ s.pos then min (s.draft + 1) (min (s.maxTok - s.gen) (2 ^ 40 - 1 - s.pos))
    else min l.chunk (min (s.promptLen - s.pos) budget) := by
  simp only [tMax, Seqn.decoding, decide_eq_true_eq]

theorem ringNeed_eq : ringNeed s t =
    if s.promptLen ≤ s.pos then t else if s.pos + t = s.promptLen then 1 else 0 := by
  simp only [ringNeed, Seqn.decoding, decide_eq_true_eq]

/-- The positions that a row of sequence `i` takes. -/
def rowPositions (k i : Nat) (f : Forming) : Nat := tMax (loopOf f.b k) (seqnOf f.b i) f.budget

/-- The records of a row of `t` positions of sequence `i` have their space reserved. -/
def rowReserved (i t : Nat) (b : Block) : Block :=
  modRing (seqnOf b i).ctx (fun r => { r with resv := r.resv + ringNeed (seqnOf b i) t }) b

theorem ringRoom_none (h : (ringOf b (seqnOf b i).ctx).usable = false
    ∨ (ringOf b (seqnOf b i).ctx).room < ringNeed (seqnOf b i) t) : ringRoom i t b = none := by
  rcases h with h | h
  · simp [ringRoom, h]
  · simp [ringRoom, Nat.not_le.mpr h]

theorem ringRoom_some (husable : (ringOf b (seqnOf b i).ctx).usable = true)
    (hroom : ringNeed (seqnOf b i) t ≤ (ringOf b (seqnOf b i).ctx).room) :
    ringRoom i t b = some (rowReserved i t b) := by
  simp [ringRoom, husable, hroom, rowReserved]

/-- The row of sequence `i` has no position to take, or its ring no room for the records. -/
def RowBarred (k i : Nat) (f : Forming) : Prop := rowPositions k i f = 0 ∨ ringRoom i (rowPositions k i f) f.b = none

/-- The row of sequence `i` has positions to take, and the records of it have their space in the block `g`. -/
structure RowFits (k i : Nat) (f : Forming) (g : Block) : Prop where
  takes : rowPositions k i f ≠ 0
  room : ringRoom i (rowPositions k i f) f.b = some g

/-- The block in which a row of sequence `i` has its ring space and the pages of `n` positions. -/
def rowPlaced (k i n : Nat) (f : Forming) : Option Block :=
  if rowPositions k i f = 0 then none else (ringRoom i (rowPositions k i f) f.b).bind (takeFor i n)

theorem rowPlaced_barred {n : Nat} (hb : RowBarred k i f) : rowPlaced k i n f = none := by
  rcases hb with h | h <;> simp [rowPlaced, h]

theorem rowPlaced_fits {n : Nat} (hf : RowFits k i f g) : rowPlaced k i n f = takeFor i n g := by
  rw [rowPlaced, if_neg hf.takes, hf.room, Option.bind_some]

theorem formCont_barred (hb : RowBarred k i f) : formCont k i f = f := by
  by_cases hzero : rowPositions k i f = 0
  · exact if_pos hzero
  · have hnone := hb.resolve_left hzero
    rw [rowPositions] at hzero hnone
    simp only [formCont, if_neg hzero, hnone]

theorem formCont_parks (hf : RowFits k i f g) (htake : takeFor i ((seqnOf f.b i).pos + rowPositions k i f) g = none) :
    formCont k i f = { f with b := parkSeq i f.b, blocked := true, out := f.out ++ [i] } := by
  obtain ⟨hsome, hroom⟩ := hf
  rw [rowPositions] at hsome hroom htake
  simp only [formCont, if_neg hsome, hroom, htake]

theorem formCont_adds (hf : RowFits k i f g) (htake : takeFor i ((seqnOf f.b i).pos + rowPositions k i f) g = some h) :
    formCont k i f = addRow i (rowPositions k i f) h f := by
  obtain ⟨hsome, hroom⟩ := hf
  rw [rowPositions] at hsome hroom htake
  simp only [formCont, if_neg hsome, hroom, htake, rowPositions]

theorem formParked_stays (hnone : rowPlaced k i ((seqnOf f.b i).pos + rowPositions k i f) f = none) :
    formParked k i f = { f with blocked := true, out := f.out ++ [i] } := by
  rw [rowPlaced, rowPositions] at hnone
  simp only [formParked, hnone]

theorem formParked_adds (hsome : rowPlaced k i ((seqnOf f.b i).pos + rowPositions k i f) f = some h) :
    formParked k i f = addRow i (rowPositions k i f) h f := by
  rw [rowPlaced, rowPositions] at hsome
  simp only [formParked, hsome, rowPositions]

theorem formJoins_wait {is : List Nat} (hnone : rowPlaced k i (rowPositions k i f) f = none) :
    formJoins k (i :: is) f = { f with out := f.out ++ (i :: is) } := by
  rw [rowPlaced, rowPositions] at hnone
  simp only [formJoins, hnone]

theorem formJoins_adds {is : List Nat} (hsome : rowPlaced k i (rowPositions k i f) f = some h) :
    formJoins k (i :: is) f = formJoins k is (addRow i (rowPositions k i f) h f) := by
  rw [rowPlaced, rowPositions] at hsome
  simp only [formJoins, hsome, rowPositions]

theorem takeFor_none_iff {n : Nat} : takeFor i n b = none ↔
    let p := poolOf b (seqnOf b i).pool
    (seqnOf b i).pages < p.need n ∧ (p.failed = true ∨ p.free < p.need n - (seqnOf b i).pages) := by
  dsimp only [takeFor]
  split
  next hheld => simp [Nat.not_lt.mpr hheld]
  next hlacks =>
    rw [and_iff_right (Nat.not_le.mp hlacks)]
    split
    next hfailed => simp [hfailed]
    next hsound =>
      split
      next hfree => simp [hsound, Nat.not_lt.mpr hfree]
      next hfree => simp [Nat.not_le.mp hfree]

end Rows

section Formation

/-- The formation of slot `k` before its first row. -/
def formStart (k : Nat) (b : Block) : Forming :=
  { b := b, budget := (loopOf b k).turnTokens, rows := [], blocked := false, out := [] }

/-- Sequences by descending priority, those of one priority in the order in which they stand. -/
def byPriority (b : Block) (l : List Nat) : List Nat := sortKey (fun i => 3 - (seqnOf b i).prio) l

/-- Sequences in the order of their arrival. -/
def byArrival (b : Block) (l : List Nat) : List Nat := sortKey (fun i => (seqnOf b i).order) l

/-- The continuing sequences of slot `k`, in the order of step 2 of R249. -/
def activeSeqs (b : Block) (k : Nat) : List Nat := byPriority b (seqsIn b k .active)

/-- The sequences of slot `k` parked before, in the order of step 3 of R249. -/
def parkedSeqs (b : Block) (k : Nat) : List Nat := byPriority b (byArrival b (seqsIn b k .parked))

/-- The sequences that wait to join slot `k`, in the order of step 4 of R249. -/
def joiningSeqs (b : Block) (k : Nat) : List Nat := byArrival b (seqsIn b k .joining)

/-- The formation once the continuing sequences and those parked before are served. -/
def formServed (k : Nat) (b : Block) : Forming :=
  (parkedSeqs b k).foldl (fun f i => formParked k i f)
    ((activeSeqs b k).foldl (fun f i => formCont k i f) (formStart k b))

theorem formTurn_leaseExpired (hl : (formStep1 k b).hub.leaseExpired = true) : formTurn k b =
    let c := formStep1 k b
    { formStart k c with
      b := (activeSeqs c k).foldl (fun b i => parkSeq i b) c
      out := parkedSeqs c k ++ activeSeqs c k ++ joiningSeqs c k } := if_pos hl

theorem formTurn_leased (hl : (formStep1 k b).hub.leaseExpired = false) : formTurn k b =
    let c := formStep1 k b
    if (formServed k c).blocked then { formServed k c with out := (formServed k c).out ++ joiningSeqs c k }
    else formJoins k (joiningSeqs c k) (formServed k c) := if_neg (ne_true_of_eq_false hl)

section Leaves

/-- The pages of sequence `i` go back to its pool, and it leaves (R249 step 1). -/
def retiredLeaves (i : Nat) (b : Block) : Block :=
  leaveSeq i (modSeqn i (fun s => { s with state := .leaving, pages := 0, dataPg := [], mapPg := [] })
    (cover i 0 (endSeq i 0 b)))

variable (honly : (b.bat.seqs.filter (fun e => e.2.mslot == k)).map (·.1) = [i])
include honly

theorem formStep1_retired (hretire : (seqnOf b i).retire = true)
    (hlive : (seqnOf b i).state = .active ∨ (seqnOf b i).state = .parked ∨ (seqnOf b i).state = .joining)
    (hpool : (poolOf b (seqnOf b i).pool).failed = false) : formStep1 k b = retiredLeaves i b := by
  rcases hlive with h | h | h <;> simp [formStep1, honly, hretire, h, hpool, retiredLeaves]

theorem formStep1_joining (hretire : (seqnOf b i).retire = false) (hjoining : (seqnOf b i).state = .joining) :
    formStep1 k b = b := by
  simp [formStep1, honly, hretire, hjoining]

end Leaves

end Formation

section Turns

variable {tn : Turn}

theorem turnFormation_forms (hleads : leads b k = true) (hloop : (loopOf b k).oid.isSome = true)
    (hidle : (loopOf b k).turn = none) (hevent : (loopOf b k).event = true) (hheld : (mosOf b k).held = false)
    (hon : domOn b 2 = true) : turnFormation k b =
      let r := modLoop k (fun l => { l with event := false, leaseHeld := false }) b
      pumpRings (ringVectors b (formed k (formTurn k r))) := by
  obtain ⟨oid, hoid⟩ := Option.isSome_iff_exists.mp hloop
  have hgo : (!leads b k || (loopOf b k).oid.isNone || (loopOf b k).turn.isSome || !(loopOf b k).event
      || (mosOf b k).held || !domOn b 2) = false := by
    simp [hleads, hoid, hidle, hevent, hheld, hon]
  simp only [turnFormation, hgo, Bool.false_eq_true, if_false]

/-- The LAUNCH_TURN that runs the loop of slot `k` makes progress. -/
def loopProgress (k : Nat) (b : Block) : Block :=
  match (loopOf b k).oid.bind (opOf b) with
  | some o => progress o.q b
  | none => b

theorem allArrivedTurn_of_children (h : ∀ c ∈ childNodes b k, c ∈ tn.arrived) : allArrivedTurn b k tn = true := by
  simpa [allArrivedTurn] using h

theorem commitReady_of_all (hpublished : tn.published = true)
    (hdone : tn.instDone = true ∨ instComplete b tn.inst = true) (harrived : ∀ c ∈ childNodes b k, c ∈ tn.arrived)
    (htokens : tn.subToks ≤ tn.fwdGot) : commitReady b k tn = true := by
  simp [commitReady, hpublished, hdone, allArrivedTurn_of_children harrived, htokens]

variable (hturn : (loopOf b k).turn = some tn)
include hturn

theorem arriveSend_sends (hmember : leads b k = false) (hnew : tn.arriveSent = false)
    (hdone : instComplete b tn.inst = true) (harrived : ∀ c ∈ childNodes b k, c ∈ tn.arrived) : arriveSend k b =
      let f := flushTokens k b
      let m := sendMos 0x29 (leBytes tn.num 8 ++ leBytes (tn.fwdOwn + tn.subToks) 4) k (parentNode f k) f
      modLoop k (fun l => { l with
        dead := some (hubNow m + m.bat.timeout)
        turn := l.turn.map (fun t => { t with arriveSent := true, instDone := true }) }) m := by
  have hgo : (leads b k || tn.arriveSent || !instComplete b tn.inst || !allArrivedTurn b k tn) = false := by
    simp [hmember, hnew, hdone, allArrivedTurn_of_children harrived]
  simp only [arriveSend, hturn, hgo, Bool.false_eq_true, if_false]

theorem commitTurn_commits (hleads : leads b k = true) (hready : commitReady b k tn = true) : commitTurn k b =
    let c := commitRows tn.num tn.rows [] b
    let r := c.1.foldl (fun b e => pushFold e.1 { kind := 3, ranks := ranksOf b k, body := e.2, mark := none } b) c.2
    let r := modLoop k (fun l => { l with
      n := (l.n + 1) % 2 ^ 64, turn := none, dead := none, event := true
      left := if l.left = 0xFFFFFFFF then l.left else l.left - 1 }) (loopProgress k r)
    pruneInsts (pumpRings (ringVectors b (if tn.final then finishLoop k r else r))) := by
  have hgo : (!leads b k || !commitReady b k tn) = false := by simp [hleads, hready]
  simp only [commitTurn, hturn]
  exact if_neg (ne_true_of_eq_false hgo)

theorem barrierTimeout_aborts {d : Nat} (hdead : (loopOf b k).dead = some d) (hpast : d < hubNow b)
    (hheld : (mosOf b k).held = false) : barrierTimeout k b =
      abortTurn k .lost (sendAbort k tn.num Status.mosaicBroken.code none b) := by
  have hgo : (!due (hubNow b) (loopOf b k).dead || (mosOf b k).held) = false := by
    simp [hdead, due, expired, hpast, hheld]
  simp only [barrierTimeout, hturn, hgo, Bool.false_eq_true, if_false]

end Turns

section Records

variable {id c e : Nat} {st : BitVec 2}

theorem tokenResponse_record (hw : tget none b.hub.writes (id % 512) = some (.token c e)) :
    tokenResponse id st b = tokenAnswer c st (writeTaken id b) := by
  simp only [tokenResponse, writeUse, writeResponse, takeWrite, hw, writeTaken]

theorem tokenAnswer_ok : tokenAnswer c 0 b = b := rfl

/-- The context's ring takes no more records, and its error vector and a report say so (R261). -/
theorem tokenAnswer_failed (hst : st ≠ 0) : tokenAnswer c st b =
    report (uccReport 0x19 4 c .complUndeliverable 0)
      (msix (4 * c + 3) (modRing c (fun g => { g with undel := true }) b)) := if_neg hst

end Records

/-- Settles O41: the five commands of a turn, then what each step of a formation makes of a sequence. -/
theorem turnCommands : Obligations.TurnCommands := by
  unfold Obligations.TurnCommands
  refine ⟨?form, ?arrive, ?commit, ?barrier, ?record, ?row, ?add, ?turn, ?leave⟩
  case form =>
    intro b cs k hs hk hleads hloop hidle hevent hheld hon
    have row : exec (.turnFormation k) ⟨b, cs⟩ = nextAfter (turnFormation k b) cs := atUnit_work_eq hs hk
    rw [row, turnFormation_forms hleads hloop hidle hevent hheld hon]
  case arrive =>
    intro b cs k t hs hk hmember hturn hnew hdone harrived
    have row : exec (.arriveSend k) ⟨b, cs⟩ = nextAfter (arriveSend k b) cs := atUnit_work_eq hs hk
    rw [row, arriveSend_sends hturn hmember hnew hdone harrived]
  case commit =>
    intro b cs k t hs hk hleads hturn hpublished hdone harrived htokens
    have row : exec (.commit k) ⟨b, cs⟩ = nextAfter (commitTurn k b) cs := atUnit_work_eq hs hk
    have hready : commitReady b k t = true := commitReady_of_all hpublished hdone harrived htokens
    exact row.trans (congrArg (nextAfter · cs) (commitTurn_commits hturn hleads hready))
  case barrier =>
    intro b cs k d t hs hk hturn hdead hpast hheld
    have row : exec (.turnBarrierTimeout k) ⟨b, cs⟩ = nextAfter (barrierTimeout k b) cs := atUnit_work_eq hs hk
    rw [row, barrierTimeout_aborts hturn hdead hpast hheld]
  case record =>
    intro b cs id c e st hs hw r
    have row : exec (.tokenRecordResponse id st) ⟨b, cs⟩ = nextAfter (tokenResponse id st b) cs := work_eq hs
    rw [row, tokenResponse_record hw]
    refine ⟨fun hok => ?_, fun hfailed => ?_⟩
    · rw [hok, tokenAnswer_ok]
      rfl
    · rw [tokenAnswer_failed hfailed]
      rfl
  case row =>
    intro k i is f s t need g
    have ht : t = rowPositions k i f := tMax_eq.symm
    have hneed : need = ringNeed s t := ringNeed_eq.symm
    have hg : g = rowReserved i t f.b := by rw [rowReserved, ← hneed]
    clear_value g need t
    subst hg hneed ht
    refine ⟨fun hno => ?_, fun hsome husable hroom => ?_⟩
    · have hbarred : RowBarred k i f := hno.imp_right ringRoom_none
      exact ⟨formCont_barred hbarred, formParked_stays (rowPlaced_barred hbarred),
        formJoins_wait (rowPlaced_barred hbarred)⟩
    · have hfits : RowFits k i f (rowReserved i (rowPositions k i f) f.b) := ⟨hsome, ringRoom_some husable hroom⟩
      refine ⟨fun htake => ?_, fun htake => ?_, fun h htake => ?_, fun h htake => ?_⟩
      · exact ⟨formCont_parks hfits htake, formParked_stays ((rowPlaced_fits hfits).trans htake)⟩
      · exact formJoins_wait ((rowPlaced_fits hfits).trans htake)
      · exact ⟨formCont_adds hfits htake, formParked_adds ((rowPlaced_fits hfits).trans htake)⟩
      · exact formJoins_adds ((rowPlaced_fits hfits).trans htake)
  case add =>
    intro i t n b f
    exact ⟨rfl, List.map_append, takeFor_none_iff⟩
  case turn =>
    intro b k c byPrio byOrder start active parked joining served
    refine ⟨fun hexpired => ?_, fun hleased hblocked => ?_, fun hleased hopen => ?_⟩
    · exact formTurn_leaseExpired hexpired
    · exact (formTurn_leased hleased).trans (if_pos hblocked)
    · exact (formTurn_leased hleased).trans (if_neg (ne_true_of_eq_false hopen))
  case leave =>
    intro b k i honly s
    exact ⟨fun hretire hlive hpool => formStep1_retired honly hretire hlive hpool,
      fun hretire hjoining => formStep1_joining honly hretire hjoining⟩

end Sys2Proof.Machine

/-! ### Commands on mosaics -/

namespace Sys2Proof.Machine

variable {b : Block} {i : Nat} {e : List Byte}

/-- A MOSAIC_CREATE whose own fields pass begins to read its member list (R271). -/
theorem mosaicCreate_reads (hready : b.fab.phase = 8) (hfree : (mosOf b (ef e 4 0 6)).state = .free)
    (hid : ef e 4 16 16 ≠ 0) (hnew : slotOfId b (ef e 4 16 16) = none) (hsome : ef e 5 0 15 ≠ 0)
    (hfit : ef e 5 0 15 ≤ 16384) (hbuf : bufBad (dword e 6) (64 * ef e 5 0 15) 64 = none) :
    mosaicCreate i e b = admRead i b := by
  simp [mosaicCreate, hready, hfree, hid, hnew, hsome, Nat.not_lt.mpr hfit, hbuf]

section Bind

variable {k : Nat}

theorem bindRun_waiting (hbind : (mosOf b k).bind = some i) : bindRun k b =
    if linksInForce b k then admFinal i .ok (sendJoin k (modMos k (fun m => { m with state := .joining, bind := none }) b))
    else b := by
  simp only [bindRun, hbind]
  cases linksInForce b k <;> rfl

theorem linksInForce_iff : linksInForce b k = true ↔
    tget 0 (epochOf b (b.fab.epoch % 4)).masks k = (mosOf b k).links := by
  simp only [linksInForce, beq_iff_eq]

end Bind

/-- A MOSAIC_BIND that passes R272's checks takes the tesserae and waits for its link masks. -/
theorem mosaicBind_takes (hcreated : (mosOf b (ef e 4 0 6)).state = .created)
    (hfirst : (mosOf b (ef e 4 0 6)).bind = none)
    (hadd : addCheck b (entrySets e).1 (entrySets e).2.1 (entrySets e).2.2 = none)
    (hscratch : scratchOn b (mosOf b (ef e 4 0 6)) (entrySets e).2.1 = true) :
    mosaicBind i e b = bindRun (ef e 4 0 6) (setLinks (ef e 4 0 6) (entrySets e).2.2
      (modMos (ef e 4 0 6) (fun m => { m with bind := some i, cores := (entrySets e).1, chans := (entrySets e).2.1 }) b)) := by
  simp [mosaicBind, hcreated, hfirst, hadd, hscratch]

/-- A MOSAIC_REBIND that keeps the member list begins its changes with the cores (R274). -/
theorem mosaicRebind_begins (hready : (mosOf b (ef e 4 0 6)).state = .ready)
    (hfirst : (mosOf b (ef e 4 0 6)).rebind = none) (hkeep : ef e 4 8 1 = 0)
    (hcheck : rebindCheck b (ef e 4 0 6) e = none) :
    mosaicRebind i e b = modMos (ef e 4 0 6) (fun m => { m with
      rebind := some { adm := i, step := 2, cores := (entrySets e).1, chans := (entrySets e).2.1
                       links := (entrySets e).2.2, members := none, move := entryMove e, waits := false }
      state := if m.state == .ready then .rebinding else m.state }) b := by
  simp [mosaicRebind, rebindBegin, hready, hfirst, hkeep, hcheck]

/-- The slot that a MOSAIC_RELEASE names is RELEASING: what it had in progress has ended, its members know, its board is
stopped and its channels are to be scrubbed (R275). -/
def releaseBegun (i k : Nat) (b : Block) : Block :=
  let f := releaseEnds k b
  modMos k (fun m => { m with
    state := .releasing, chans := 0
    rel := some { adm := i, step := 1, ranges := scrubRanges f k, out := 0, chans := (mosOf f k).chans
                  links := portsHeld f k } }) (schStop k (sendMembers 0x11 [0] k f))

/-- The redirects that slot `k` owns are gone. -/
def redirectsDropped (k : Nat) (b : Block) : Block :=
  { b with fab := { b.fab with redirects := b.fab.redirects.filter (fun x => tget 0 b.fab.redirOwner x.1 != k + 1) } }

theorem mosaicRelease_begins {k : Nat} (hk : ef e 4 0 6 = k) (hfree : (mosOf b k).state ≠ .free)
    (hreleasing : (mosOf b k).state ≠ .releasing) (hidle : releaseHeld b k = false) :
    mosaicRelease i e b =
      let r := redirectsDropped k (releaseBegun i k b)
      setLinks k 0 (unbindCores k (mosOf r k).cores r) := by
  subst hk
  simp only [mosaicRelease, slot_held hfree hreleasing, hidle, Bool.or_self, Bool.false_eq_true, if_false]
  rfl

/-- Settles O18: each command that passes its checks, and the bind that waits for its link masks. -/
theorem mosaicCommands : Obligations.MosaicCommands := by
  unfold Obligations.MosaicCommands
  refine ⟨?create, ?bind, ?masks, ?rebind, ?release⟩
  case create =>
    intro b cs i e h hready hfree hid hnew hsome hfit hbuf
    have row : exec (.mosaicCreate (i % 1024)) ⟨b, cs⟩ = nextAfter (mosaicCreate i e (admStarted i b)) cs :=
      adminWork_ready h
    rw [row, mosaicCreate_reads (b := admStarted i b) hready hfree hid hnew hsome hfit hbuf]
    rfl
  case bind =>
    intro b cs i e h k s hcreated hfirst hadd hscratch t
    have row : exec (.mosaicBind (i % 1024)) ⟨b, cs⟩ = nextAfter (mosaicBind i e s) cs := adminWork_ready h
    rw [row, mosaicBind_takes (b := s) hcreated hfirst hadd hscratch]
  case masks =>
    intro b k i hbind
    simp only [bindRun_waiting hbind, linksInForce_iff]
    rfl
  case rebind =>
    intro b cs i e h k s hready hfirst hkeep hcheck
    have row : exec (.mosaicRebind (i % 1024)) ⟨b, cs⟩ = nextAfter (mosaicRebind i e s) cs := adminWork_ready h
    rw [row, mosaicRebind_begins (b := s) hready hfirst hkeep hcheck]
  case release =>
    intro b cs i e h k s hfree hreleasing hidle
    have row : exec (.mosaicRelease (i % 1024)) ⟨b, cs⟩ = nextAfter (mosaicRelease i e s) cs := adminWork_ready h
    rw [row, mosaicRelease_begins (b := s) (k := k) rfl hfree hreleasing hidle]
    rfl

end Sys2Proof.Machine

/-! ### Discovery messages -/

namespace Sys2Proof.Machine

variable {b : Block} {port : Nat} {m : SerdoMsg} {down : Nat → Nat → Block → Block}

section Acts

theorem serdoAct_hello (h : m.typ = 0x01) : serdoAct port m b = takeHello nodeDownOwn port m b := by
  simp only [serdoAct, h]

theorem serdoAct_elect (h : m.typ = 0x02) : serdoAct port m b = takeElect port m b := by simp only [serdoAct, h]

theorem serdoAct_echo (h : m.typ = 0x03) : serdoAct port m b = takeEcho port m b := by simp only [serdoAct, h]

theorem serdoAct_assign (h : m.typ = 0x04) : serdoAct port m b = takeAssignMsg port m b := by simp only [serdoAct, h]

theorem serdoAct_map (h : m.typ = 0x05) : serdoAct port m b = takeMap port m b := by simp only [serdoAct, h]

theorem serdoAct_routesReady (h : m.typ = 0x06) : serdoAct port m b = takeRoutesReady port m b := by
  simp only [serdoAct, h]

theorem serdoAct_ready (h : m.typ = 0x07) : serdoAct port m b = takeReady port b := by simp only [serdoAct, h]

theorem serdoAct_nodeDown (h : m.typ = 0x09) : serdoAct port m b = takeNodeDown port m b := by simp only [serdoAct, h]

theorem serdoAct_joinRequest (h : m.typ = 0x0A) : serdoAct port m b = takeJoinRequest port m b := by
  simp only [serdoAct, h]

end Acts

section Hello

theorem notePeer_phase : (notePeer port m b).fab.phase = b.fab.phase := rfl

theorem notePeer_unnamedRoot (hflags : bodyNat m 22 1 = 0) : notePeer port m b = modPort port (fun r => { r with
      hello := true, ver := min 2 (bodyNat m 18 1)
      peerNode := if bodyNat m 20 2 = 0xFFFF then r.peerNode else bodyNat m 20 2, named := bodyNat m 20 2 != 0xFFFF
      peerPort := bodyNat m 19 1
      peerSerial := bodyNat m 0 8, peerTie := bodyNat m 8 8, peerPin := bodyNat m 16 2, root := none }) b := by
  simp [notePeer, hflags, bitOf]

variable (hw : b.fab.withdrawn = false) (hfresh : bitOf (bodyNat m 22 1) 1 = false)
include hw hfresh

/-- A HELLO that is not FRESH, of a neighbour that is not READY, goes on with the HELLO phase. -/
theorem takeHello_notReady (hready : bitOf (bodyNat m 22 1) 0 = false) (hserves : b.fab.phase ≠ 8) :
    takeHello down port m b = floodCheck (helloCheck (notePeer port m b)) := by
  simp [takeHello, hw, freshHere, hfresh, notePeer_phase, hready, hserves]

/-- One of a READY neighbour makes a block that has no node ID yet join in service (R306). -/
theorem takeHello_ready (hready : bitOf (bodyNat m 22 1) 0 = true) (hlow : 1 ≤ b.fab.phase) (hhigh : b.fab.phase ≤ 3) :
    takeHello down port m b = joinBy port (bodyNat m 23 2) (notePeer port m b) := by
  have hserves : b.fab.phase ≠ 8 := by omega
  simp [takeHello, hw, freshHere, hfresh, notePeer_phase, hready, hserves, hlow, hhigh]

end Hello

section Election

/-- The election that follows the wave of key `key`, which came by port `port`. -/
def electFollows (port key : Nat) (b : Block) : Elect :=
  { best := key, parent := some port, pend := (helloPorts b).filter (· != port), nodes := 1
    pinned := if b.fab.fru.pinned then 1 else 0, height := 0, children := [], done := false, told := false }

/-- The election no longer waits for port `port`. -/
def electHeard (port : Nat) (e : Elect) : Elect := { e with pend := e.pend.filter (· != port) }

/-- Port `port` leads to a child, whose subtree counts (R302). -/
def electChild (port : Nat) (m : SerdoMsg) (e : Elect) : Elect :=
  { electHeard port e with
    nodes := e.nodes + bodyNat m 20 4, pinned := e.pinned + bodyNat m 24 4, height := max e.height (bodyNat m 28 1)
    children := e.children ++ [{ port := port, size := bodyNat m 20 4, ready := false }] }

section Elect

variable (hw : b.fab.withdrawn = false) (hphase : b.fab.phase = 3) (hstart : b.fab.electing = false)
include hw hphase hstart

theorem takeElect_lower (hkey : bodyNat m 0 16 < b.fab.elect.best) : takeElect port m b =
    electEnd (waveStart (sendPorts 0x02 (leBytes (bodyNat m 0 16) 16) ((helloPorts b).filter (· != port))
      { b with fab := { b.fab with elect := electFollows port (bodyNat m 0 16) b, phase := 3, isRoot := false } })) := by
  simp [takeElect, hw, hphase, hstart, hkey, electFollows, b2n]

theorem takeElect_same (hkey : bodyNat m 0 16 = b.fab.elect.best) (hpend : port ∈ b.fab.elect.pend) :
    takeElect port m b =
      electEnd (waveStart { b with fab := { b.fab with elect := electHeard port b.fab.elect } }) := by
  simp [takeElect, hw, hphase, hstart, hkey, hpend, electHeard]

theorem takeElect_higher (hkey : b.fab.elect.best < bodyNat m 0 16) : takeElect port m b = b := by
  simp [takeElect, hw, hphase, hstart, hkey.not_gt, hkey.ne']

end Elect

theorem takeEcho_child (hkey : bodyNat m 0 16 = b.fab.elect.best) (hpend : port ∈ b.fab.elect.pend)
    (hchild : bitOf (bodyNat m 16 1) 0 = true) : takeEcho port m b =
      electEnd (waveStart { b with fab := { b.fab with elect := electChild port m b.fab.elect } }) := by
  simp [takeEcho, hkey, hpend, hchild, electChild, electHeard]

end Election

section Assign

variable (hstart : b.fab.electing = false)
include hstart

theorem takeAssignMsg_parent (hphase : b.fab.phase = 4) (hjoining : b.fab.joining = false)
    (hparent : b.fab.elect.parent = some port) : takeAssignMsg port m b =
      takeAssign (bodyNat m 0 2) (bodyNat m 2 2) (bodyNat m 4 1) (bodyNat m 5 1) (bodyNat m 6 1) (bodyNat m 8 16) b := by
  simp [takeAssignMsg, hstart, hphase, hjoining, hparent]

/-- A block that joins takes the ID given, and its map phase begins (R306). -/
theorem takeAssignMsg_joins (hphase : b.fab.phase = 4) (hjoining : b.fab.joining = true) (hmode : bodyNat m 5 1 ≠ 3) :
    takeAssignMsg port m b = waveStart (floodOwn (helloAll false { b with fab := { b.fab with
      node := bodyNat m 0 2, fabNodes := bodyNat m 2 2, nodes := bodyNat m 2 2, height := bodyNat m 4 1
      pinMode := bodyNat m 5 1, rootSerial := bodyNat m 8 16 / 2 ^ 64, phase := 5 } })) := by
  simp [takeAssignMsg, hstart, hphase, hjoining, hmode]

/-- A READY block hands an ASSIGN back the way that the request came (log entry 17). -/
theorem takeAssignMsg_relays {r : Nat × Nat} (hready : b.fab.phase = 8)
    (hrelay : b.fab.relays.find? (fun x => x.1 == port) = some r) (hmode : bodyNat m 5 1 ≠ 3) :
    takeAssignMsg port m b = sendPort 0x04 m.body r.2 { b with fab := { b.fab with
      relays := b.fab.relays.erase r, via := tset 0 b.fab.via (bodyNat m 0 2) (r.2 + 1) } } := by
  simp [takeAssignMsg, hstart, hready, relayAssign, hrelay, hmode]

end Assign

section Map

/-- The record of a node of which the first half of the MAP is known. -/
def mapFirst (m : SerdoMsg) : MapNode :=
  { serial := bodyNat m 2 8, first := true, second := false, live := true, links := mapLinks m }

/-- The block has the first half of a MAP that it did not know. -/
def mapNoted (m : SerdoMsg) (b : Block) : Block :=
  { b with fab := { b.fab with
    map := tset mapZero b.fab.map (bodyNat m 0 2) (mapFirst m)
    serials := tset 0 b.fab.serials (bodyNat m 2 8) (bodyNat m 0 2 + 1) } }

theorem mapFirst_ne_mapZero : mapFirst m ≠ mapZero := fun h => Bool.noConfusion (congrArg MapNode.first h)

@[simp] theorem mapZero_first : mapZero.first = false := rfl
@[simp] theorem mapZero_second : mapZero.second = false := rfl
@[simp] theorem mapZero_links : mapZero.links = [] := rfl

theorem otherSerial_unknown {node serial : Nat} (hnew : tget mapZero b.fab.map node = mapZero) :
    otherSerial b node serial = none := by
  simp [otherSerial, hnew]

theorem fab_foldPass (ps : List Nat) (b : Block) : (ps.foldl (fun b p => serdoPass m p b) b).fab = b.fab := by
  induction ps generalizing b with
  | nil => rfl
  | cons p ps ih => rw [List.foldl_cons, ih, serdoPass, emit_fab]

theorem fab_serdoFlood : (serdoFlood port m b).fab = b.fab := fab_foldPass _ _

/-- The first half of a MAP of a node that the block does not know is kept and passed on (R304). -/
theorem takeMap_first (hw : b.fab.withdrawn = false) (hphase : b.fab.phase = 5) (hother : bodyNat m 0 2 ≠ b.fab.node)
    (hhalf : bodyNat m 10 1 = 0) (hnew : tget mapZero b.fab.map (bodyNat m 0 2) = mapZero) : takeMap port m b =
      mapCheck (waveStart (serdoFlood port m (mapNoted m b))) := by
  have hchanges : mapFirst m ≠ mapZero := mapFirst_ne_mapZero
  rw [mapFirst] at hchanges
  simp [takeMap, hw, hphase, hother, hhalf, hnew, otherSerial_unknown hnew, hchanges, fab_serdoFlood, mapNoted, mapFirst]

end Map

section Routes

theorem takeRoutesReady_child (hchild : b.fab.elect.children.any (·.port == port) = true) (hlow : 5 ≤ b.fab.phase)
    (hhigh : b.fab.phase ≤ 7) : takeRoutesReady port m b =
      let heard (c : Child) : Child := if c.port == port then { c with ready := true } else c
      let e := { b.fab.elect with children := b.fab.elect.children.map heard }
      routesEcho (waveStart { b with fab := { b.fab with tables := b.fab.tables + bodyNat m 0 4, elect := e } }) := by
  refine if_neg ?_
  simp [hchild, hlow, hhigh]

theorem childGone_iff {c : Child} : childGone b c = true ↔ ∃ d ∈ b.fab.dups, d.1 = (portOf b c.port).peerSerial := by
  simp [childGone]

theorem routesEcho_tells {p : Nat} (hphase : b.fab.phase = 7) (hfirst : b.fab.elect.told = false)
    (hparent : b.fab.elect.parent = some p)
    (hall : ∀ c ∈ b.fab.elect.children, c.ready = true ∨ childGone b c = true) :
    routesEcho b = waveStart (sendPort 0x06 (leBytes b.fab.tables 4) p
      { b with fab := { b.fab with elect := { b.fab.elect with told := true } } }) := by
  have hnone : b.fab.elect.children.any (fun c => !c.ready && !childGone b c) = false := by
    simpa [or_iff_not_imp_left] using hall
  simp [routesEcho, hphase, hfirst, hparent, hnone]

theorem routesEcho_awaits {c : Child} (hchild : c ∈ b.fab.elect.children) (hready : c.ready = false)
    (hstays : childGone b c = false) : routesEcho b = b := by
  refine if_pos (.inr (.inr ?_))
  exact List.any_eq_true.mpr ⟨c, hchild, by simp [hready, hstays]⟩

theorem takeReady_parent (hphase : b.fab.phase = 7) (hparent : b.fab.elect.parent = some port) :
    takeReady port b = becomeReady b := by
  simp [takeReady, hphase, hparent]

end Routes

theorem nodeDownAct_repeat {from_ : Option (Nat × SerdoMsg)} {node cause : Nat} (hdown : node ∈ b.fab.downs) :
    nodeDownAct from_ node cause b = b := by
  simp [nodeDownAct, hdown]

theorem takeNodeDown_ready (hready : b.fab.phase = 8) : takeNodeDown port m b =
    nodeDownAct (some (port, m)) (bodyNat m 0 2) (bodyNat m 2 1) b := if_pos hready

section Join

/-- The pin that a JOIN_REQUEST names. -/
def joinPin (m : SerdoMsg) : Nat := fld (bodyNat m 16 2) 0 14

/-- Answer a JOIN_REQUEST that came by port `port` with ID `id` in a fabric of `n` nodes. -/
def joinAnswer (port id n mode code : Nat) (b : Block) : Block :=
  sendPort 0x04 (assignBody id n b.fab.height mode code (ownKey b)) port b

/-- The block of ID `id` is to join, and the way to it is the port of its request. -/
def joinNoted (port id serial : Nat) (b : Block) : Block :=
  { b with fab := { b.fab with
    joins := b.fab.joins.filter (fun x => x.1 != id && x.2 != serial) ++ [(id, serial)]
    via := tset 0 b.fab.via id (port + 1) } }

variable (hroot : b.fab.isRoot = true) (hready : b.fab.phase = 8) (hpinned : bitOf (bodyNat m 16 2) 15 = true)
include hroot hready hpinned

/-- A pin that a live node has is refused (R306). -/
theorem takeJoinRequest_taken (hlive : joinPin m ∈ liveNodes b) : takeJoinRequest port m b =
    joinAnswer port (joinPin m) (b.fab.nodes + 1) 3 1 b := by
  rw [joinPin] at hlive
  simp [takeJoinRequest, hroot, hready, hpinned, hlive, joinAnswer, joinPin]

theorem takeJoinRequest_pinned (hnew : joinPin m ∉ liveNodes b) : takeJoinRequest port m b =
    joinAnswer port (joinPin m) (b.fab.nodes + 1) 1 0 (joinNoted port (joinPin m) (bodyNat m 0 8) b) := by
  rw [joinPin] at hnew
  simp [takeJoinRequest, hroot, hready, hpinned, hnew, joinAnswer, joinPin, joinNoted, b2n]

end Join

/-- Settles O46: each message of R300 to R307 does the operation of its type, and each operation what its case says. -/
theorem discoveryMessages : Obligations.DiscoveryMessages := by
  unfold Obligations.DiscoveryMessages
  refine ⟨?hello, ?joins, ?elect, ?echo, ?assign, ?assignJoin, ?map, ?routesReady, ?routesTold, ?routesAwaited, ?ready,
    ?nodeDown, ?joinRequest⟩
  case hello =>
    intro b cs port m h hw hphase hflags
    have row : exec (.hello port m) ⟨b, cs⟩ = afterBeat (serdoAct port m b) cs := serdo_ready h
    have hfresh : bitOf (bodyNat m 22 1) 1 = false := by rw [hflags]; rfl
    have hready : bitOf (bodyNat m 22 1) 0 = false := by rw [hflags]; rfl
    rw [row, serdoAct_hello (serdo_typ h), takeHello_notReady hw hfresh hready (by omega), notePeer_unnamedRoot hflags]
  case joins =>
    intro b cs port m h hw hlow hhigh hflags
    have row : exec (.hello port m) ⟨b, cs⟩ = afterBeat (serdoAct port m b) cs := serdo_ready h
    have hfresh : bitOf (bodyNat m 22 1) 1 = false := by rw [hflags]; rfl
    have hready : bitOf (bodyNat m 22 1) 0 = true := by rw [hflags]; rfl
    rw [row, serdoAct_hello (serdo_typ h), takeHello_ready hw hfresh hready hlow hhigh]
    rfl
  case elect =>
    intro b cs port m h hw hphase hstart k
    have row : exec (.elect port m) ⟨b, cs⟩ = afterBeat (serdoAct port m b) cs := serdo_ready h
    rw [row, serdoAct_elect (serdo_typ h)]
    refine ⟨fun hkey => ?_, fun hkey hpend => ?_, fun hkey => ?_⟩
    · rw [takeElect_lower hw hphase hstart hkey]
      rfl
    · rw [takeElect_same hw hphase hstart hkey hpend]
      rfl
    · rw [takeElect_higher hw hphase hstart hkey]
  case echo =>
    intro b cs port m h hkey hpend hchild
    have row : exec (.echo port m) ⟨b, cs⟩ = afterBeat (serdoAct port m b) cs := serdo_ready h
    rw [row, serdoAct_echo (serdo_typ h), takeEcho_child hkey hpend hchild]
    rfl
  case assign =>
    intro b cs port m h hstart hphase hjoining hparent
    have row : exec (.assign port m) ⟨b, cs⟩ = afterBeat (serdoAct port m b) cs := serdo_ready h
    rw [row, serdoAct_assign (serdo_typ h), takeAssignMsg_parent hstart hphase hjoining hparent]
  case assignJoin =>
    intro b cs port m h hstart
    have row : exec (.assign port m) ⟨b, cs⟩ = afterBeat (serdoAct port m b) cs := serdo_ready h
    rw [row, serdoAct_assign (serdo_typ h)]
    refine ⟨fun hphase hjoining hmode => ?_, fun r hready hrelay hmode => ?_⟩
    · rw [takeAssignMsg_joins hstart hphase hjoining hmode]
    · rw [takeAssignMsg_relays hstart hready hrelay hmode]
  case map =>
    intro b cs port m h hw hphase hother hhalf hnew
    have row : exec (.mapRec port m) ⟨b, cs⟩ = afterBeat (serdoAct port m b) cs := serdo_ready h
    rw [row, serdoAct_map (serdo_typ h), takeMap_first hw hphase hother hhalf hnew]
    rfl
  case routesReady =>
    intro b cs port m h hchild hlow hhigh
    have row : exec (.routesReady port m) ⟨b, cs⟩ = afterBeat (serdoAct port m b) cs := serdo_ready h
    rw [row, serdoAct_routesReady (serdo_typ h), takeRoutesReady_child hchild hlow hhigh]
  case routesTold =>
    intro b p hphase hfirst hparent hall
    exact routesEcho_tells hphase hfirst hparent fun c hc => (hall c hc).imp_right childGone_iff.mpr
  case routesAwaited =>
    intro b c hchild hready hstays
    refine routesEcho_awaits hchild hready (Bool.eq_false_iff.mpr fun hgone => ?_)
    obtain ⟨d, hd, heq⟩ := childGone_iff.mp hgone
    exact hstays d hd heq
  case ready =>
    intro b cs port m h hphase hparent
    have row : exec (.ready port m) ⟨b, cs⟩ = afterBeat (serdoAct port m b) cs := serdo_ready h
    rw [row, serdoAct_ready (serdo_typ h), takeReady_parent hphase hparent]
    rfl
  case nodeDown =>
    intro b cs port m h hready
    have row : exec (.nodeDown port m) ⟨b, cs⟩ = afterBeat (serdoAct port m b) cs := serdo_ready h
    rw [row, serdoAct_nodeDown (serdo_typ h), takeNodeDown_ready hready]
    exact ⟨fun hdown => by rw [nodeDownAct_repeat hdown], rfl⟩
  case joinRequest =>
    intro b cs port m h hroot hready hpinned id n
    have row : exec (.joinRequest port m) ⟨b, cs⟩ = afterBeat (serdoAct port m b) cs := serdo_ready h
    rw [row, serdoAct_joinRequest (serdo_typ h)]
    refine ⟨fun hlive => ?_, fun hnew => ?_⟩
    · rw [takeJoinRequest_taken hroot hready hpinned hlive]
      rfl
    · rw [takeJoinRequest_pinned hroot hready hpinned hnew]
      rfl

end Sys2Proof.Machine

/-! ### The bounds of discovery and the identity reads -/

namespace Sys2Proof.Machine

variable {b : Block} {d : Nat} {l : List Byte}

theorem due_past {now : Nat} (hpast : d < now) : due now (some d) = true := decide_eq_true hpast

theorem trainingExpiry_past (hphase : b.fab.phase = 1 ∨ b.fab.phase = 2) (hdead : b.fab.trainDead = some d)
    (hpast : d < hubNow b) : trainingExpiry b = if upPorts b = [] then fabricOfOne b else startElection b := by
  have hearly : (b.fab.phase == 1 || b.fab.phase == 2) = true := by simpa using hphase
  simp [trainingExpiry, hearly, hdead, due_past hpast]

theorem helloExpiry_past (hphase : b.fab.phase = 2) (hdead : b.fab.helloDead = some d) (hpast : d < hubNow b)
    (hup : upPorts b ≠ []) : helloExpiry b = startElection b := by
  simp [helloExpiry, hphase, hdead, due_past hpast, hup]

theorem waveExpiry_restarts (hdead : b.fab.waveDead = some d) (hpast : d < hubNow b) (hstart : b.fab.electing = false)
    (hlow : 2 ≤ b.fab.phase) (hhigh : b.fab.phase ≤ 7) : waveExpiry b = restartFresh true b := by
  have hfailed : b.fab.phase ≠ 9 := by omega
  simp [waveExpiry, hdead, due_past hpast, hstart, hlow, hhigh, hfailed]

section Modules

/-- What a scan of the buses leaves as it was: the phase, the FRU's bound and the modules still to be read. -/
structure ScanKeeps (b b' : Block) : Prop where
  phase : b'.fab.phase = b.fab.phase
  fruDead : b'.fab.fruDead = b.fab.fruDead
  cmisLeft : b'.fab.cmisLeft = b.fab.cmisLeft

theorem ScanKeeps.trans {b' b'' : Block} (h : ScanKeeps b b') (h' : ScanKeeps b' b'') : ScanKeeps b b'' :=
  ⟨h'.phase.trans h.phase, h'.fruDead.trans h.fruDead, h'.cmisLeft.trans h.cmisLeft⟩

theorem emitAll_keepsScan (os : List Output) : ScanKeeps b (emitAll os b) := by
  rw [emitAll_eq]
  exact ⟨rfl, rfl, rfl⟩

theorem startModule_keepsScan (bus : Nat) : ScanKeeps b (startModule bus b) := by
  unfold startModule
  split
  · exact ⟨rfl, rfl, rfl⟩
  · rw [emitAll_eq]
    exact ⟨rfl, rfl, rfl⟩

theorem startModules_keepsScan : ScanKeeps b (startModules b) := by
  have hscan : ∀ (buses : List Nat) (b : Block),
      ScanKeeps b (buses.foldl (fun b bus => if busReads b bus then b else startModule bus b) b) := by
    intro buses
    induction buses with
    | nil => exact fun b => ⟨rfl, rfl, rfl⟩
    | cons bus buses ih =>
      intro b
      rw [List.foldl_cons]
      refine ScanKeeps.trans ?_ (ih _)
      split
      · exact ⟨rfl, rfl, rfl⟩
      · exact startModule_keepsScan bus
  exact hscan _ _

theorem beginTrain_waits (hleft : b.fab.cmisLeft ≠ []) : beginTrain b = b := by
  simp [beginTrain, hleft]

theorem beginTrain_begun (hphase : b.fab.phase ≠ 0) : beginTrain b = b := if_pos (.inl hphase)

end Modules

section Fru

/-- The EEPROM reads that follow those of the common header `l`. -/
def recordReads (l : List Byte) : List Output :=
  if l.length < 8 ∨ sumZero (l.take 8) = false then []
  else fruReads 16 (8 * (l.getD 5 0).toNat) (l.drop (8 * (l.getD 5 0).toNat))

/-- The FRU is as `fru` says, the transactions of its read are driven, and the buses go on with the modules. -/
def fruTaken (fru : Fru) (reads : List Output) (b : Block) : Block :=
  startModules (emitAll reads { b with fab := { b.fab with fru := fru, fruDead := none } })

theorem fruTaken_keepsScan (fru : Fru) (reads : List Output) :
    ScanKeeps { b with fab := { b.fab with fru := fru, fruDead := none } } (fruTaken fru reads b) :=
  (emitAll_keepsScan reads).trans startModules_keepsScan

theorem fruTaken_waits {fru : Fru} {reads : List Output} (hleft : b.fab.cmisLeft ≠ []) :
    beginTrain (fruTaken fru reads b) = fruTaken fru reads b :=
  beginTrain_waits (by rw [(fruTaken_keepsScan fru reads).cmisLeft]; exact hleft)

theorem fruRead_some (hdead : b.fab.fruDead = some d) (hleft : b.fab.cmisLeft ≠ []) :
    fruRead (some l) b = fruTaken (fruOf l) (recordReads l) b := by
  rw [← fruTaken_waits hleft]
  simp [fruRead, hdead, fruTaken, recordReads]

theorem fruRead_none (hdead : b.fab.fruDead = some d) (hpast : d < mgtNow b) (hleft : b.fab.cmisLeft ≠ []) :
    fruRead none b = fruTaken fruInvalid [] b := by
  have hfired : expired (mgtNow b) d = true := decide_eq_true hpast
  rw [← fruTaken_waits hleft]
  simp [fruRead, hdead, hfired, fruTaken]

/-- Once the FRU is read the configuration block follows from it (R334). -/
theorem fruReadRow_taken {data : Option (List Byte)} {fru : Fru} {reads : List Output} (hdead : b.fab.fruDead = some d)
    (hread : fruRead data b = fruTaken fru reads b) : fruReadRow data b =
      { fruTaken fru reads b with sec := { (fruTaken fru reads b).sec with
        confBlk := confBlock (fruTaken fru reads b) (data.getD []) } } := by
  have hover : (fruTaken fru reads b).fab.fruDead = none := (fruTaken_keepsScan fru reads).fruDead
  simp [fruReadRow, hread, hdead, hover]

theorem fruOf_badHeader (hbad : l.length < 8 ∨ sumZero (l.take 8) = false) : fruOf l = fruInvalid := by
  simp [fruOf, hbad]

end Fru

section Cmis

variable {port : Nat}

/-- The read of port `port`'s module is over. -/
def moduleRead (port : Nat) (b : Block) : Block :=
  { b with fab := { b.fab with
    cmisLeft := b.fab.cmisLeft.filter (· != port), rescan := b.fab.rescan.filter (· != port)
    cmisDead := tset none b.fab.cmisDead port none } }

/-- The module of a port is absent. -/
def moduleAbsent (r : Port) : Port := { r with present := false, ident := 0, mstate := 0, media := 0, maxpwr := 0 }

/-- The block has of port `port` what its module's bytes give, drives the transactions that follow, and the bus goes on. -/
def moduleTaken (port : Nat) (f : Port → Port) (reads : List Output) (b : Block) : Block :=
  startModule (port / 18) (emitAll reads (moduleRead port (modPort port f b)))

theorem moduleTaken_begun {f : Port → Port} {reads : List Output} (hphase : b.fab.phase ≠ 0) :
    beginTrain (moduleTaken port f reads b) = moduleTaken port f reads b := by
  have hkeeps : ScanKeeps (moduleRead port (modPort port f b)) (moduleTaken port f reads b) :=
    (emitAll_keepsScan reads).trans (startModule_keepsScan _)
  exact beginTrain_begun (by rw [hkeeps.phase]; exact hphase)

variable (hdead : tget none b.fab.cmisDead port = some d) (hphase : b.fab.phase ≠ 0)
include hdead hphase

theorem cmisRead_some : cmisRead port (some l) b = moduleTaken port (cmisPort l) (pageReads (port / 18) l) b := by
  rw [← moduleTaken_begun hphase]
  simp only [cmisRead, hdead]
  rfl

theorem cmisRead_none (hpast : d < mgtNow b) : cmisRead port none b = moduleTaken port moduleAbsent [] b := by
  have hfired : expired (mgtNow b) d = true := decide_eq_true hpast
  rw [← moduleTaken_begun hphase]
  simp only [cmisRead, hdead, hfired]
  rfl

end Cmis

/-- Settles O47: each bound that has passed and each read that has ended, by the lemmas above. -/
theorem discoveryTimers : Obligations.DiscoveryTimers := by
  unfold Obligations.DiscoveryTimers
  refine ⟨?training, ?hello, ?wave, ?fruSome, ?fruNone, fun l => fruOf_badHeader, ?cmis⟩
  case training =>
    intro b cs d hr hphase hdead hpast
    have row : exec .discoveryTrainingExpiry ⟨b, cs⟩ = nextAfter (trainingExpiry b) cs := live_eq hr
    rw [row, trainingExpiry_past hphase hdead hpast]
  case hello =>
    intro b cs d hr hphase hdead hpast hup
    have row : exec .helloPhaseExpiry ⟨b, cs⟩ = nextAfter (helloExpiry b) cs := live_eq hr
    rw [row, helloExpiry_past hphase hdead hpast hup]
  case wave =>
    intro b cs d hr hdead hpast hstart hlow hhigh
    have row : exec .discoveryWaveExpiry ⟨b, cs⟩ = nextAfter (waveExpiry b) cs := live_eq hr
    rw [row, waveExpiry_restarts hdead hpast hstart hlow hhigh]
    rfl
  case fruSome =>
    intro b cs l d hr hdead hleft
    have row : exec (.fruRead (some l)) ⟨b, cs⟩ = nextAfter (fruReadRow (some l) b) cs := live_eq hr
    rw [row, fruReadRow_taken hdead (fruRead_some hdead hleft)]
    simp only [fruTaken, recordReads]
    rfl
  case fruNone =>
    intro b cs d hr hdead hpast hleft
    have row : exec (.fruRead none) ⟨b, cs⟩ = nextAfter (fruReadRow none b) cs := live_eq hr
    rw [row, fruReadRow_taken hdead (fruRead_none hdead hpast hleft)]
    simp only [fruTaken]
    rfl
  case cmis =>
    intro b cs port d l hr hport hdead hphase
    have row (data : Option (List Byte)) : exec (.cmisRead port data) ⟨b, cs⟩ = nextAfter (cmisRead port data b) cs :=
      atUnit_live_eq hr hport
    refine ⟨?_, fun hpast => ?_⟩
    · rw [row, cmisRead_some hdead hphase]
      rfl
    · rw [row, cmisRead_none hdead hphase hpast]
      simp only [moduleTaken, moduleRead]
      rfl

end Sys2Proof.Machine

/-! ### Mosaic messages -/

namespace Sys2Proof.Machine

variable {b : Block} {k : Nat} {m : SerdoMsg} {x : Member}

section Accept

variable (hver : m.ver = 2) (hslot : slotOfId b m.mosaic = some k)
include hver hslot

/-- A message from no member of the slot is not passed: it is kept for a rebind, or discarded (R274, R293). -/
theorem mosaicAccept_stranger (hnone : (mosOf b k).members.find? (·.node == m.src) = none) :
    mosaicAccept m b = (none, keepEarly k m b) := by
  simp only [mosaicAccept, hver, hslot, hnone, ne_eq, not_true_eq_false, if_false]

variable (hmember : (mosOf b k).members.find? (·.node == m.src) = some x)
include hmember

/-- Without the key's tag a message passes only where it joins a keyed mosaic without AUTH (R293, log entry 16). -/
theorem mosaicAccept_noTag (hkey : (mosOf b k).key ≠ []) (htag : (m.auth && tagOk (mosOf b k) m) = false)
    (hjoins : m.auth = true ∨ (mosOf b k).state ≠ .keying ∨ m.typ ≠ 0x10 ∧ m.typ ≠ 0x12 ∧ m.typ ≠ 0x13) :
    mosaicAccept m b = (none, dropAuth b) := by
  have hbarred : ((mosOf b k).state == .keying && (m.typ == 0x10 || m.typ == 0x12 || m.typ == 0x13) && !m.auth) = false := by
    rcases hjoins with h | h | ⟨h1, h2, h3⟩
    · simp [h]
    · simp [h]
    · simp [h1, h2, h3]
  have hkeyed : (mosOf b k).key.isEmpty = false := by simpa using hkey
  simp [mosaicAccept, hver, hslot, hmember, hkeyed, htag, hbarred]

theorem mosaicAccept_replay {s : Nat} (hauth : m.auth = true) (htag : tagOk (mosOf b k) m = true)
    (hlast : x.lastSeq = some s) (hseq : m.seq ≤ s) : mosaicAccept m b = (none, dropReplay b) := by
  simp [mosaicAccept, hver, hslot, hmember, hauth, htag, hlast, hseq]

end Accept

theorem keepEarly_discards (h : leads b k = false ∨ m.typ ≠ 0x10 ∧ m.typ ≠ 0x12 ∨ (mosOf b k).state = .created
      ∨ (mosOf b k).state = .joining ∨ (mosOf b k).state = .keying ∨ (mosOf b k).state = .releasing) :
    keepEarly k m b = dropAuth b := by
  refine if_neg ?_
  rcases h with h | ⟨h1, h2⟩ | h | h | h | h
  · simp [h]
  · simp [h1, h2]
  all_goals simp [h]

theorem keepEarly_keeps (hleads : leads b k = true) (htyp : m.typ = 0x10 ∨ m.typ = 0x12)
    (hready : (mosOf b k).state = .ready) : keepEarly k m b = modMos k (fun r => { r with
      early := r.early.filter (fun x => x.src != m.src || x.typ != m.typ) ++ [m] }) b := by
  refine if_pos ?_
  simp [hleads, htyp, hready]

section Acts

variable {port : Nat}

theorem serdoAct_mosaicJoin (h : m.typ = 0x10) : serdoAct port m b = mosGate m (fun k b => takeJoin k m b) b := by
  simp only [serdoAct, h]

theorem serdoAct_mosaicLeave (h : m.typ = 0x11) : serdoAct port m b = mosGate m (fun k b => takeLeave k m b) b := by
  simp only [serdoAct, h]

theorem serdoAct_keyAgree (h : m.typ = 0x12) : serdoAct port m b = mosGate m (fun k b => takeAgree k m b) b := by
  simp only [serdoAct, h]

theorem serdoAct_keyConfirm (h : m.typ = 0x13) : serdoAct port m b = mosGate m (fun k b => takeConfirm k m b) b := by
  simp only [serdoAct, h]

theorem serdoAct_mosaicReady (h : m.typ = 0x14) : serdoAct port m b = mosGate m (fun k b => takeMosReady k m b) b := by
  simp only [serdoAct, h]

theorem serdoAct_migQuiesce (h : m.typ = 0x20) : serdoAct port m b = mosGate m (fun k b => takeQuiesce k m b) b := by
  simp only [serdoAct, h]

theorem serdoAct_migHeld (h : m.typ = 0x21) : serdoAct port m b = mosGate m (fun k b => takeHeld k m b) b := by
  simp only [serdoAct, h]

theorem serdoAct_migResume (h : m.typ = 0x22) : serdoAct port m b = mosGate m (fun k b => takeResume k b) b := by
  simp only [serdoAct, h]

end Acts

theorem takeJoin_leader (hleads : leads b k = true) : takeJoin k m b =
    startKeying k (modMos k (fun r => { r with
      members := r.members.map (fun x => if x.node == m.src then { x with idk := slice m.body 0 97, eph := [] } else x) }) b) :=
  if_pos hleads

/-- A change of slot `k` that keeps its members keeps its leader. -/
theorem leaderOf_modMos {f : MosRec → MosRec} (hmembers : ∀ r, (f r).members = r.members) :
    leaderOf (modMos k f b) k = leaderOf b k := by
  simp only [leaderOf, memberNodes, mosOf_modMos_same, hmembers]

/-- The leader's KEY_AGREE puts a member in KEYING, and the member answers it (R295). -/
theorem takeAgree_member (hstate : (mosOf b k).state = .joining ∨ (mosOf b k).state = .keying)
    (hmember : leads b k = false) (hsrc : m.src = leaderOf b k) : takeAgree k m b =
      sendMos 0x13 (leBytes (if (agreedKey b k m).isSome then bodyNat m 97 4 else bodyNat m 97 4 + 1) 4) k (leaderOf b k)
        (modMos k (fun r => { r with
          state := .keying, newKey := (agreedKey b k m).getD [], newGen := bodyNat m 97 4 }) b) := by
  have hagrees : (m.src == leaderOf b k && ((mosOf b k).state == .joining || (mosOf b k).state == .keying)) = true := by
    simp [hsrc, hstate]
  simp only [takeAgree, hmember, hagrees, Bool.false_eq_true, if_false, if_true, takeAgreeMember]
  rw [leaderOf_modMos]
  exact fun _ => rfl

section Confirm

variable (hleads : leads b k = true) (hkeying : (mosOf b k).state = .keying) (hkey : (mosOf b k).newKey ≠ [])
include hleads hkeying hkey

theorem takeConfirm_fails (hgen : bodyNat m 0 4 ≠ (mosOf b k).newGen) : takeConfirm k m b = failAgree k b := by
  simp [takeConfirm, hleads, hkeying, hkey, hgen]

theorem takeConfirm_confirms (hgen : bodyNat m 0 4 = (mosOf b k).newGen) : takeConfirm k m b =
    finishAgree k (modMos k (fun r => { r with
      members := r.members.map (fun x => if x.node == m.src then { x with confirmed := true } else x) }) b) := by
  simp [takeConfirm, hleads, hkeying, hkey, hgen]

end Confirm

theorem takeMosReady_member (hmember : leads b k = false) (hsrc : m.src = leaderOf b k)
    (hstate : (mosOf b k).state = .joining ∨ (mosOf b k).state = .keying) : takeMosReady k m b =
      if bodyNat m 0 1 = 0 then mosReady k (bodyNat m 4 4) b else agreeFailed k (bodyNat m 0 1) b := by
  have hjoins : ((mosOf b k).state == .joining || (mosOf b k).state == .keying) = true := by simpa using hstate
  simp [takeMosReady, hmember, hsrc, hjoins]

/-- Settles O48: what R293 does not pass, and what each message that it passes does. -/
theorem mosaicMessages : Obligations.MosaicMessages := by
  unfold Obligations.MosaicMessages
  refine ⟨?accept, ?join, ?leave, ?agree, ?confirm, ?ready, ?migration⟩
  case accept =>
    intro b m k hver hslot
    refine ⟨fun hnone => ⟨fun h => ?_, fun hleads htyp hready => ?_⟩, fun x hmember hkey hauth htag => ?_,
      fun x hmember hkey hauth hjoins => ?_, fun x s hmember hauth htag hlast hseq => ?_⟩
    · rw [mosaicAccept_stranger hver hslot hnone, keepEarly_discards h]
      rfl
    · rw [mosaicAccept_stranger hver hslot hnone, keepEarly_keeps hleads htyp hready]
    · exact mosaicAccept_noTag hver hslot hmember hkey (by rw [htag, Bool.and_false]) (.inl hauth)
    · exact mosaicAccept_noTag hver hslot hmember hkey (by rw [hauth, Bool.false_and]) (.inr hjoins)
    · exact mosaicAccept_replay hver hslot hmember hauth htag hlast hseq
  case join =>
    intro b b' cs port k m h hleads
    have row : exec (.mosaicJoin port m) ⟨b, cs⟩ = afterBeat (takeJoin k m b') cs := (mosRow_eq h serdoAct_mosaicJoin :)
    rw [row, takeJoin_leader hleads]
  case leave =>
    intro b b' cs port k m h
    exact (mosRow_eq h serdoAct_mosaicLeave :)
  case agree =>
    intro b b' cs port k m h hstate hmember hsrc
    have row : exec (.keyAgree port m) ⟨b, cs⟩ = afterBeat (takeAgree k m b') cs := (mosRow_eq h serdoAct_keyAgree :)
    rw [row, takeAgree_member hstate hmember hsrc]
  case confirm =>
    intro b b' cs port k m h hleads hkeying hkey
    have row : exec (.keyConfirm port m) ⟨b, cs⟩ = afterBeat (takeConfirm k m b') cs :=
      (mosRow_eq h serdoAct_keyConfirm :)
    rw [row]
    refine ⟨fun hgen => ?_, fun hgen => ?_⟩
    · rw [takeConfirm_fails hleads hkeying hkey hgen]
    · rw [takeConfirm_confirms hleads hkeying hkey hgen]
  case ready =>
    intro b b' cs port k m h hmember hsrc hstate
    have row : exec (.mosaicReady port m) ⟨b, cs⟩ = afterBeat (takeMosReady k m b') cs :=
      (mosRow_eq h serdoAct_mosaicReady :)
    rw [row, takeMosReady_member hmember hsrc hstate]
  case migration =>
    intro b b' cs port k m
    refine ⟨fun h hbusy => ?_, fun h => ?_, fun h => ?_⟩
    · exact (mosRow_eq h serdoAct_migQuiesce :)
    · exact (mosRow_eq h serdoAct_migHeld :)
    · exact (mosRow_eq h serdoAct_migResume :)

end Sys2Proof.Machine

/-! ### Squares, the pool's head, buckets and counters -/

namespace Sys2Proof.Machine

variable {b : Block} {cs : List Instr} {k c : Nat}

theorem squareBoundary_due (hrun : (schOf b k).running = true) (hboard : (schOf b k).board ≠ [])
    (hdue : (schOf b k).start + sqCycles (squareNow b k) ≤ hubNow b) : squareBoundary k b =
      let cyc := (schOf b k).start + sqCycles (squareNow b k)
      let r := nextSquare k cyc (squareOver k cyc b)
      withdrawTime k (fun q => wasEntitled b k q && !entitled r k q) r := by
  have hends : squareEnds b k = true := decide_eq_true hdue
  simp [squareBoundary, hrun, hboard, hends]

/-- An active list that is up to date stays as it is. -/
theorem syncActive_current (hactive : activeNow b k = (schOf b k).active) : syncActive k b = b := by
  simp [syncActive, hactive]

/-- A context that becomes head and has time left after its quantum stays head. -/
theorem headLoop_stays {n : Nat} (hn : 0 < n) (hhead : headOf b k = some c)
    (hleft : 0 < deficitOf (addQuantum k c b) k c) : headLoop k n b = addQuantum k c b := by
  obtain ⟨n, rfl⟩ := Nat.exists_eq_succ_of_ne_zero hn.ne'
  simp only [headLoop, hhead, if_pos hleft]

/-- A head has a share, so it stands among those that can become head. -/
theorem sharers_pos (hhead : headOf b k = some c) :
    0 < ((schOf b k).active.filter (fun c => (schCtx b c).share != 0)).length :=
  have hshare : ((schCtx b c).share != 0) = true := List.find?_some (p := fun c => (schCtx b c).share != 0) hhead
  List.length_pos_of_mem (List.mem_filter.mpr ⟨List.mem_of_find?_eq_some hhead, hshare⟩)

theorem headAdvance_newHead (hrun : (schOf b k).running = true) (hactive : activeNow b k = (schOf b k).active)
    (hhead : headOf b k = some c) (htenure : (schOf b k).tenure ≠ some c)
    (hleft : 0 < deficitOf (addQuantum k c b) k c) : headAdvance k b = addQuantum k c b := by
  have hnot : ((schOf b k).tenure == some c) = false := beq_false_of_ne htenure
  simp only [headAdvance, hrun, Bool.not_true, Bool.false_eq_true, if_false, syncActive_current hactive, hhead, hnot]
  exact headLoop_stays (sharers_pos hhead) hhead hleft

/-- The span of operation `o` halts its queue at the offset of the operation's packet. -/
theorem overrunExpiry_halts {q oid : Nat} {s : Span} {o : Op}
    (hspan : b.sch.spans.find? (fun s => s.q == q && decide (2 ^ (schCtx b (ctxOfQueue q)).limLog2 ≤ s.cyc)
      && !spanOver b s) = some s)
    (hoid : s.oid = some oid) (hop : opOf b oid = some o) : overrunExpiry q b =
      report (uccReport 0x17 3 q .overrunLimit (packetOff b o)) (modSchCtx (ctxOfQueue q)
        (fun r => { r with overruns := (r.overruns + 1) % 2 ^ 32 })
        (failSub q s.sid { status := .overrunLimit, kind := 3, detail := packetOff b o } b)) := by
  simp only [overrunExpiry, hspan, hoid, Option.bind_some, hop]

/-- The last refill of slot `k`'s bucket that has been taken. -/
def refillsTaken (b : Block) (k : Nat) : Nat := max (schOf b k).refill b.sch.edges

theorem bucketRefill_due (hdue : refillsTaken b k < b.time.seq / 1024) : bucketRefill k b =
    modSch k (fun s => { s with
      bw := s.bwNext, refill := b.time.seq / 1024
      level := if s.bwNext.en = true ∧ s.bw.en = false then s.bwNext.burst
        else min (s.bwNext.burst : Int) (s.level + ((b.time.seq / 1024 - refillsTaken b k) * s.bwNext.rate : Nat)) }) b := by
  rw [refillsTaken] at hdue ⊢
  simp only [bucketRefill, if_neg (Nat.not_le.mpr hdue), Bool.and_eq_true, Bool.not_eq_true']

theorem updatePoint_due (hheld : (ctxOf b c).state ≠ .free) (hdue : updateDue b c = true) : updatePoint c b =
    modSchCtx c (fun r => { r with
      cEngine := r.engine / 4096, cWait := r.wait / 4096, cPre := r.preempts, updates := (r.updates + 1) % 2 ^ 32
      lastUpd := hubNow b }) b := by
  simp [updatePoint, hheld, hdue]

theorem powerWindow_due (hdue : b.sch.powDue ≤ refNow b) : powerWindow b = { b with sch := { b.sch with
    watts := if b.sch.powN = 0 then 0 else b.sch.powSum / b.sch.powN / 1000 / 5 * 5
    window := b.sch.window + 1, powSum := 0, powN := 0, powDue := b.sch.powDue + 2500000 } } :=
  if_neg (Nat.not_lt.mpr hdue)

/-- Settles O43: each command whose time has come acts, by the lemmas above. -/
theorem scheduleCommands : Obligations.ScheduleCommands := by
  unfold Obligations.ScheduleCommands
  refine ⟨?square, ?head, ?span, ?bucket, ?update, ?window⟩
  case square =>
    intro b cs k hs hk s cyc hrun hboard hdue
    have row : exec (.squareBoundary k) ⟨b, cs⟩ = nextAfter (squareBoundary k b) cs := atUnit_work_eq hs hk
    rw [row, squareBoundary_due hrun hboard hdue]
    rfl
  case head =>
    intro b cs k c hs hk hrun hactive hhead htenure hleft
    have row : exec (.headAdvance k) ⟨b, cs⟩ = nextAfter (headAdvance k b) cs := atUnit_work_eq hs hk
    rw [row, headAdvance_newHead hrun hactive hhead htenure hleft]
  case span =>
    intro b cs q oid s o hs hq hspan hoid hop
    have row : exec (.overrunLimitExpiry q) ⟨b, cs⟩ = nextAfter (overrunExpiry q b) cs := atUnit_work_eq hs hq
    rw [row, overrunExpiry_halts hspan hoid hop]
    rfl
  case bucket =>
    intro b cs k hs hk since hdue
    have row : exec (.bucketRefill k) ⟨b, cs⟩ = nextAfter (bucketRefill k b) cs := atUnit_work_eq hs hk
    rw [row, bucketRefill_due hdue]
    rfl
  case update =>
    intro b cs c hs hc hheld hdue
    have row : exec (.updatePoint c) ⟨b, cs⟩ = nextAfter (updatePoint c b) cs := atUnit_work_eq hs hc
    rw [row, updatePoint_due hheld hdue]
  case window =>
    intro b cs hs hdue
    have row : exec .powerWindow ⟨b, cs⟩ = nextAfter (powerWindow b) cs := work_eq hs
    rw [row, powerWindow_due hdue]

end Sys2Proof.Machine

/-! ### The power ceiling and the emergency -/

namespace Sys2Proof.Machine

variable {b : Block} {cs : List Instr} {mw t v : Nat} {p : EmergPin}

theorem modDvfs_congr {f g : Dvfs → Dvfs} (h : f b.pwr.dvfs = g b.pwr.dvfs) : modDvfs f b = modDvfs g b := by
  simp only [modDvfs, h]

theorem avsWrite_modDvfs {f : Dvfs → Dvfs} :
    avsWrite v (modDvfs f b) = emit (.avs v) (modDvfs (fun d => { f d with wrote := v }) b) := rfl

section Govern

variable (hcalm : b.pwr.emerg.active = false)
include hcalm

theorem govern_down (hidle : b.pwr.dvfs.phase = .idle) (hstep : b.time.divStep < 4) : govern 1 b =
    let r := modDvfs (fun d => { d with governed := true }) b
    startSeq (b.time.divStep + 1) (stepVolt r (b.time.divStep + 1)) none r := by
  simp only [govern, hcalm, hidle, bne_self_eq_false, Bool.false_eq_true, if_false, if_true,
    if_neg (Nat.not_le.mpr hstep)]
  rfl

theorem govern_up (hidle : b.pwr.dvfs.phase = .idle) (hbelow : b.pwr.dvfs.target < b.time.divStep) :
    govern 2 b = startSeq (b.time.divStep - 1) (stepVolt b (b.time.divStep - 1)) none b := by
  simp [govern, hcalm, hidle, Nat.not_le.mpr hbelow]

/-- A step of the governor waits for the sequence that runs. -/
theorem govern_waits {w : Nat} (hbusy : b.pwr.dvfs.phase ≠ .idle) :
    govern w b = modDvfs (fun d => { d with gov := w }) b := by
  simp [govern, hcalm, hbusy]

end Govern

section Samples

/-- A sample within the ceiling leaves `n` low samples in a row behind. -/
def withinCeiling (n : Nat) (b : Block) : Block := modDvfs (fun d => { d with highs := 0, hold := false, lows := n }) b

theorem governSample_over (hover : 1000 * ceilingW b < mw) (hstep : b.time.divStep < 4) :
    governSample mw b = govern 1 (modDvfs (fun d => { d with lows := 0, highs := 0 }) b) := by
  simp only [governSample, if_pos hover, if_pos hstep]

theorem governSample_overSlowest (hover : 1000 * ceilingW b < mw) (hslow : 4 ≤ b.time.divStep) : governSample mw b =
    modDvfs (fun d => { d with
      lows := 0, highs := min 16 (d.highs + 1), hold := d.hold || min 16 (d.highs + 1) == 16 }) b := by
  simp only [governSample, if_pos hover, if_neg (Nat.not_lt.mpr hslow)]
  rfl

variable (hwithin : mw ≤ 1000 * ceilingW b)
include hwithin

theorem governSample_near (hnear : 15 * (1000 * ceilingW b) < 16 * mw) : governSample mw b = withinCeiling 0 b := by
  simp only [governSample, if_neg (Nat.not_lt.mpr hwithin), if_neg (Nat.not_le.mpr hnear)]
  rfl

variable (hlow : 16 * mw ≤ 15 * (1000 * ceilingW b))
include hlow

theorem governSample_lowCounted (hfew : b.pwr.dvfs.lows < 15) :
    governSample mw b = withinCeiling (b.pwr.dvfs.lows + 1) b := by
  have hlt : b.pwr.dvfs.lows + 1 < 16 := by omega
  simp only [governSample, if_neg (Nat.not_lt.mpr hwithin), if_pos hlow]
  exact if_pos hlt

theorem governSample_lowSixteen (hmany : 15 ≤ b.pwr.dvfs.lows) : governSample mw b =
    if b.pwr.dvfs.target < b.time.divStep then govern 2 (withinCeiling 0 b) else withinCeiling 0 b := by
  have hge : ¬b.pwr.dvfs.lows + 1 < 16 := by omega
  simp only [governSample, if_neg (Nat.not_lt.mpr hwithin), if_pos hlow]
  exact if_neg hge

end Samples

theorem powerSample_due {rails : List Nat} {im : Image} (him : b.pwr.img.active = some im) (hstep : 7 ≤ b.pwr.step)
    (hdue : b.pwr.sampleDue ≤ refNow b) (hon : domOn b 1 = true) : powerSample rails b =
      let mw := (rails.take im.rails.length).sum + modulesMw b
      governSample mw { b with
        pwr := { b.pwr with
          samples := (b.pwr.samples + 1) % 2 ^ 32, milliwatts := mw % 2 ^ 32, sampleDue := b.pwr.sampleDue + 25000 }
        sch := { b.sch with powSum := b.sch.powSum + mw, powN := b.sch.powN + 1 } } := by
  have htaken : ¬(b.pwr.step < 7 ∨ refNow b < b.pwr.sampleDue) := by omega
  simp only [powerSample, him, if_neg htaken]
  exact congrArg _ (if_pos hon)

section Sequences

variable {i : Option Nat}

theorem startSeq_raises (hup : t < b.time.divStep ∨ t = b.time.divStep ∧ b.pwr.dvfs.wrote < v) : startSeq t v i b =
    avsWrite v (modDvfs (fun d => { d with
      phase := .upWrite, seqStep := t, seqVolt := v, prevVolt := b.pwr.dvfs.wrote, dead := none, adm := i, gov := 0 }) b) := by
  simp [startSeq, hup]

theorem startSeq_slows (hdown : b.time.divStep < t) : startSeq t v i b =
    setDiv t (modDvfs (fun d => { d with
      phase := .downDiv, seqStep := t, seqVolt := v, prevVolt := b.pwr.dvfs.wrote, dead := ackDead b, adm := i
      gov := 0 }) b) := by
  have hnot : ¬t < b.time.divStep := by omega
  simp [startSeq, hnot, hdown.ne']

theorem startSeq_lowers (hstep : t = b.time.divStep) (hvolt : v ≤ b.pwr.dvfs.wrote) : startSeq t v i b =
    avsWrite v (modDvfs (fun d => { d with
      phase := .downWrite, seqStep := t, seqVolt := v, prevVolt := b.pwr.dvfs.wrote, dead := none, adm := i, gov := 0 }) b) := by
  simp [startSeq, hstep, Nat.not_lt.mpr hvolt]

end Sequences

section Emergencies

/-- No sequence runs, and the governor waits for none and holds no step. -/
def seqStopped (b : Block) : Block :=
  modDvfs (fun d => { d with phase := .idle, dead := none, gov := 0, governed := false }) b

theorem interruptSeq_unasked (hadm : b.pwr.dvfs.adm = none) : interruptSeq b = seqStopped b := by
  simp only [interruptSeq, hadm]
  refine modDvfs_congr ?_
  simp [hadm]

theorem interruptSeq_asked {i : Nat} (hadm : b.pwr.dvfs.adm = some i) : interruptSeq b =
    admReply i .deferredEmergency 0xFFFFFFFF [] false (modDvfs (fun d => { d with
      deferred := true, defers := d.defers ++ [i], adm := none, phase := .idle, dead := none, gov := 0
      governed := false }) b) := by
  simp only [interruptSeq, hadm]
  congr 1
  refine modDvfs_congr ?_
  simp [hadm]

@[simp] theorem setPin_active (low : Bool) : (setPin p low b).pwr.emerg.active = b.pwr.emerg.active := by
  cases p <;> rfl

theorem modEmerg_congr {f g : Emerg → Emerg} (h : f b.pwr.emerg = g b.pwr.emerg) : modEmerg f b = modEmerg g b := by
  simp only [modEmerg, h]

/-- The source that tells of an input's fall (R392). -/
def emergSource : EmergPin → Nat
  | .thermTrip => 0x20
  | .alert => 0x21

/-- The fall of input `p` has started an emergency, which is counted and stops the sequence. -/
def emergencyBegun (p : EmergPin) (b : Block) : Block :=
  { b with pwr := { b.pwr with
      emerg := { (setPin p true b).pwr.emerg with
        active := true, clearDead := none, entries := satAdd 16 b.pwr.emerg.entries 1 }
      dvfs := (seqStopped b).pwr.dvfs } }

/-- The first move of an emergency: to DIV12, or with the divider there to the safe voltage, once an acknowledgement that a
sequence asked for has come (R21, R392). -/
def emergencyMove (asked : Bool) (b : Block) : Block :=
  if b.time.divStep = 4 ∧ asked = true then modDvfs (fun d => { d with phase := .emergDiv, dead := ackDead b }) b
  else if b.time.divStep = 4 then
    avsWrite b.fuses.vsafeMv.toNat (modDvfs (fun d => { d with phase := .emergWrite, dead := none }) b)
  else setDiv 4 (modDvfs (fun d => { d with phase := .emergDiv, dead := ackDead b }) b)

theorem emergencyMove_divides {asked : Bool} (hstep : b.time.divStep ≠ 4) : emergencyMove asked b =
    setDiv 4 (modDvfs (fun d => { d with phase := .emergDiv, dead := ackDead b }) b) := by
  simp [emergencyMove, hstep]

theorem emergencyMove_awaits {asked : Bool} (hstep : b.time.divStep = 4) (hasked : asked = true) :
    emergencyMove asked b = modDvfs (fun d => { d with phase := .emergDiv, dead := ackDead b }) b :=
  if_pos ⟨hstep, hasked⟩

theorem emergencyMove_writes {asked : Bool} (hstep : b.time.divStep = 4) (hasked : asked = false) :
    emergencyMove asked b =
      avsWrite b.fuses.vsafeMv.toNat (modDvfs (fun d => { d with phase := .emergWrite, dead := none }) b) := by
  simp [emergencyMove, hstep, hasked]

theorem emergencyEntry_first (hcalm : b.pwr.emerg.active = false) (hadm : b.pwr.dvfs.adm = none) :
    emergencyEntry p b = report (ceReport (emergSource p))
      (emergencyMove (b.pwr.dvfs.phase == .downDiv) (emergencyBegun p b)) := by
  have hfell : (modEmerg (fun e => { e with active := true, clearDead := none }) (setPin p true b)).pwr.dvfs.adm = none := by
    simpa [setPin] using hadm
  simp only [emergencyEntry, hcalm, Bool.false_eq_true, if_false, interruptSeq_unasked hfell]
  cases p <;> rfl

/-- An input that falls in an emergency starts nothing anew, but CLEAR_HOLD no longer runs. -/
theorem emergencyEntry_again (hactive : b.pwr.emerg.active = true) :
    emergencyEntry p b = modEmerg (fun e => { e with clearDead := none }) (setPin p true b) := by
  simp only [emergencyEntry, hactive, if_true]
  refine modEmerg_congr ?_
  rw [setPin_active, hactive]

theorem emergencyRise_last (hactive : b.pwr.emerg.active = true) (htrip : (setPin p false b).pwr.emerg.trip = false)
    (halert : (setPin p false b).pwr.emerg.alert = false) : emergencyRise p b =
      modEmerg (fun e => { e with clearDead := some (refNow b + e.clearHold) }) (setPin p false b) := by
  simp only [emergencyRise, setPin_active, hactive, htrip, halert, Bool.not_true, Bool.or_self,
    Bool.false_eq_true, if_false]
  rfl

theorem emergencyRise_other (hlow : (setPin p false b).pwr.emerg.trip = true ∨ (setPin p false b).pwr.emerg.alert = true) :
    emergencyRise p b = setPin p false b := by
  rcases hlow with h | h <;> simp [emergencyRise, h]

/-- With both inputs high for CLEAR_HOLD the emergency is over. -/
def emergencyOver (b : Block) : Block :=
  modDvfs (fun d => { d with deferred := false, governed := false, lows := 0, highs := 0 })
    (modEmerg (fun e => { e with active := false, clearDead := none }) b)

theorem emergencyClear_due (hactive : b.pwr.emerg.active = true) (htrip : b.pwr.emerg.trip = false)
    (halert : b.pwr.emerg.alert = false) (hdead : b.pwr.emerg.clearDead = some t) (hpast : t < refNow b) :
    emergencyClear b =
      startSeq b.pwr.dvfs.target (stepVolt (emergencyOver b) b.pwr.dvfs.target) none (emergencyOver b) := by
  simp only [emergencyClear, hactive, htrip, halert, hdead, due_past hpast, Bool.not_true, Bool.or_self,
    Bool.false_eq_true, if_false]
  rfl

end Emergencies

/-- Settles O55: each sample against the ceiling, each start of a sequence, and each event of an emergency, by the lemmas
above. -/
theorem powerAndEmergency : Obligations.PowerAndEmergency := by
  unfold Obligations.PowerAndEmergency
  refine ⟨?sample, ?ceiling, ?start, ?first, fun b i hadm => ?interrupted, ?second, ?rise, ?clear⟩
  case sample =>
    intro b cs rails im hr him hstep hdue hon
    have row : exec (.powerSample rails) ⟨b, cs⟩ = nextAfter (powerSample rails b) cs := power_eq hr
    rw [row, powerSample_due him hstep hdue hon]
  case ceiling =>
    intro b mw c w d
    refine ⟨fun hover hstep hcalm hidle => ?_, fun hover hslow => ?_, fun hwithin hlow hfew => ?_,
      fun hwithin hlow hmany htarget => ?_, fun hwithin hlow hmany htarget hcalm hidle => ?_,
      fun hwithin hlow hmany htarget hcalm hbusy => ?_, fun hwithin hnear => ?_⟩
    · rw [governSample_over hover hstep]
      exact govern_down hcalm hidle hstep
    · exact governSample_overSlowest hover hslow
    · exact governSample_lowCounted hwithin hlow hfew
    · rw [governSample_lowSixteen hwithin hlow hmany, if_neg (Nat.not_lt.mpr htarget)]
      rfl
    · rw [governSample_lowSixteen hwithin hlow hmany, if_pos htarget]
      exact govern_up hcalm hidle htarget
    · rw [governSample_lowSixteen hwithin hlow hmany, if_pos htarget]
      exact govern_waits (b := withinCeiling 0 b) hcalm hbusy
    · exact governSample_near hwithin hnear
  case start =>
    intro b t v i d s
    exact ⟨startSeq_raises, startSeq_slows, startSeq_lowers⟩
  case first =>
    intro b cs hr hcalm hadm e d was
    have row : exec (.emergencyEntry .thermTrip) ⟨b, cs⟩ = nextAfter (emergencyEntry .thermTrip b) cs := power_eq hr
    rw [row, emergencyEntry_first hcalm hadm]
    refine ⟨fun hstep => ?_, fun hstep hasked => ?_, fun hstep hasked => ?_⟩
    · rw [emergencyMove_divides (b := emergencyBegun .thermTrip b) hstep]
      rfl
    · rw [emergencyMove_awaits (b := emergencyBegun .thermTrip b) hstep (beq_iff_eq.mpr hasked)]
      rfl
    · rw [emergencyMove_writes (b := emergencyBegun .thermTrip b) hstep (beq_false_of_ne hasked), avsWrite_modDvfs]
      rfl
  case interrupted => exact interruptSeq_asked hadm
  case second =>
    intro b cs hr hactive
    have row : exec (.emergencyEntry .alert) ⟨b, cs⟩ = nextAfter (emergencyEntry .alert b) cs := power_eq hr
    rw [row, emergencyEntry_again hactive]
    rfl
  case rise =>
    intro b cs hr hactive e
    have row : exec (.emergencyInputRise .thermTrip) ⟨b, cs⟩ = nextAfter (emergencyRise .thermTrip b) cs := power_eq hr
    rw [row]
    refine ⟨fun halert => ?_, fun halert => ?_⟩
    · rw [emergencyRise_last (p := .thermTrip) hactive rfl halert]
      rfl
    · rw [emergencyRise_other (p := .thermTrip) (.inr halert)]
      rfl
  case clear =>
    intro b cs t hr hactive htrip halert hdead hpast
    have row : exec .emergencyClearExpiry ⟨b, cs⟩ = nextAfter (emergencyClear b) cs := power_eq hr
    rw [row, emergencyClear_due hactive htrip halert hdead hpast]
    rfl

end Sys2Proof.Machine

/-! ### Commands of the always-on logic in stalemate -/

namespace Sys2Proof.Machine

variable {b : Block}

/-- What keeps it all, followed by what keeps it all in stalemate. -/
theorem Keeps.onward {c d : Block} (h : Stale b) (k : Keeps b c) (f : Stale c → Keeps c d) : Keeps b d :=
  k.trans (f (stale_keeps _ _ h k))

theorem keeps_modDvfs (f : Dvfs → Dvfs) (b : Block) : Keeps b (modDvfs f b) := Keeps.same rfl rfl rfl

theorem keeps_modEmerg (f : Emerg → Emerg) (b : Block) : Keeps b (modEmerg f b) := Keeps.same rfl rfl rfl

theorem keeps_modDom (d : Nat) (f : Dom → Dom) (b : Block) : Keeps b (modDom d f b) := Keeps.same rfl rfl rfl

theorem keeps_setDiv (k : Nat) (b : Block) : Keeps b (setDiv k b) :=
  (keeps_emit (.divStep k) _ rfl).pre rfl rfl rfl

theorem keeps_avsWrite (v : Nat) (b : Block) : Keeps b (avsWrite v b) :=
  (keeps_modDvfs _ b).trans (keeps_emit _ _ rfl)

theorem keeps_pdUnclamp (d : Nat) (b : Block) : Keeps b (pdUnclamp d b) :=
  (keeps_emit _ b rfl).trans (keeps_emit _ _ rfl)

section Dvfs

theorem keeps_admDones (is : List Nat) (st : Status) (r : Block → List Nat) (h : Stale b) :
    Keeps b (is.foldl (fun b i => admDone i st (r b) b) b) :=
  Keeps.fold (P := Stale) (fun b i h => keeps_admDone i st (r b) b h) (fun _ _ h k => stale_keeps _ _ h k) is b h

theorem keeps_dvfsEnd (ok : Bool) (h : Stale b) : Keeps b (dvfsEnd ok b) :=
  Keeps.onward h (keeps_modDvfs _ b) (keeps_admDones _ _ _)

theorem keeps_avsReadvout (mv : Nat) (h : Stale b) : Keeps b (avsReadvout mv b) := by
  simp only [avsReadvout]
  split
  · split
    · exact .refl b
    · split
      · exact Keeps.onward h (keeps_modDvfs _ b) (keeps_dvfsEnd true)
      · exact ((keeps_modDvfs _ b).trans (keeps_modDvfs _ _)).trans (keeps_setDiv _ _)
  · split
    · exact .refl b
    · exact Keeps.onward h (keeps_modDvfs _ b) (keeps_dvfsEnd true)
  · exact .refl b

theorem keeps_avsWriteDone (b : Block) : Keeps b (avsWriteDone b) := by
  unfold avsWriteDone
  split
  · exact keeps_modDvfs _ b
  · exact keeps_modDvfs _ b
  · exact keeps_modDvfs _ b
  · exact .refl b

theorem keeps_divAck (h : Stale b) : Keeps b (divAck b) := by
  simp only [divAck]
  split
  · exact keeps_dvfsEnd true h
  · exact (keeps_modDvfs _ b).trans (keeps_avsWrite _ _)
  · exact (keeps_modDvfs _ b).trans (keeps_avsWrite _ _)
  · exact .refl b

theorem keeps_settleExpiry (h : Stale b) : Keeps b (settleExpiry b) := by
  simp only [settleExpiry]
  split
  · exact .refl b
  · split
    · exact Keeps.onward h (keeps_avsWrite _ b) (keeps_dvfsEnd false)
    · exact keeps_dvfsEnd false h
    · exact .refl b

theorem keeps_divAckExpiry (h : Stale b) : Keeps b (divAckExpiry b) := by
  simp only [divAckExpiry]
  split
  · exact .refl b
  · split
    · exact keeps_dvfsEnd false h
    · exact keeps_dvfsEnd false h
    · exact keeps_modDvfs _ b
    · exact .refl b

end Dvfs

section Envelope

theorem keeps_governSample (mw : Nat) (b : Block) : Keeps b (governSample mw b) := by
  simp only [governSample]
  split
  · split
    · exact (keeps_modDvfs _ b).trans (keeps_govern _ _)
    · exact keeps_modDvfs _ b
  · split
    · split
      · exact (keeps_modDvfs _ b).trans (keeps_modDvfs _ _)
      · split
        · exact ((keeps_modDvfs _ b).trans (keeps_modDvfs _ _)).trans (keeps_govern _ _)
        · exact (keeps_modDvfs _ b).trans (keeps_modDvfs _ _)
    · exact (keeps_modDvfs _ b).trans (keeps_modDvfs _ _)

theorem keeps_powerSample (rails : List Nat) (b : Block) : Keeps b (powerSample rails b) := by
  simp only [powerSample]
  split
  · exact .refl b
  · split
    · exact .refl b
    · split
      · exact (keeps_governSample _ _).pre rfl rfl rfl
      · exact (keeps_governSample _ _).pre rfl rfl rfl

theorem keeps_setPin (p : EmergPin) (low : Bool) (b : Block) : Keeps b (setPin p low b) := keeps_modEmerg _ b

theorem keeps_interruptSeq (h : Stale b) : Keeps b (interruptSeq b) := by
  simp only [interruptSeq]
  split
  · exact Keeps.onward h (keeps_modDvfs _ b) (keeps_admReply _ _ _ _ _ _)
  · exact keeps_modDvfs _ b

theorem keeps_emergencyEntry (p : EmergPin) (h : Stale b) : Keeps b (emergencyEntry p b) := by
  have fallen := (keeps_setPin p true b).trans (keeps_modEmerg (fun e => { e with active := true, clearDead := none }) _)
  simp only [emergencyEntry]
  split
  · exact fallen
  · refine Keeps.onward h ?_ (keeps_report _ _)
    have counted := (Keeps.onward h fallen keeps_interruptSeq).trans
      (keeps_modEmerg (fun e => { e with entries := satAdd 16 e.entries 1 }) _)
    split
    · exact counted.trans (keeps_modDvfs _ _)
    · split
      · exact counted.trans ((keeps_modDvfs _ _).trans (keeps_avsWrite _ _))
      · exact counted.trans ((keeps_modDvfs _ _).trans (keeps_setDiv _ _))

theorem keeps_emergencyRise (p : EmergPin) (b : Block) : Keeps b (emergencyRise p b) := by
  simp only [emergencyRise]
  split
  · exact keeps_setPin p false b
  · exact (keeps_setPin p false b).trans (keeps_modEmerg _ _)

theorem keeps_emergencyClear (b : Block) : Keeps b (emergencyClear b) := by
  simp only [emergencyClear]
  split
  · exact .refl b
  · exact (keeps_startSeq _ _ _ _).pre rfl rfl rfl

end Envelope

section Domains

theorem keeps_startDomain (b : Block) : Keeps b (startDomain b) := by
  unfold startDomain
  split
  · exact (keeps_modDom _ _ b).trans (keeps_emit _ _ rfl)
  · exact Keeps.same rfl rfl rfl

theorem keeps_pdOn (d : Nat) (h : Stale b) : Keeps b (pdOn d b) := by
  simp only [pdOn]
  split
  · exact .refl b
  · have supplied := (keeps_pdUnclamp d b).trans (keeps_modDom d (fun m => { m with
      st := .on, fromOff := false, adms := [], idleAt := none }) _)
    refine supplied.trans ?_
    rw [if_pos (Bool.or_eq_true_iff.mpr (.inl (stale_keeps _ _ h supplied)))]
    split
    · exact Keeps.same rfl rfl rfl
    · exact .refl _

theorem keeps_pgoodRise (d : Nat) (h : Stale b) : Keeps b (pgoodRise d b) := by
  unfold pgoodRise
  split
  · split
    · exact ((keeps_pdUnclamp d b).trans (keeps_modDom d _ _)).trans (keeps_startDomain _)
    · exact .refl b
  · exact keeps_pdOn d h

theorem keeps_pgoodEvent (d : Nat) (h : Stale b) : Keeps b (pgoodEvent d b) := by
  have risen := keeps_pgoodRise d h
  unfold pgoodEvent
  split
  · exact risen.trans (keeps_replayMmio _ (stale_keeps _ _ h risen))
  · exact risen

theorem keeps_idleExpiry (d : Nat) (b : Block) : Keeps b (idleExpiry d b) := by
  unfold idleExpiry
  dsimp only
  split_ifs
  · exact .refl b
  · split
    · exact keeps_modDom d _ b
    · exact keeps_modDom d _ b

end Domains

section Faults

theorem keeps_clockLoss (b : Block) : Keeps b (clockLoss b) := by
  unfold clockLoss
  split
  · exact .refl b
  · refine ⟨rfl, rfl, rfl, rfl, fun _ => rfl, fun hgone => ?_, rfl⟩
    simp only [keysGone, Bool.and_eq_true] at hgone ⊢
    obtain ⟨⟨⟨⟨⟨⟨⟨⟨-, -⟩, hbindings⟩, hsessions⟩, hchains⟩, hkeys⟩, hjobs⟩, hrevokes⟩, htr⟩ := hgone
    exact ⟨⟨⟨⟨⟨⟨⟨⟨rfl, rfl⟩, hbindings⟩, hsessions⟩, hchains⟩, hkeys⟩, hjobs⟩, hrevokes⟩, htr⟩

theorem keeps_clockReturn (h : Stale b) : Keeps b (clockReturn b) := by
  simp only [clockReturn]
  split
  · exact .refl b
  · refine Keeps.onward h ?_ (keeps_report _ _)
    split
    · exact ⟨rfl, rfl, rfl, rfl, id, id, rfl⟩
    · exact ⟨rfl, rfl, rfl, rfl, id, id, rfl⟩

theorem keeps_quietExpiry (s : Nat) (b : Block) : Keeps b (quietExpiry s b) := by
  simp only [quietExpiry]
  split
  · exact .refl b
  · exact ⟨rfl, rfl, rfl, rfl, id, id, rfl⟩

theorem keeps_selfFault (h : Stale b) : Keeps b (selfFault b) := by
  simp only [selfFault]
  rw [if_pos h]
  exact ⟨rfl, rfl, rfl, rfl, id, id, rfl⟩

theorem keeps_tapSelect (k : Nat) (b : Block) : Keeps b (tapSelect k b) := ⟨rfl, rfl, rfl, rfl, id, id, rfl⟩

theorem keeps_tapTest (h : Stale b) : Keeps b (tapTest b) := by
  have again : enterStalemate 4 0 b = b := if_pos h
  rw [tapTest, again]
  exact (keeps_closing b).trans (Keeps.same rfl rfl rfl)

theorem keeps_tapUnlock (b : Block) : Keeps b (tapUnlock b) := by
  unfold tapUnlock
  split
  · exact .refl b
  · exact ⟨rfl, rfl, rfl, rfl, id, id, rfl⟩

theorem keeps_releaseReset (b : Block) : Keeps b (releaseReset b) := by
  unfold releaseReset
  split
  · exact .refl b
  · exact Keeps.same rfl rfl rfl

theorem keeps_lookupRow (port node chan tag mosaic : Nat) (h : Stale b) :
    Keeps b (lookupRow port node chan tag mosaic b) := by
  unfold lookupRow
  split
  · exact .refl b
  · split
    · exact keeps_emit _ b rfl
    · simp only [routeLookup]
      refine Keeps.trans ?_ (keeps_emit _ _ rfl)
      split
      · exact Keeps.same rfl rfl rfl
      · exact .refl b

end Faults

/-! ### Every command in stalemate -/

/-- The command is a reset: `por_n`, or `hrst_n` low long enough to be taken (R394). -/
def isReset (c : Instr) : Bool :=
  match c with
  | .porNAssert => true
  | .hrstNAssert edges => decide (2 ≤ edges)
  | _ => false

/-- What is held back in stalemate does nothing. -/
theorem keeps_held {p : Block → Bool} {f : Block → Block} (hheld : p b = false) : Keeps b (guarded p f b) := by
  rw [guarded, if_neg (ne_true_of_eq_false hheld)]
  exact .refl b

theorem keeps_guarded {p : Block → Bool} {f : Block → Block} (k : Keeps b (f b)) : Keeps b (guarded p f b) := by
  unfold guarded
  split
  · exact k
  · exact .refl b

/-- The effect of command `c`, and that in stalemate it keeps the record, the keys gone and the work undriven. The
commands named are those that act in stalemate: accesses of the host, route lookups, the supply, the clocks, the fault
timers and the test wrapper; the row of every other holds it back. -/
theorem exec_keeps_stalemate (c : Instr) (hc : isReset c = false) : ∃ f : Block → Block,
    (∀ s : State, exec c s = atUnit (unitExists s.fuses.config c) (effect f s)) ∧
    ∀ b : Block, Stale b → Keeps b (f b) := by
  cases c with
  | porNAssert => cases hc
  | hrstNAssert edges =>
    have few : edges < 2 := by simpa [isReset] using hc
    exact ⟨_, fun _ => rfl, fun b _ => by rw [hrstAssert, if_pos few]; exact .refl b⟩
  | resetRelease => exact ⟨_, fun _ => rfl, fun b _ => keeps_releaseReset b⟩
  | tailDoorbell a | cqHeadDoorbell a => exact ⟨_, fun _ => rfl, keeps_bellRow _ a⟩
  | renew a | admCmdTail a | admRplHead a | seqPcacheInv a | fltForce a | dumpUnlock a | fltSummaryClear a | rescan a
  | batCtxTrCfg a | batCtxTrHead a | dspCoreFailed a | schBwCfg a => exact ⟨_, fun _ => rfl, keeps_regRow _ a⟩
  | registerWrite a | adminWindowWrite a => exact ⟨_, fun _ => rfl, keeps_mmio _⟩
  | registerRead bar2 addr fn id => exact ⟨_, fun _ => rfl, keeps_mmio _⟩
  | routeLookup port node chan tag mosaic =>
    exact ⟨_, fun _ => rfl, fun _ => keeps_lookupRow port node chan tag mosaic⟩
  | pgoodRise d => exact ⟨_, fun _ => rfl, fun _ h => keeps_guarded (keeps_pgoodEvent d h)⟩
  | domainIdleExpiry d => exact ⟨_, fun _ => rfl, fun b _ => keeps_guarded (keeps_idleExpiry d b)⟩
  | avsReadvout mv => exact ⟨_, fun _ => rfl, fun _ h => keeps_guarded (keeps_avsReadvout mv h)⟩
  | avsTargetWriteDone => exact ⟨_, fun _ => rfl, fun b _ => keeps_guarded (keeps_avsWriteDone b)⟩
  | divAck => exact ⟨_, fun _ => rfl, fun _ h => keeps_guarded (keeps_divAck h)⟩
  | dvfsSettleExpiry => exact ⟨_, fun _ => rfl, fun _ h => keeps_guarded (keeps_settleExpiry h)⟩
  | divAckExpiry => exact ⟨_, fun _ => rfl, fun _ h => keeps_guarded (keeps_divAckExpiry h)⟩
  | powerSample rails => exact ⟨_, fun _ => rfl, fun b _ => keeps_guarded (keeps_powerSample rails b)⟩
  | emergencyEntry pin => exact ⟨_, fun _ => rfl, fun _ h => keeps_guarded (keeps_emergencyEntry pin h)⟩
  | emergencyInputRise pin => exact ⟨_, fun _ => rfl, fun b _ => keeps_guarded (keeps_emergencyRise pin b)⟩
  | emergencyClearExpiry => exact ⟨_, fun _ => rfl, fun b _ => keeps_guarded (keeps_emergencyClear b)⟩
  | entropyHealthFail => exact ⟨_, fun _ => rfl, fun b h => keeps_guarded (keeps_report _ b h)⟩
  | quietPeriodExpiry src => exact ⟨_, fun _ => rfl, fun b _ => keeps_guarded (keeps_quietExpiry src b)⟩
  | collectorSelfFault => exact ⟨_, fun _ => rfl, fun _ h => keeps_guarded (keeps_selfFault h)⟩
  | clockLoss => exact ⟨_, fun _ => rfl, fun b _ => keeps_guarded (keeps_clockLoss b)⟩
  | clockReturn => exact ⟨_, fun _ => rfl, fun _ h => keeps_guarded (keeps_clockReturn h)⟩
  | bypass => exact ⟨_, fun _ => rfl, fun b _ => keeps_guarded (keeps_tapSelect _ b)⟩
  | idcode => exact ⟨_, fun _ => rfl, fun b _ => keeps_guarded ((keeps_tapSelect _ b).trans (keeps_emit _ _ rfl))⟩
  | scan | mbist =>
    exact ⟨_, fun _ => rfl, fun b h => keeps_guarded (Keeps.onward h (keeps_tapSelect _ b) keeps_tapTest)⟩
  | unlock => exact ⟨_, fun _ => rfl, fun b _ => keeps_guarded ((keeps_tapSelect _ b).trans (keeps_tapUnlock _))⟩
  | _ => exact ⟨_, fun _ => rfl, fun _ h => keeps_held (by simp [running_stale h, serving_stale h])⟩

theorem leavesStalemate_cons {c : Instr} {cs : List Instr} : leavesStalemate ⟨b, c :: cs⟩ = isReset c := by
  cases c <;> rfl

/-- A step from stalemate that is no reset keeps it. -/
theorem keeps_step {s t : State} (h : s.flt.stale = true) (hstays : leavesStalemate s = false) (hstep : step s = .next t) :
    Keeps s.toBlock t.toBlock := by
  obtain ⟨b, cs⟩ := s
  cases cs with
  | nil =>
    rw [step_nil] at hstep
    cases hstep
    exact keeps_tick b h
  | cons c cs =>
    obtain ⟨f, hf, hkeeps⟩ := exec_keeps_stalemate c (leavesStalemate_cons.symm.trans hstays)
    rw [step_cons, hf, atUnit] at hstep
    split at hstep
    · cases hstep
      exact Keeps.onward h (hkeeps b h) (keeps_ending _)
    · cases hstep

/-! ### Resets in stalemate -/

/-- A reset leaves the block with no key, no start-up step begun, no reply owed and no work driven. -/
structure ResetFrom (b c : Block) : Prop where
  step : c.pwr.step = 0
  due : c.adm.due = []
  gone : keysGone c = true
  out : c.out.filter Output.isWork = b.out.filter Output.isWork

theorem filter_reverse_append_idle {os : List Output} (hidle : ∀ o ∈ os, o.isWork = false) (out : List Output) :
    (os.reverse ++ out).filter Output.isWork = out.filter Output.isWork := by
  have none : os.reverse.filter Output.isWork = [] := by
    simpa [List.filter_eq_nil_iff] using hidle
  rw [List.filter_append, none, List.nil_append]

theorem resetFrom_resetOutputs (was b : Block) (hstep : b.pwr.step = 0) (hdue : b.adm.due = [])
    (hgone : keysGone b = true) (hout : b.out = was.out) : ResetFrom was (resetOutputs was b) := by
  rw [resetOutputs, emitAll_eq]
  refine ⟨hstep, hdue, hgone, ?_⟩
  rw [filter_reverse_append_idle ?idle, hout]
  case idle =>
    simp only [List.forall_mem_append, List.forall_mem_map, List.forall_mem_cons]
    exact ⟨⟨⟨rfl, rfl, rfl, rfl, rfl, nofun⟩, fun _ _ => rfl⟩, fun _ _ => rfl⟩

theorem resetFrom_porAssert (b : Block) : ResetFrom b (porAssert b) :=
  resetFrom_resetOutputs b _ rfl rfl rfl rfl

theorem resetFrom_hrstAssert {edges : Nat} (htaken : 2 ≤ edges) (b : Block) : ResetFrom b (hrstAssert edges b) := by
  rw [hrstAssert, if_neg (Nat.not_lt.mpr htaken)]
  exact resetFrom_resetOutputs b _ rfl rfl rfl rfl

/-- What ends a reset drives no work and brings no key back. -/
theorem resetFrom_ending {b c : Block} (k : ResetFrom b c) :
    keysGone (ending c) = true ∧ (ending c).out.filter Output.isWork = b.out.filter Output.isWork := by
  rw [ending_in_reset k.step k.due]
  exact ⟨(keeps_closing c).kg k.gone, (keeps_closing c).ou.trans k.out⟩

theorem exec_resets {c : Instr} (hc : isReset c = true) (b : Block) (cs : List Instr) :
    ∃ r : Block, ResetFrom b r ∧ exec c ⟨b, cs⟩ = nextAfter r cs := by
  unfold isReset at hc
  split at hc
  · exact ⟨_, resetFrom_porAssert b, rfl⟩
  · exact ⟨_, resetFrom_hrstAssert (of_decide_eq_true hc) b, rfl⟩
  · cases hc

/-- Settles O59: a reset drives the idle levels and has no key, and every other step keeps the keys gone and the work
undriven. -/
theorem stalemateLocked : Obligations.StalemateLocked := by
  unfold Obligations.StalemateLocked
  intro s t hstale hgone hstep
  cases hleaves : leavesStalemate s with
  | false =>
    have k := keeps_step hstale hleaves hstep
    exact ⟨k.kg hgone, k.ou⟩
  | true =>
    obtain ⟨b, cs⟩ := s
    cases cs with
    | nil => cases hleaves
    | cons c cs =>
      obtain ⟨r, hreset, hr⟩ := exec_resets (leavesStalemate_cons.symm.trans hleaves) b cs
      rw [step_cons, hr] at hstep
      cases hstep
      exact resetFrom_ending hreset

/-! ### The entry into stalemate -/

theorem admReply_adm (i : Nat) (st : Status) (d : Nat) (r : List Nat) (fin : Bool) (b : Block) :
    ∃ a : Adm, admReply i st d r fin b = { b with adm := a } := by
  unfold admReply
  split
  · exact ⟨b.adm, rfl⟩
  · exact ⟨_, rfl⟩

/-- Final replies change the admin rings alone. -/
theorem admFinals_adm (is : List Nat) (st : Status) (b : Block) : ∃ a : Adm, admFinals is st b = { b with adm := a } := by
  unfold admFinals
  induction is generalizing b with
  | nil => exact ⟨b.adm, rfl⟩
  | cons i is ih =>
    obtain ⟨a, ha⟩ := admReply_adm i st 0xFFFFFFFF [] true b
    obtain ⟨a', ha'⟩ := ih (admFinal i st b)
    exact ⟨a', ha'.trans (by rw [admFinal, ha])⟩

theorem hub_out_staleReplies (b : Block) : (staleReplies b).hub = b.hub ∧ (staleReplies b).out = b.out := by
  obtain ⟨a, ha⟩ : ∃ a : Adm, staleReplies b = { b with adm := a } := admFinals_adm _ _ b
  rw [ha]
  exact ⟨rfl, rfl⟩

theorem staleHeld_cons (m : Mmio) (ms : List Mmio) (b : Block) :
    staleHeld { b with hub := { b.hub with held := m :: ms } } =
      staleHeld { b with hub := { b.hub with held := ms }, out := (heldAnswer m).toList ++ b.out } := by
  cases m with
  | read bar2 a fn id => rfl
  | write bar2 a => rfl

/-- The accesses that waited are answered in their order, so that the last answer is the newest output (R73). -/
theorem staleHeld_list (ms : List Mmio) (b : Block) : staleHeld { b with hub := { b.hub with held := ms } } =
    { b with hub := { b.hub with held := [] }, out := (ms.filterMap heldAnswer).reverse ++ b.out } := by
  induction ms generalizing b with
  | nil => rfl
  | cons m ms ih =>
    refine (staleHeld_cons m ms b).trans ((ih { b with out := (heldAnswer m).toList ++ b.out }).trans ?_)
    cases h : heldAnswer m with
    | none => simp [h]
    | some o => simp [h]

theorem staleHeld_eq (b : Block) : staleHeld b =
    { b with hub := { b.hub with held := [] }, out := (b.hub.held.filterMap heldAnswer).reverse ++ b.out } :=
  staleHeld_list b.hub.held b

theorem hub_out_enterStalemate {reason src : Nat} (halive : b.flt.stale = false) :
    (enterStalemate reason src b).hub.held = [] ∧ (enterStalemate reason src b).out =
      (b.hub.held.filterMap heldAnswer).reverse ++ [.ksInvalid true, .faultFatal true] ++ b.out := by
  simp only [enterStalemate, halive, Bool.false_eq_true, if_false, hub_out_staleReplies, staleHeld_eq]
  rw [List.append_assoc]
  exact ⟨trivial, rfl⟩

/-- Settles O60: what the faults, the keys, the accesses that wait and the outputs are after the entry. -/
theorem stalemateEntered : Obligations.StalemateEntered := by
  unfold Obligations.StalemateEntered
  refine ⟨⟨rfl, rfl, rfl⟩, fun reason src b halive => ?entry, fun reason src b hstale => if_pos hstale⟩
  have hflt := enterStalemate_flt (reason := reason) (src := src) halive
  obtain ⟨hheld, hout⟩ := hub_out_enterStalemate (reason := reason) (src := src) halive
  dsimp only
  rw [hflt]
  exact ⟨rfl, rfl, rfl, rfl, keysGone_enterStalemate halive, rfl, rfl, hheld, hout⟩

end Sys2Proof.Machine

/-! ### Commands on keys -/

namespace Sys2Proof.Machine

variable {b : Block} {i : Nat} {e : List Byte}

/-- Under a session that may import, a key that unwraps goes to every memory path for an EMPTY slot (R338). -/
theorem keyImport_installs {key : List Byte} {n : Session} (hon : domOn b 4 = true) (hrange : ef e 5 0 8 < nContexts b)
    (hidk : b.sec.idkValid = true)
    (hsession : b.sec.sessions.find? (fun s => s.id == word e 4 && s.done && s.allSum) = some n)
    (hactive : (ctxOf b (ef e 5 0 8)).state = .active) (hempty : (keyOf b (ef e 5 16 10)).state = .empty)
    (hunwrap : aesUnwrap (importKey n.ems (ef e 5 0 8) (ef e 5 16 10) (slice e 24 16)) (slice e 40 40) = some key) :
    keyImport i e b = wake 4 7 (ksAdd .install (ef e 5 16 10) [leNat key, leNat (slice e 24 16)] (memInsts b)
      (.keyImport i (ef e 5 16 10)) b) := by
  simp only [keyImport, if_neg (Nat.not_le.mpr hrange), needSec_on hon, hidk, if_true, hsession, hactive, hempty, hunwrap,
    bne_self_eq_false, Bool.false_eq_true, if_false]

/-- A LOADED slot becomes REVOKING and is suspended on every memory path, step 2 of its revocation (R346). -/
theorem keyRevoke_suspends (hon : domOn b 4 = true) (hloaded : (keyOf b (ef e 4 0 10)).state = .loaded) :
    keyRevoke i e b =
      let s := modKey (ef e 4 0 10) (fun k => { k with state := .revoking }) b
      wake 4 7 (ksAdd .suspend (ef e 4 0 10) [] (memInsts s) (.revokeStep (ef e 4 0 10)) { s with sec := { s.sec with
        revokes := s.sec.revokes ++ [{ handle := ef e 4 0 10, step := 2, adm := i, dead := 0 }] } }) := by
  simp only [keyRevoke, needSec_on hon, hloaded, bne_self_eq_false, Bool.false_eq_true, if_false]

/-- A request of a length and buffers that R331 allows is read. -/
theorem attest_reads (hon : domOn b 4 = true) (hsome : ef e 5 0 13 ≠ 0) (hfit : ef e 5 0 13 ≤ 4096)
    (hctx : ef e 4 16 1 = 1 → ef e 4 0 8 < nContexts b) (hsource : bufBad (dword e 6) (ef e 5 0 13) 1 = none)
    (hdest : bufBad (dword e 8) 4096 1 = none) : attest i e b = wake 4 7 (admRead i b) := by
  have hlen : ¬(ef e 5 0 13 = 0 ∨ 4096 < ef e 5 0 13) := by omega
  have hscript : ¬(ef e 4 16 1 = 1 ∧ nContexts b ≤ ef e 4 0 8) := fun ⟨hone, hle⟩ => Nat.not_lt.mpr hle (hctx hone)
  simp only [attest, if_neg hlen, if_neg hscript, needSec_on hon, hsource, hdest]

/-- Settles O20: with PD_SEC ON none of the three waits, and each begins what its checks allow. -/
theorem keyCommands : Obligations.KeyCommands := by
  unfold Obligations.KeyCommands
  refine ⟨?importKey, ?revoke, ?attest⟩
  case importKey =>
    intro b cs i e key n hready c h s hon hrange hidk hsession hactive hempty hunwrap
    have row : exec (.keyImport (i % 1024)) ⟨b, cs⟩ = nextAfter (keyImport i e s) cs := adminWork_ready hready
    rw [row, keyImport_installs (b := s) hon hrange hidk hsession hactive hempty hunwrap, ksAdd_memInsts]
    rfl
  case revoke =>
    intro b cs i e hready h s hon hloaded
    have row : exec (.keyRevoke (i % 1024)) ⟨b, cs⟩ = nextAfter (keyRevoke i e (admStarted i b)) cs :=
      adminWork_ready hready
    rw [row, keyRevoke_suspends (b := admStarted i b) hon hloaded]
    dsimp only
    rw [ksAdd_memInsts]
    rfl
  case attest =>
    intro b cs i e hready hon hsome hfit hctx hsource hdest
    have row : exec (.attest (i % 1024)) ⟨b, cs⟩ = nextAfter (attest i e (admStarted i b)) cs := adminWork_ready hready
    rw [row, attest_reads (b := admStarted i b) hon hsome hfit hctx hsource hdest]
    rfl

end Sys2Proof.Machine

/-! ### Answers of the key sideband and of the tag revoke port -/

namespace Sys2Proof.Machine

variable {b : Block} {cs : List Instr} {inst : Nat} {j : KsJob}

section Acknowledged

variable (hfind : b.sec.jobs.find? (fun j => j.issued && j.insts.contains inst) = some j)
include hfind

theorem ksAck_left (hleft : j.insts.filter (· != inst) ≠ []) : ksAck inst b = ksPump { b with sec := { b.sec with
    jobs := modFirst (fun x => x == j) (fun k => { k with insts := j.insts.filter (· != inst) }) b.sec.jobs } } := by
  simp only [ksAck, hfind, if_neg (mt List.isEmpty_iff.mp hleft)]

theorem ksAck_last (hlast : j.insts.filter (· != inst) = []) : ksAck inst b =
    ksPump (ksFinish j (ksPump { b with sec := { b.sec with jobs := b.sec.jobs.erase j } })) := by
  simp only [ksAck, hfind, hlast, List.isEmpty_nil, if_true]

end Acknowledged

theorem ksAck_none (hnone : b.sec.jobs.find? (fun j => j.issued && j.insts.contains inst) = none) :
    ksAck inst b = b := by
  simp only [ksAck, hnone]

theorem ksExpiry_past (hmem : j ∈ b.sec.jobs) (hissued : j.issued = true) (hinst : inst ∈ j.insts)
    (hpast : j.dead < hubNow b) : ksExpiry inst b = report (ftlReport 0x22) b := by
  have hany : b.sec.jobs.any (fun j => j.issued && j.insts.contains inst && expired (hubNow b) j.dead) = true :=
    List.any_eq_true.mpr ⟨j, hmem, by simp [hissued, hinst, expired, hpast]⟩
  rw [ksExpiry, if_pos hany]

/-! What a job was for goes on once every engine has acknowledged -/

section Finished

variable {h : Nat}

theorem ksFinish_import {i : Nat} {a : AdmCmd} (huse : j.use = .keyImport i h) (hcmd : admOf b i = some a) :
    ksFinish j b = admFinal i .ok (modKey h (fun _ =>
      { state := .loaded, ctx := ef a.entry 5 0 8, key := leBytes (j.args.getD 0 0) 32
        salt := leBytes (j.args.getD 1 0) 16 }) b) := by
  simp only [ksFinish, huse, importDone, hcmd]

theorem ksFinish_bind {oid : Nat} (huse : j.use = .bindOp oid) : ksFinish j b = completeOp oid b := by
  simp only [ksFinish, huse]

theorem ksFinish_removed (huse : j.use = .teardown) (hop : j.op = .remove) :
    ksFinish j b = modKey j.handle (fun _ => keyZero) b := by
  simp only [ksFinish, huse, hop, beq_self_eq_true, if_true]

variable {r : Revoke} (huse : j.use = .revokeStep h) (hrevoke : b.sec.revokes.find? (·.handle == h) = some r)
include huse hrevoke

/-- The suspended slot drains, within the drain bound (R346). -/
theorem ksFinish_suspended (hstep : r.step = 2) : ksFinish j b
    = modRevoke h (fun r => { r with step := 3, dead := hubNow b + 2 ^ b.sec.tdLog2 }) b := by
  simp only [ksFinish, huse, revokeAck, hrevoke, if_pos hstep]

/-- The removed slot is EMPTY, and its KEY_REVOKE is answered (R346). -/
theorem ksFinish_revoked (hstep : r.step = 4) : ksFinish j b = admFinal r.adm .ok (modKey h (fun _ => keyZero)
    { b with sec := { b.sec with revokes := b.sec.revokes.filter (·.handle != h) } }) := by
  have hpast : ¬r.step = 2 := by simp [hstep]
  simp only [ksFinish, huse, revokeAck, hrevoke, if_neg hpast]

end Finished

theorem ksDrainAck_fence {port : Nat} {t : Teardown} {ts : List Teardown} (htds : b.sec.tds = t :: ts)
    (hstep : t.step = 3) (hfence : bitOf b.sec.tdLink port = true) : ksDrainAck port b = { b with
      sec := { b.sec with tdLink := clrBit b.sec.tdLink port }
      out := .ksFence port false (ctxOf b t.ctx).ast :: b.out } := by
  have hraised : ¬(t.step ≠ 3 ∨ bitOf b.sec.tdLink port = false) := by simp [hstep, hfence]
  simp only [ksDrainAck, htds, if_neg hraised]
  rfl

/-- A request past its bound, of which nothing has come yet (R350). -/
theorem trReq_overdue {r : TrReq} (hopen : r.expired = false) (hpast : r.dead < hubNow b) :
    ¬(r.expired = true ∨ expired (hubNow b) r.dead = false) := by
  simp [hopen, expired, hpast]

section TagRevoke

variable {r : TrReq} (hport : b.sec.tr = some r)
include hport

theorem trAck_create {c i : Nat} (huse : r.use = .create c i) :
    trAck b = ctxCreated c i { b with sec := { b.sec with tr := none } } := by
  simp only [trAck, hport, huse]

/-- An acknowledged REVOKE frees the port, whether or not its teardown still waits for it. -/
theorem trAck_revoke (huse : r.use = .teardown ∨ r.use = .late ∧ r.op = 0) :
    trAck b = { b with sec := { b.sec with tr := none } } := by
  rcases huse with huse | ⟨huse, hop⟩
  · simp only [trAck, hport, huse]
  · simp only [trAck, hport, huse, hop, zero_ne_one, if_false]

/-- An ENABLE acknowledged too late for its CTX_CREATE is taken back by a REVOKE (R350). -/
theorem trAck_lateEnable (huse : r.use = .late) (hop : r.op = 1) :
    trAck b = trRaise 0 r.ast .late { b with sec := { b.sec with tr := none } } := by
  simp only [trAck, hport, huse, if_pos hop]

variable (hopen : r.expired = false) (hpast : r.dead < hubNow b)
include hopen hpast

theorem trAckExpiry_create {c i : Nat} (huse : r.use = .create c i) : trAckExpiry b = admFinal i .noResource
    { b with sec := { b.sec with tr := some { r with expired := true, use := .late } } } := by
  simp only [trAckExpiry, hport, if_neg (trReq_overdue hopen hpast), huse]

theorem trAckExpiry_teardown {t : Teardown} {ts : List Teardown} (huse : r.use = .teardown) (htds : b.sec.tds = t :: ts) :
    trAckExpiry b = admReply t.adm .deferred 0xFFFFFFFF [] false { b with sec := { b.sec with
      tr := some { r with expired := true }, tds := { t with deferred := true } :: ts } } := by
  simp only [trAckExpiry, hport, if_neg (trReq_overdue hopen hpast), huse, htds, modTd]

end TagRevoke

/-- The row of a sideband engine that the configuration has. -/
theorem atUnit_ksInst_eq {f : Block → Block} (hr : running b = true) (hinst : ksInst b inst = true) :
    atUnit (ksInst b inst) (live f ⟨b, cs⟩) = nextAfter (f b) cs :=
  (atUnit_eq hinst).trans (live_eq hr)

/-- Settles O50: each answer of the sideband and of the tag revoke port, and the bound of each, by the lemmas above. -/
theorem sidebandCommands : Obligations.SidebandCommands := by
  unfold Obligations.SidebandCommands
  refine ⟨?ack, ?ignored, ?finished, ?revocation, ?fatal, ?refused, ?fence, ?tag, ?tagBound⟩
  case ack =>
    intro b cs inst j hr hinst hfind left
    have row : exec (.keySidebandAck inst) ⟨b, cs⟩ = nextAfter (ksAck inst b) cs := atUnit_ksInst_eq hr hinst
    rw [row]
    refine ⟨fun hleft => ?_, fun hlast => ?_⟩
    · rw [ksAck_left hfind hleft]
    · rw [ksAck_last hfind hlast]
  case ignored =>
    intro b cs inst hr hinst hnone
    have row : exec (.keySidebandAck inst) ⟨b, cs⟩ = nextAfter (ksAck inst b) cs := atUnit_ksInst_eq hr hinst
    rw [row, ksAck_none hnone]
  case finished =>
    exact fun _ _ _ _ _ _ => ⟨ksFinish_import, ksFinish_bind, ksFinish_removed⟩
  case revocation =>
    exact fun _ _ _ _ huse hrevoke => ⟨ksFinish_suspended huse hrevoke, ksFinish_revoked huse hrevoke⟩
  case fatal =>
    intro b cs inst j hr hinst hmem hissued hawaited hpast
    have row : exec (.keySidebandAckExpiry inst) ⟨b, cs⟩ = nextAfter (ksExpiry inst b) cs := atUnit_ksInst_eq hr hinst
    rw [row, ksExpiry_past hmem hissued hawaited hpast]
  case refused =>
    intro b cs inst hr hinst
    exact atUnit_ksInst_eq hr hinst
  case fence =>
    intro b cs port t ts hr hrange htds hstep hfence
    have row : exec (.ksDrainAck port) ⟨b, cs⟩ = nextAfter (ksDrainAck port b) cs := atUnit_live_eq hr hrange
    rw [row, ksDrainAck_fence htds hstep hfence]
  case tag =>
    intro b cs r hr hport w
    have row : exec .trAck ⟨b, cs⟩ = nextAfter (trAck b) cs := live_eq hr
    rw [row]
    refine ⟨fun c i huse => ?_, fun huse => ?_, fun huse hop => ?_⟩
    · rw [trAck_create hport huse]
    · rw [trAck_revoke hport huse]
    · rw [trAck_lateEnable hport huse hop]
      rfl
  case tagBound =>
    intro b cs r hr hport hopen hpast
    have row : exec .trAckExpiry ⟨b, cs⟩ = nextAfter (trAckExpiry b) cs := live_eq hr
    rw [row]
    refine ⟨fun c i huse => ?_, fun t ts huse htds => ?_⟩
    · rw [trAckExpiry_create hport hopen hpast huse]
    · rw [trAckExpiry_teardown hport hopen hpast huse htds]

end Sys2Proof.Machine

/-! ### Resets, and the way out of stalemate -/

namespace Sys2Proof.Machine

variable {b : Block} {edges : Nat}

/-- In reset, with no reply owed and neither a capture nor a FRESH HELLO due, nothing follows a command. -/
theorem ending_of_reset {c : Block} (hstep : c.pwr.step = 0) (hdue : c.adm.due = []) (hcap : c.flt.capDue = none)
    (hfresh : c.flt.freshDue = false) : ending c = c := by
  rw [ending_in_reset hstep hdue, closing_quiet hcap hfresh]

theorem exec_porNAssert (b : Block) (cs : List Instr) : exec .porNAssert ⟨b, cs⟩ = .next ⟨porAssert b, cs⟩ := by
  have row : exec .porNAssert ⟨b, cs⟩ = nextAfter (porAssert b) cs := rfl
  have idle : ending (porAssert b) = porAssert b := by
    rw [porAssert, resetOutputs, emitAll_eq]
    exact ending_of_reset rfl rfl rfl rfl
  rw [row, nextAfter, idle]

theorem exec_hrstNAssert_taken (h : 2 ≤ edges) (b : Block) (cs : List Instr) :
    exec (.hrstNAssert edges) ⟨b, cs⟩ = .next ⟨hrstAssert edges b, cs⟩ := by
  have row : exec (.hrstNAssert edges) ⟨b, cs⟩ = nextAfter (hrstAssert edges b) cs := rfl
  have idle : ending (hrstAssert edges b) = hrstAssert edges b := by
    rw [hrstAssert, if_neg (Nat.not_lt.mpr h), resetOutputs, emitAll_eq]
    exact ending_of_reset rfl rfl rfl rfl
  rw [row, nextAfter, idle]

theorem exec_hrstNAssert_ignored (h : edges < 2) (b : Block) (cs : List Instr) :
    exec (.hrstNAssert edges) ⟨b, cs⟩ = nextAfter b cs := by
  have row : exec (.hrstNAssert edges) ⟨b, cs⟩ = nextAfter (hrstAssert edges b) cs := rfl
  rw [row, hrstAssert, if_pos h]

/-- The levels that a reset drives, the newest first: they are put before what was driven. -/
theorem resetOutputs_eq (was b : Block) : resetOutputs was b = { b with
    out := ((domOrder was).map (Output.pdRet · false)).reverse ++ ((domOrder was).map (Output.pdIso · true)).reverse
      ++ [.avs was.fuses.vsafeMv.toNat, .divStep 4, .faultFatal false, .blkUp false, .ksInvalid true] ++ b.out } := by
  rw [resetOutputs, emitAll_eq]
  simp

/-- Settles O1: what a reset puts in place, and what it drives. -/
theorem resets : Obligations.Resets := by
  unfold Obligations.Resets
  refine ⟨fun b cs => ?power, fun edges b cs h => ?host, fun edges b cs h => exec_hrstNAssert_ignored h b cs⟩
  case power => rw [exec_porNAssert, porAssert, resetOutputs_eq]
  case host =>
    rw [exec_hrstNAssert_taken h, hrstAssert, if_neg (Nat.not_lt.mpr h), resetOutputs_eq]
    rfl

/-- A reset leaves the block out of stalemate. -/
theorem exec_reset_alive {c : Instr} (hc : isReset c = true) (b : Block) (cs : List Instr) :
    ∃ r : Block, r.flt.stale = false ∧ exec c ⟨b, cs⟩ = .next ⟨r, cs⟩ := by
  unfold isReset at hc
  split at hc
  · refine ⟨_, ?_, exec_porNAssert b cs⟩
    rw [porAssert, resetOutputs_eq]
    rfl
  · have taken := of_decide_eq_true hc
    refine ⟨_, ?_, exec_hrstNAssert_taken taken b cs⟩
    rw [hrstAssert, if_neg (Nat.not_lt.mpr taken), resetOutputs_eq]
    rfl
  · cases hc

/-- Settles O58: every step but one of a reset keeps stalemate and its record, and a reset puts the faults in their reset
state. -/
theorem stalemateExits : Obligations.StalemateExits := by
  unfold Obligations.StalemateExits
  intro s t hstale hstep
  refine ⟨fun hleaves => ?leaves, fun hstays => ?stays⟩
  case stays =>
    have k := keeps_step hstale hstays hstep
    exact ⟨k.st.trans hstale, k.re, k.sr, k.en, k.fp⟩
  case leaves =>
    obtain ⟨b, cs⟩ := s
    cases cs with
    | nil => cases hleaves
    | cons c cs =>
      obtain ⟨r, halive, hr⟩ := exec_reset_alive (leavesStalemate_cons.symm.trans hleaves) b cs
      rw [step_cons, hr] at hstep
      cases hstep
      exact halive

end Sys2Proof.Machine

/-! ### Reads of the host -/

namespace Sys2Proof.Machine

variable {b : Block} {cs : List Instr} {a : MmioWrite} {x : BitVec 24} {id : BitVec 3}

theorem alive_of_hubOpen (hopen : hubOpen b = true) : b.flt.stale = false := by
  simp only [hubOpen, Bool.and_eq_true, Bool.not_eq_true'] at hopen
  exact hopen.2

/-- A read that HUB takes answers as HUB accepts it, and counts as an access. -/
theorem exec_registerRead {bar2 fn : Bool} (hopen : hubOpen b = true) :
    exec (.registerRead bar2 x fn id) ⟨b, cs⟩ = afterAccess (acceptRead bar2 x fn id b) cs := by
  have row : exec (.registerRead bar2 x fn id) ⟨b, cs⟩ = nextAfter (mmio (.read bar2 x fn id) b) cs := effect_eq
  rw [row, mmio_readOpen hopen, afterAccess_eq]

/-- So does a read in stalemate while PD_HUB is ON and nothing waits before it. -/
theorem exec_registerRead_awake {bar2 fn : Bool} (hup : b.hub.blkUp = true) (hon : domOn b 1 = true)
    (hfree : b.hub.held = []) :
    exec (.registerRead bar2 x fn id) ⟨b, cs⟩ = afterAccess (acceptRead bar2 x fn id b) cs := by
  have row : exec (.registerRead bar2 x fn id) ⟨b, cs⟩ = nextAfter (mmio (.read bar2 x fn id) b) cs := effect_eq
  rw [row, mmio_read hup hon hfree, afterAccess_eq]

theorem acceptRead_bar2 (halive : b.flt.stale = false) :
    acceptRead true x false id b = emit (.mmioResp id.toNat (BitVec.ofNat 64 (bar2Read b x.toNat)) false) b := by
  simp [acceptRead, halive]

/-! Reads of BAR0 -/

theorem acceptRead_reg {r : Reg} (halive : b.flt.stale = false) (hon : domOn b (regDomain x.toNat) = true)
    (hat : regAt b x.toNat = some r) :
    acceptRead false x false id b = emit (.mmioResp id.toNat (BitVec.ofNat 64 (regVal b r)) false) (regClear r b) := by
  simp [acceptRead, halive, hon, hat]

theorem acceptRead_domainOff (halive : b.flt.stale = false) (hoff : domOn b (regDomain x.toNat) = false) :
    acceptRead false x false id b = emit (.mmioResp id.toNat 0 false) b := by
  simp [acceptRead, halive, hoff]

/-- A reserved offset reads zero whether or not the domain of its region is ON (R431, R433). -/
theorem acceptRead_reserved (halive : b.flt.stale = false) (hat : regAt b x.toNat = none) :
    acceptRead false x false id b = emit (.mmioResp id.toNat 0 false) b := by
  cases hon : domOn b (regDomain x.toNat) with
  | false => exact acceptRead_domainOff halive hon
  | true => simp [acceptRead, halive, hon, hat]

theorem acceptRead_stale_refused (hstale : b.flt.stale = true) (hread : staleReadable x.toNat = false) :
    acceptRead false x false id b = emit (.mmioResp id.toNat 0 true) b := by
  simp [acceptRead, hstale, hread]

theorem acceptRead_stale_reg {r : Reg} (hstale : b.flt.stale = true) (hread : staleReadable x.toNat = true)
    (hon : domOn b (regDomain x.toNat) = true) (hat : regAt b x.toNat = some r) :
    acceptRead false x false id b = emit (.mmioResp id.toNat (BitVec.ofNat 64 (regVal b r)) false) b := by
  simp [acceptRead, hstale, hread, hon, hat]

/-! ### Writes and reads of reserved offsets -/

/-- A write to a reserved offset is discarded whether or not the domain of its region is ON (R431, R433). -/
theorem bar0Write_reserved (hfn : a.fn = false) (hat : regAt b a.addr.toNat = none) : bar0Write a b = b := by
  simp [bar0Write, hfn, hat]

/-- Between the doorbells of a page a write is counted for its context (R41); past the pages it is discarded (R431). -/
theorem bar2Write_none (hfn : a.fn = false) (hat : bar2At b a.addr.toNat = none) :
    bar2Write a b = if a.addr.toNat / 0x1000 < nContexts b then bellDrop (a.addr.toNat / 0x1000) b else b := by
  simp [bar2Write, hat, hfn]

theorem bar2Read_none {n : Nat} (hat : bar2At b n = none) : bar2Read b n = 0 := by
  simp [bar2Read, hat]

/-- Settles O6: reads and writes of BAR0, then of BAR2. -/
theorem reservedOffsets : Obligations.ReservedOffsets := by
  unfold Obligations.ReservedOffsets
  refine ⟨?read0, ?write0, ?read2, ?write2⟩
  case read0 =>
    intro b cs x id hopen hat
    rw [exec_registerRead hopen, acceptRead_reserved (alive_of_hubOpen hopen) hat]
    rfl
  case write0 =>
    intro b cs a hopen hfn hat
    have row : exec (.registerWrite a) ⟨b, cs⟩ = nextAfter (mmio (.write false a) b) cs := effect_eq
    rw [row, mmio_write0 hopen, bar0Write_reserved hfn hat, afterAccess_eq]
  case read2 =>
    intro b cs x id hopen hat
    rw [exec_registerRead hopen, acceptRead_bar2 (alive_of_hubOpen hopen), bar2Read_none hat]
    rfl
  case write2 =>
    intro b cs a hopen hfn hat
    have row : exec (.adminWindowWrite a) ⟨b, cs⟩ = afterAccess (bar2Write a b) cs := effect_mmio_write2 hopen
    rw [row, bar2Write_none hfn hat]
    rfl

/-- Settles O11: what BAR2 does with the two rings' words. -/
theorem adminWindow : Obligations.AdminWindow := by
  unfold Obligations.AdminWindow
  refine ⟨?command, ?reply, ?read⟩
  case command =>
    intro b cs a w hopen hfn hat
    have row : exec (.adminWindowWrite a) ⟨b, cs⟩ = afterAccess (bar2Write a b) cs := effect_mmio_write2 hopen
    rw [row]
    simp [bar2Write, hat, hfn]
  case reply =>
    intro b cs a w hopen hfn hat
    have row : exec (.adminWindowWrite a) ⟨b, cs⟩ = afterAccess (bar2Write a b) cs := effect_mmio_write2 hopen
    rw [row]
    simp [bar2Write, hat, hfn]
  case read =>
    intro b cs x id w hopen
    rw [exec_registerRead hopen, acceptRead_bar2 (alive_of_hubOpen hopen)]
    refine ⟨fun hat => ?_, fun hat => ?_⟩
    · rw [bar2Read, hat]
      rfl
    · rw [bar2Read, hat]
      rfl

/-- A bit in its place of a register's value. -/
theorem at_b2n (v : Bool) (n : Nat) : at_ (b2n v) n = if v then 2 ^ n else 0 := by
  cases v <;> simp [at_, b2n]

theorem regClear_of_not_rc {r : Reg} (h : rcReg r = false) (b : Block) : regClear r b = b := by
  cases r with
  | hubCtxDbDrop _ | dspLaneStray | dspRedispatch | seqTimingSlip _ | seqDdStray _ | seqPasses _ | batMosStatus
  | batTokenStray | batCtxTrStatus _ | fabDiscStatus | fabEpochStray | fabSerdoDrop | schSqOverrun | schBwStatus
  | secTdLate | secAuthFail | fltTest | pwrDvfsStatus | pwrEmerg | pwrPdRec _ | admDrop | hubDbStray
  | depRemoteDrop | depWcdCount => cases h
  | _ => rfl

/-- Settles O7: how HUB answers a read by the state of the block and of the register's domain, and what the registers named
hold and clear. -/
theorem registerReads : Obligations.RegisterReads := by
  unfold Obligations.RegisterReads
  refine ⟨?on, fun b r h => regClear_of_not_rc h b, fun b c => ⟨rfl, rfl⟩, fun b => ⟨rfl, rfl⟩, ?named, ?off,
    ?stale⟩
  case on =>
    intro b cs x id r hopen hon hat
    rw [exec_registerRead hopen, acceptRead_reg (alive_of_hubOpen hopen) hon hat]
    rfl
  case named =>
    intro b
    refine ⟨⟨rfl, rfl⟩, ⟨rfl, rfl⟩, ⟨rfl, rfl⟩, fun q => ?_, ?_, rfl, rfl, ?_⟩
    · rw [← at_b2n]; rfl
    · rw [← at_b2n]; rfl
    · rw [← at_b2n]; rfl
  case off =>
    intro b cs x id hopen hoff
    rw [exec_registerRead hopen, acceptRead_domainOff (alive_of_hubOpen hopen) hoff]
    rfl
  case stale =>
    intro b cs x id hup hon hfree hstale
    rw [exec_registerRead_awake hup hon hfree]
    refine ⟨fun hread => ?_, fun r hread hdom hat => ?_⟩
    · rw [acceptRead_stale_refused hstale hread]
      rfl
    · rw [acceptRead_stale_reg hstale hread hdom hat]
      rfl

end Sys2Proof.Machine

/-! ### Writes of the host to registers -/

namespace Sys2Proof.Machine

variable {b : Block} {cs : List Instr} {a : MmioWrite} {r : Reg}

/-- The row of a register's own does with a write of fewer than eight byte enables what the register does with one. -/
theorem effect_regRow_partial {p : Reg → Bool} (h : reaches b a r = true) (hf : a.be ≠ 0xFF) (hp : p r = true) :
    effect (regRow p a) ⟨b, cs⟩ = afterAccess (partialWrite r b) cs := by
  have hrow : regRow p a b = mmio (.write false a) b := by simp [regRow, regAt_of_reaches h, hp]
  rw [effect_eq, hrow, mmio_partial h hf, afterAccess_eq]

theorem exec_registerWrite_full (h : reaches b a r = true) (hf : a.be = 0xFF) :
    exec (.registerWrite a) ⟨b, cs⟩ = afterAccess (regWrite r a.data.toNat b) cs := by
  have row : exec (.registerWrite a) ⟨b, cs⟩ = nextAfter (mmio (.write false a) b) cs := effect_eq
  rw [row, mmio_full h hf, afterAccess_eq]

theorem exec_registerWrite_partial (h : reaches b a r = true) (hf : a.be ≠ 0xFF) :
    exec (.registerWrite a) ⟨b, cs⟩ = afterAccess (partialWrite r b) cs := by
  have row : exec (.registerWrite a) ⟨b, cs⟩ = nextAfter (mmio (.write false a) b) cs := effect_eq
  rw [row, mmio_partial h hf, afterAccess_eq]

/-- Any register but the two ring indices, which count it (R408), takes nothing of a partial write. -/
theorem partialWrite_discarded (htail : r ≠ .admCmdTail) (hhead : r ≠ .admRplHead) (b : Block) :
    partialWrite r b = b := by
  unfold partialWrite
  split
  · exact absurd rfl htail
  · exact absurd rfl hhead
  · rfl

/-! ### What each register takes of a full write -/

theorem fld_low (v w : Nat) : fld v 0 w = v % 2 ^ w := by simp [fld]

/-- A field whose only value out of range is zero. -/
theorem ranged_one {n old new : Nat} (hmax : new ≤ n) : ranged 1 n old new = if new = 0 then old else new := by
  by_cases hzero : new = 0
  · simp [ranged, hzero]
  · rw [ranged, if_pos ⟨Nat.one_le_iff_ne_zero.mpr hzero, hmax⟩, if_neg hzero]

/-- A field whose values out of range are those below its least. -/
theorem ranged_low {lo n old new : Nat} (hmax : new ≤ n) : ranged lo n old new = if new < lo then old else new := by
  by_cases hlow : new < lo
  · rw [ranged, if_neg fun h => Nat.not_le.mpr hlow h.1, if_pos hlow]
  · rw [ranged, if_pos ⟨Nat.not_lt.mp hlow, hmax⟩, if_neg hlow]

theorem regWrite_admCmdTail (v : Nat) (b : Block) : regWrite .admCmdTail v b = { b with adm :=
    if v < 1024 then { b.adm with cmdTail := v } else { b.adm with drop := satAdd 32 b.adm.drop 1 } } := by
  simp only [regWrite]
  split <;> rfl

theorem regWrite_admRplHead (v : Nat) (b : Block) :
    regWrite .admRplHead v b = { b with adm := { b.adm with rplHead := v % 1024 } } := by
  simp only [regWrite, fld_low, Nat.reducePow]

theorem regWrite_fltDumpStatus (x : W64) (b : Block) : regWrite .fltDumpStatus x.toNat b = { b with flt := { b.flt with
    dumpLocked := b.flt.dumpLocked && (!x.getLsbD 0 || b.time.notes.contains .dumpLocked) } } := by
  rw [regWrite, bitOf_toNat]
  rfl

theorem regWrite_schBwCfg (x : W64) (b : Block) :
    regWrite .schBwCfg x.toNat b = modSch b.sch.slotSel (fun s => { s with bwNext := {
      en := x.getLsbD 63
      burst := if x.toNat / 2 ^ 32 % 2 ^ 24 = 0 then s.bwNext.burst else x.toNat / 2 ^ 32 % 2 ^ 24
      rate := if x.toNat % 2 ^ 24 = 0 then s.bwNext.rate else x.toNat % 2 ^ 24 } }) b := by
  have hburst : fld x.toNat 32 24 ≤ 0xFFFFFF := Nat.le_of_lt_succ (Nat.mod_lt _ (by decide))
  have hrate : x.toNat % 2 ^ 24 ≤ 0xFFFFFF := Nat.le_of_lt_succ (Nat.mod_lt _ (by decide))
  simp only [regWrite, writeBwCfg, ranged_one hburst, ranged_one hrate, bitOf_toNat, fld_low]
  rfl

theorem regWrite_depWcdCfg (x : W64) (b : Block) : regWrite .depWcdCfg x.toNat b = { b with dep := { b.dep with
    wcdEnable := x.getLsbD 16
    wcdSettle := if x.toNat % 2 ^ 16 < 0x40 then b.dep.wcdSettle else x.toNat % 2 ^ 16 } } := by
  have hsettle : x.toNat % 2 ^ 16 ≤ 0xFFFF := Nat.le_of_lt_succ (Nat.mod_lt _ (by decide))
  simp only [regWrite, writeWcdCfg, fld_low, ranged_low hsettle, bitOf_toNat]

theorem regWrite_hubFetchCfg (v : Nat) (b : Block) : regWrite .hubFetchCfg v b = { b with hub := { b.hub with
    maxReads := if 1 ≤ v % 2 ^ 10 ∧ v % 2 ^ 10 ≤ 512 then v % 2 ^ 10 else b.hub.maxReads } } := by
  rw [regWrite, fld_low]
  rfl

/-- Settles O8: what each register named takes of a full write, and what becomes of a partial one. -/
theorem registerWrites : Obligations.RegisterWrites := by
  unfold Obligations.RegisterWrites
  refine ⟨?tail, ?head, ?counted, ?dump, ?bandwidth, ?detector, ?fetch, ?discarded⟩
  case tail =>
    intro b cs a h hf
    have row : exec (.admCmdTail a) ⟨b, cs⟩ = afterAccess (regWrite .admCmdTail a.data.toNat b) cs :=
      effect_regRow_full h hf rfl
    rw [row, regWrite_admCmdTail]
  case head =>
    intro b cs a h hf
    have row : exec (.admRplHead a) ⟨b, cs⟩ = afterAccess (regWrite .admRplHead a.data.toNat b) cs :=
      effect_regRow_full h hf rfl
    rw [row, regWrite_admRplHead]
  case counted =>
    refine fun b cs a hf => ⟨fun h => ?_, fun h => ?_⟩
    · have row : exec (.admCmdTail a) ⟨b, cs⟩ = afterAccess (partialWrite .admCmdTail b) cs :=
        effect_regRow_partial h hf rfl
      rw [row, partialWrite]
    · have row : exec (.admRplHead a) ⟨b, cs⟩ = afterAccess (partialWrite .admRplHead b) cs :=
        effect_regRow_partial h hf rfl
      rw [row, partialWrite]
  case dump =>
    intro b cs a h hf
    have row : exec (.dumpUnlock a) ⟨b, cs⟩ = afterAccess (regWrite .fltDumpStatus a.data.toNat b) cs :=
      effect_regRow_full h hf rfl
    rw [row, regWrite_fltDumpStatus]
  case bandwidth =>
    intro b cs a h hf
    have row : exec (.schBwCfg a) ⟨b, cs⟩ = afterAccess (regWrite .schBwCfg a.data.toNat b) cs :=
      effect_regRow_full h hf rfl
    rw [row, regWrite_schBwCfg]
  case detector =>
    intro b cs a h hf
    rw [exec_registerWrite_full h hf, regWrite_depWcdCfg]
  case fetch =>
    intro b cs a h hf
    rw [exec_registerWrite_full h hf, regWrite_hubFetchCfg]
  case discarded =>
    intro b cs a r h hf htail hhead
    have own (p : Reg → Bool) (hp : p r = true) : effect (regRow p a) ⟨b, cs⟩ = afterAccess b cs := by
      rw [effect_regRow_partial h hf hp, partialWrite_discarded htail hhead]
    refine ⟨?_, ?_, ?_, ?_, ?_, ?_, ?_, ?_, ?_, ?_, ?_⟩
    · rw [exec_registerWrite_partial h hf, partialWrite_discarded htail hhead]
    all_goals intros; subst_vars; exact own _ rfl

/-! ### The lease, the summary and forced errors -/

theorem regWrite_hubHostLease (x : W64) (b : Block) (hgo : x.getLsbD 0 = true) :
    regWrite .hubHostLease x.toNat b = leaseRenew b := by
  simp only [regWrite, bitOf_toNat, hgo, if_true]

theorem regWrite_fltSummary (x : W64) (b : Block) :
    regWrite .fltSummary x.toNat b = summaryClear (x.getLsbD 0) (x.getLsbD 1) b := by
  simp only [regWrite, bitOf_toNat]

theorem leaseStart_counts (h : b.flt.leaseOff = false) :
    leaseStart b = { b with flt := { b.flt with leaseDead := some (refNow b + 2 ^ b.flt.leaseLog2) } } := by
  simp [leaseStart, h]

section Summary

variable {ce ucc : Bool}

/-- The class bits that a write of FLT_SUMMARY names have fallen. -/
def classCleared (ce ucc : Bool) (b : Block) : Block :=
  { b with flt := { b.flt with sumCe := b.flt.sumCe && !ce, sumUcc := b.flt.sumUcc && !ucc } }

/-- Without a UCC to bring back, the CE bit alone may rise again. -/
theorem summaryClear_ceAlone (hucc : (ucc && clsActive b .ucc) = false) : summaryClear ce ucc b =
    if ce && clsActive b .ce then sumSet .ce (classCleared ce ucc b) else classCleared ce ucc b := by
  have stays : (if ucc && clsActive b .ucc then sumSet .ucc (classCleared ce ucc b) else classCleared ce ucc b)
      = classCleared ce ucc b := if_neg (ne_true_of_eq_false hucc)
  exact congrArg (fun d => if ce && clsActive d .ce then sumSet .ce d else d) stays

/-- A write that brings no class back with a vector leaves the CE bit set if a CE is still ACTIVE, and requests nothing. -/
theorem summaryClear_silent (hucc : (ucc && clsActive b .ucc) = false)
    (hirq : (ce && clsActive b .ce && b.flt.ceIrq) = false) : summaryClear ce ucc b = { b with flt := { b.flt with
      sumCe := (b.flt.sumCe && !ce) || (ce && clsActive b .ce), sumUcc := b.flt.sumUcc && !ucc } } := by
  rw [summaryClear_ceAlone hucc]
  cases hnow : ce && clsActive b .ce with
  | false => simp [classCleared]
  | true =>
    have hquiet : b.flt.ceIrq = false := by simpa [hnow] using hirq
    simp [sumSet_ce, ceSet, classCleared, hquiet]

/-- The UCC bit that falls with a UCC still ACTIVE rises at once, with its vector (R360). -/
theorem summaryClear_ucc_again (hnow : clsActive b .ucc = true) :
    summaryClear false true b = msix 1025 { b with flt := { b.flt with sumUcc := true } } := by
  have rises : sumSet .ucc (classCleared false true b) = msix 1025 (uccSet (classCleared false true b)) := by
    simp [sumSet_ucc, classCleared]
  have cleared : uccSet (classCleared false true b) = { b with flt := { b.flt with sumUcc := true } } := by
    simp [uccSet, classCleared]
  rw [← cleared, ← rises]
  exact if_pos hnow

end Summary

section Force

variable {s t : Nat} {ue : Bool}

theorem forceError_unlisted (hform : srcForm s ue = none) :
    forceError s t ue b = { b with flt := { b.flt with refused := satAdd 16 b.flt.refused 1 } } := by
  simp [forceError, hform]

variable {cls : Cls} {scope : Nat} (hform : srcForm s ue = some (cls, scope))
include hform

/-- A fatal error without the unlock, and a scope member that does not exist, are refused (R362). -/
theorem forceError_refused (hbars : (cls = .ftl ∧ b.flt.unlock = false) ∨ memberExists b scope t = false) :
    forceError s t ue b = { b with flt := { b.flt with refused := satAdd 16 b.flt.refused 1 } } := by
  rcases hbars with ⟨hfatal, hlocked⟩ | hmissing
  · simp [forceError, hform, hfatal, hlocked]
  · simp [forceError, hform, hmissing]

theorem forceError_injected (hfatal : cls = .ftl → b.flt.unlock = true) (hmember : memberExists b scope t = true) :
    forceError s t ue b =
      let marked : Block := { b with flt := { b.flt with forcing := s + 1 } }
      let done := if isSram s then forceSram s t ue marked else forceOther s t marked
      { done with flt := { done.flt with forcing := 0 } } := by
  have hunlocked : (cls == .ftl && !b.flt.unlock) = false := by simpa using hfatal
  simp [forceError, hform, hunlocked, hmember]

end Force

/-- FLT_FORCE with its fields taken. -/
def forceTaken (x : W64) (b : Block) : Block := { b with flt := { b.flt with
  fUe := x.getLsbD 38, fSrc := x.toNat / 2 ^ 32 % 2 ^ 6, fTarget := x.toNat % 2 ^ 30 } }

theorem regWrite_fltForce (x : W64) (b : Block) : regWrite .fltForce x.toNat b =
    if x.getLsbD 63 then forceError (x.toNat / 2 ^ 32 % 2 ^ 6) (x.toNat % 2 ^ 30) (x.getLsbD 38) (forceTaken x b)
    else forceTaken x b := by
  simp only [regWrite, writeForce, bitOf_toNat, fld_low]
  rfl

/-- Settles O10: what RENEW, a write of the summary and FLT_FORCE do, the last by whether the error may be injected. -/
theorem faultWrites : Obligations.FaultWrites := by
  unfold Obligations.FaultWrites
  refine ⟨?renew, ?clear, ?again, ?force⟩
  case renew =>
    intro b cs a h hf hgo hcounts
    have row : exec (.renew a) ⟨b, cs⟩ = afterAccess (regWrite .hubHostLease a.data.toNat b) cs :=
      effect_regRow_full h hf rfl
    rw [row, regWrite_hubHostLease _ _ hgo, leaseRenew]
    dsimp only
    rw [leaseStart_counts]
    · rfl
    · exact hcounts
  case clear =>
    intro b cs a h hf ce ucc now hucc hirq
    have row : exec (.fltSummaryClear a) ⟨b, cs⟩ = afterAccess (regWrite .fltSummary a.data.toNat b) cs :=
      effect_regRow_full h hf rfl
    rw [row, regWrite_fltSummary, summaryClear_silent hucc hirq]
    rfl
  case again =>
    intro b cs a h hf hce hucc hnow
    have row : exec (.fltSummaryClear a) ⟨b, cs⟩ = afterAccess (regWrite .fltSummary a.data.toNat b) cs :=
      effect_regRow_full h hf rfl
    rw [row, regWrite_fltSummary, hce, hucc, summaryClear_ucc_again hnow]
  case force =>
    intro b cs a h hf src target ue taken
    have row : exec (.fltForce a) ⟨b, cs⟩ = afterAccess (regWrite .fltForce a.data.toNat b) cs :=
      effect_regRow_full h hf rfl
    rw [row, regWrite_fltForce]
    refine ⟨fun hstay => ?_, fun hgo hform => ?_, fun cls scope hgo hform hbars => ?_,
      fun cls scope hgo hform hfatal hmember => ?_⟩
    · rw [hstay]
      rfl
    · rw [hgo, if_pos rfl, forceError_unlisted hform]
      rfl
    · rw [hgo, if_pos rfl, forceError_refused (b := forceTaken a.data b) hform hbars]
      rfl
    · rw [hgo, if_pos rfl, forceError_injected (b := forceTaken a.data b) hform hfatal hmember]
      rfl

end Sys2Proof.Machine

/-! ### Start-up -/

namespace Sys2Proof.Machine

variable {b : Block} {cs : List Instr}

theorem exec_startupStep (x : StartInput) (hr : running b = true) :
    exec (.startupStep x) ⟨b, cs⟩ = nextAfter (startupStep x b) cs := live_eq hr

theorem releaseReset_begins (h : b.pwr.step = 0) :
    releaseReset b = { b with pwr := { b.pwr with step := 1, relAt := refNow b } } := by
  simp [releaseReset, h]

theorem clockSeen_of {l : List Nat} (hlen : 16 ≤ l.length)
    (hedges : ∀ n ∈ l.drop (l.length - 16), 22 ≤ n ∧ n ≤ 26) : clockSeen l = true := by
  simp only [clockSeen, Bool.and_eq_true, decide_eq_true_eq, List.all_eq_true]
  exact ⟨hlen, hedges⟩

/-! What ends each step of R395 -/

theorem startupStep_clock {l : List Nat} (h : b.pwr.step = 1) (hseen : clockSeen l = true) :
    startupStep (.clockEdges l) b = emit .fuseRead (setStep 2 b) := by
  simp [startupStep, h, hseen]

theorem startupStep_fuses {f : Fuses} (h : b.pwr.step = 2) : startupStep (.fuses f) b = fusesRead f b := by
  simp [startupStep, h]

theorem startupStep_identity (h : b.pwr.step = 4) : startupStep .idle b = setStep 5 (deriveIdk b) := by
  simp [startupStep, h]

theorem startupStep_flash {v : FlashView} (h : b.pwr.step = 5) :
    startupStep (.flash v) b = bootDvfs (setStep 6 (acceptChain (romBoot v b))) := by
  simp [startupStep, h]

theorem startupStep_operatingPoint (h : b.pwr.step = 6) (hidle : b.pwr.dvfs.phase = .idle) :
    startupStep .idle b = beginIdent (setStep 7 { b with pwr := { b.pwr with sampleDue := refNow b + 25000 } }) := by
  simp [startupStep, h, hidle]

theorem startupStep_discovered (h : b.pwr.step = 7) (hphase : 8 ≤ b.fab.phase) : startupStep .idle b = blockUp b := by
  simp [startupStep, h, hphase]

/-- After step 8 nothing of start-up is left. -/
theorem startupStep_over {x : StartInput} (h : b.pwr.step = 9) : startupStep x b = b := by
  cases x <;> simp [startupStep, h]

/-! What each step does -/

theorem startDomain_next {d : Nat} (h : (domOrder b).find? (fun d => (domOf b d).st == .off) = some d) :
    startDomain b = emit (.pdSwitch d true) (modDom d (fun m => { m with st := .leaving }) b) := by
  simp only [startDomain, h]

theorem startDomain_last (h : (domOrder b).all (fun d => (domOf b d).st != .off) = true) :
    startDomain b = setStep 4 b := by
  have hnone : (domOrder b).find? (fun d => (domOf b d).st == .off) = none := by
    simpa [List.find?_eq_none] using h
  simp only [startDomain, hnone]

theorem deriveIdk_seeded (h : allZero b.fuses.seed = false) : deriveIdk b =
    let k := idkScalar b.fuses.seed 255 1
    emit (.ksInvalid false) { b with
      sec := { b.sec with idkValid := true, scalar := k, pub := ecPublic k, kinv := false }
      fab := { b.fab with tie := beNat ((sha384 (ecPublic k)).take 8) } } := by
  simp only [deriveIdk, h, Bool.false_eq_true, if_false, Bool.not_false]

/-- No voltage has been named, so that the step's own operating point is taken. -/
theorem stepVolt_unnamed {t : Nat} (h : b.pwr.dvfs.tVolt = 0) : stepVolt b t = oppVolt b t := by
  simp [stepVolt, h]

theorem bootDvfs_noRails {im : Image} (him : b.pwr.img.active = some im) (hcalm : b.pwr.emerg.active = false)
    (hrails : im.rails = []) : bootDvfs b =
      let t := min 4 (max im.boot b.fuses.stepMin.toNat)
      let r := modDvfs (fun d => { d with target := t, tVolt := 0 }) b
      startSeq t (oppVolt r t) none r := by
  simp only [bootDvfs, him, hrails, List.foldl_nil]
  rw [stepVolt_unnamed rfl]
  exact if_neg (ne_true_of_eq_false hcalm)

theorem beginIdent_eq (b : Block) : beginIdent b = { b with
    fab := { b.fab with
      phase := 0, fruDead := some (mgtNow b + 2 ^ 18), cmisLeft := List.range (nPorts b)
      trainUse := b.fab.train, waveUse := b.fab.waveLog2 }
    out := .idRead 0 0x50 0 8 :: .idSelect 0 0x1F :: b.out } := rfl

theorem blockUp_leased (h : b.flt.leaseOff = false) : blockUp b = { b with
    hub := { b.hub with blkUp := true }
    pwr := { b.pwr with step := 9, startCycles := min (refNow b - b.pwr.relAt) (2 ^ 32 - 1) }
    flt := { b.flt with leaseDead := some (refNow b + 2 ^ b.flt.leaseLog2) }
    out := .blkUp true :: b.out } :=
  leaseStart_counts h

/-- Settles O2, step by step of R395. -/
theorem startUp : Obligations.StartUp := by
  unfold Obligations.StartUp
  refine ⟨?release, ?clock, ?fuses, fun b d => startDomain_next, fun b => startDomain_last, ?identity, ?flash,
    fun b im => bootDvfs_noRails, ?operatingPoint, ?done, ?discovered⟩
  case release =>
    intro b cs h
    have row : exec .resetRelease ⟨b, cs⟩ = nextAfter (releaseReset b) cs := rfl
    rw [row, releaseReset_begins h]
    rfl
  case clock =>
    intro b cs l hr h hlen hedges
    rw [exec_startupStep _ hr, startupStep_clock h (clockSeen_of hlen hedges)]
    rfl
  case fuses =>
    intro b cs f hr h
    rw [exec_startupStep _ hr, startupStep_fuses h]
    rfl
  case identity =>
    intro b cs hr h hseed
    rw [exec_startupStep _ hr, startupStep_identity h, deriveIdk_seeded hseed]
    dsimp only [setStep, emit]
  case flash =>
    intro b cs v hr h
    rw [exec_startupStep _ hr, startupStep_flash h]
    rfl
  case operatingPoint =>
    intro b cs hr h hidle
    rw [exec_startupStep _ hr, startupStep_operatingPoint h hidle, beginIdent_eq]
    rfl
  case done =>
    intro b cs x hr h
    rw [exec_startupStep x hr, startupStep_over h]
  case discovered =>
    intro b cs hr h hphase hlease
    have hready : 8 ≤ b.fab.phase := by rcases hphase with h8 | h9 <;> omega
    rw [exec_startupStep _ hr, startupStep_discovered h hready, blockUp_leased hlease]
    rfl

/-! ### Clock loss and the test wrapper -/

theorem clockLoss_eq (h : b.flt.clockLost = false) : clockLoss b = { b with
    flt := { b.flt with clockLost := true, fatalPin := true }, hub := { b.hub with blkUp := false, held := [] }
    sec := { b.sec with slots := [], kinv := true }
    out := [.ksInvalid true, .blkUp false, .faultFatal true] ++ b.out } :=
  if_neg (ne_true_of_eq_false h)

/-- After start-up the return of the clock raises `hp_blk_up` before the fatal report (R372). -/
theorem clockReturn_up (h : b.flt.clockLost = true) (hup : b.pwr.step = 9) : clockReturn b =
    report (ftlReport 0x24) { b with
      flt := { b.flt with clockLost := false }, hub := { b.hub with blkUp := true }
      out := .blkUp true :: b.out } := by
  simp only [clockReturn, h, hup, Bool.not_true, Bool.false_eq_true, if_false, decide_true, if_true]
  rfl

theorem tapUnlock_open (hopen : b.fuses.testLock = false) (hfused : 3 ≤ b.pwr.step) :
    tapUnlock b = { b with flt := { b.flt with unlock := true } } := by
  simp [tapUnlock, hopen, Nat.not_lt.mpr hfused]

theorem tapUnlock_locked (hlocked : b.fuses.testLock = true) : tapUnlock b = b := by
  simp [tapUnlock, hlocked]

theorem glbId_eq (b : Block) : glbId b = 0x5143 * 2 ^ 16 + 0xB0 * 2 ^ 8 + b.fuses.config.code := rfl

/-- Settles O53: what the always-on logic does at a clock loss and at the clock's return, and each instruction of the
wrapper. -/
theorem clockAndTest : Obligations.ClockAndTest := by
  unfold Obligations.ClockAndTest
  refine ⟨?loss, ?back, ?select, ?test, ?unlock⟩
  case loss =>
    intro b cs hr hrunning
    have row : exec .clockLoss ⟨b, cs⟩ = nextAfter (clockLoss b) cs := power_eq hr
    rw [row, clockLoss_eq hrunning]
  case back =>
    intro b cs hr hlost hup
    have row : exec .clockReturn ⟨b, cs⟩ = nextAfter (clockReturn b) cs := power_eq hr
    rw [row, clockReturn_up hlost hup]
  case select =>
    intro b cs hr
    have bypass : exec .bypass ⟨b, cs⟩ = nextAfter (tapSelect 0 b) cs := power_eq hr
    have idcode : exec .idcode ⟨b, cs⟩ = nextAfter (tapIdcode (tapSelect 1 b)) cs := power_eq hr
    rw [bypass, idcode, tapIdcode, glbId_eq]
    exact ⟨rfl, rfl⟩
  case test =>
    intro b cs hr halive
    have scan : exec .scan ⟨b, cs⟩ = nextAfter (tapTest (tapSelect 2 b)) cs := power_eq hr
    have mbist : exec .mbist ⟨b, cs⟩ = nextAfter (tapTest (tapSelect 3 b)) cs := power_eq hr
    rw [scan, mbist]
    exact ⟨rfl, rfl⟩
  case unlock =>
    intro b cs hr
    have row : exec .unlock ⟨b, cs⟩ = nextAfter (tapUnlock (tapSelect 4 b)) cs := power_eq hr
    rw [row]
    refine ⟨fun hopen hfused => ?_, fun hlocked => ?_⟩
    · rw [tapUnlock_open (b := tapSelect 4 b) hopen hfused]
      rfl
    · rw [tapUnlock_locked (b := tapSelect 4 b) hlocked]
      rfl

end Sys2Proof.Machine

/-! ### Power domains that wake -/

namespace Sys2Proof.Machine

variable {b : Block} {d : Nat}

@[simp] theorem domOf_emit (o : Output) (b : Block) (d : Nat) : domOf (emit o b) d = domOf b d := rfl

theorem domOf_modDom_same (f : Dom → Dom) (hd : d < 5 + nSeqrs b / 8) : domOf (modDom d f b) d = f (domOf b d) := by
  have hin : ¬5 + b.fuses.config.sequencers / 8 ≤ d := Nat.not_le.mpr hd
  simp only [domOf, modDom, if_neg hin, tget_tmod_same]

theorem domOf_modDom_other (f : Dom → Dom) {n : Nat} (hne : n ≠ d) : domOf (modDom d f b) n = domOf b n := by
  simp only [domOf, modDom, tget_tmod_other _ _ _ hne]

/-- All that a wake of one domain can do: nothing, or a change of that domain and of what is driven. -/
theorem wakeOne_cases (d s : Nat) (b : Block) :
    wakeOne d s b = b ∨ ∃ f out, wakeOne d s b = { modDom d f b with out := out } := by
  unfold wakeOne
  dsimp only
  split_ifs
  · exact .inl rfl
  · exact .inr ⟨_, _, rfl⟩
  · exact .inl rfl
  · exact .inr ⟨_, _, rfl⟩
  · split
    · exact .inl rfl
    · exact .inl rfl
    · exact .inl rfl
    · exact .inr ⟨_, _, rfl⟩
    · exact .inr ⟨_, _, rfl⟩

theorem domOf_wakeOne_other {n s : Nat} (hne : n ≠ d) : domOf (wakeOne d s b) n = domOf b n := by
  obtain h | ⟨f, out, h⟩ := wakeOne_cases d s b
  · rw [h]
  · rw [h]
    exact domOf_modDom_other (b := b) f hne

theorem nSeqrs_wakeOne (d s : Nat) (b : Block) : nSeqrs (wakeOne d s b) = nSeqrs b := by
  obtain h | ⟨f, out, h⟩ := wakeOne_cases d s b
  · rw [h]
  · rw [h]
    rfl

/-- A domain that sleeps is not ON at once after its wake: its supply comes first (R382). -/
theorem st_wakeOne_asleep {s : Nat} (hd : d < 5 + nSeqrs b / 8) (h : (domOf b d).st = .off ∨ (domOf b d).st = .ret) :
    (domOf (wakeOne d s b) d).st ≠ .on := by
  have hnot : (domOf b d).st ≠ .on := by rcases h with h | h <;> simp [h]
  unfold wakeOne
  dsimp only
  split
  · exact hnot
  · rw [if_neg (by simpa using hnot), if_neg (by rcases h with h | h <;> simp [h])]
    split
    · contradiction
    · exact hnot
    · exact hnot
    · rw [domOf_modDom_same _ hd]
      exact hnot
    · rw [domOf_emit, domOf_modDom_same _ hd]
      nofun

theorem st_wake_asleep {s : Nat} (hd : d < 5 + nSeqrs b / 8) (h : (domOf b d).st = .off ∨ (domOf b d).st = .ret) :
    (domOf (wake d s b) d).st ≠ .on := by
  unfold wake
  dsimp only
  split
  · exact st_wakeOne_asleep hd h
  · next hdep =>
    have hne : d ≠ 1 := by
      rintro rfl
      simp at hdep
    rw [← nSeqrs_wakeOne 1 8 b] at hd
    rw [← domOf_wakeOne_other (s := 8) hne] at h
    exact st_wakeOne_asleep hd h

/-! ### PD_SET and DVFS_SET -/

section PdSet

variable {i : Nat} {e : List Byte} (hsome : ef e 4 0 4 ≠ 0) (hd : ef e 4 0 4 < 5 + nSeqrs b / 8)
include hsome hd

theorem pdSet_awake (ht : ef e 4 8 2 = 2) (hon : (domOf b (ef e 4 0 4)).st = .on) : pdSet i e b = admFinal i .ok b := by
  have hin : ¬(ef e 4 0 4 = 0 ∨ 5 + nSeqrs b / 8 ≤ ef e 4 0 4) := by omega
  simp only [pdSet, if_neg hin, ht, hon]
  rfl

theorem pdSet_asleep (ht : ef e 4 8 2 = 2) (hst : (domOf b (ef e 4 0 4)).st = .off ∨ (domOf b (ef e 4 0 4)).st = .ret) :
    pdSet i e b = modDom (ef e 4 0 4) (fun m => { m with adms := m.adms ++ [i] }) (wake (ef e 4 0 4) 1 b) := by
  have hin : ¬(ef e 4 0 4 = 0 ∨ 5 + nSeqrs b / 8 ≤ ef e 4 0 4) := by omega
  have hwoken : ¬((domOf (wake (ef e 4 0 4) 1 b) (ef e 4 0 4)).st == .on) = true := by
    simpa using st_wake_asleep hd hst
  rcases hst with hst | hst <;> simp only [pdSet, if_neg hin, ht, hst, if_neg hwoken] <;> rfl

/-- To RET or OFF a domain that is ON leaves, if nothing refuses it. -/
theorem pdSet_leave {off : Bool} (ht : ef e 4 8 2 = if off then 0 else 1) (hon : (domOf b (ef e 4 0 4)).st = .on) :
    pdSet i e b = pdLeave i (ef e 4 0 4) off b := by
  have hin : ¬(ef e 4 0 4 = 0 ∨ 5 + nSeqrs b / 8 ≤ ef e 4 0 4) := by omega
  cases off <;> simp only [pdSet, if_neg hin, ht, hon] <;> rfl

end PdSet

theorem pdLeave_refused {i : Nat} {off : Bool} (h : refuser b d off (some i) ≠ 0) :
    pdLeave i d off b = admBad i .badState 16 (pdRefuse d (refuser b d off (some i)) b) := by
  unfold pdLeave
  split
  · contradiction
  · rfl

theorem pdLeave_enters {i : Nat} {off : Bool} (h : refuser b d off (some i) = 0) :
    pdLeave i d off b = pdEnter d off (some i) b := by
  simp only [pdLeave, h]

section DvfsSet

variable {i : Nat} {e : List Byte}

/-- The voltage that a DVFS_SET asks for: the one it names, else the step's operating point (R388). -/
def askedVolt (b : Block) (e : List Byte) : Nat := if ef e 5 0 12 = 0 then oppVolt b (ef e 4 0 3) else ef e 5 0 12

theorem step_admitted (hstep : ef e 4 0 3 ≤ 4) (hmin : b.fuses.stepMin.toNat ≤ ef e 4 0 3) :
    ¬(4 < ef e 4 0 3 ∨ ef e 4 0 3 < b.fuses.stepMin.toNat) := by omega

theorem askedVolt_admitted (hlow : b.fuses.vminMv.toNat ≤ askedVolt b e) (hhigh : askedVolt b e ≤ b.fuses.vmaxMv.toNat)
    (hopp : oppVolt b (ef e 4 0 3) ≤ askedVolt b e) : ¬(askedVolt b e < b.fuses.vminMv.toNat
      ∨ b.fuses.vmaxMv.toNat < askedVolt b e ∨ askedVolt b e < oppVolt b (ef e 4 0 3)) := by omega

variable (hstep : ef e 4 0 3 ≤ 4) (hmin : b.fuses.stepMin.toNat ≤ ef e 4 0 3)
  (hlow : b.fuses.vminMv.toNat ≤ askedVolt b e) (hhigh : askedVolt b e ≤ b.fuses.vmaxMv.toNat)
  (hopp : oppVolt b (ef e 4 0 3) ≤ askedVolt b e)
include hstep hmin hlow hhigh hopp

theorem dvfsSet_deferred (hemerg : b.pwr.emerg.active = true) : dvfsSet i e b =
    admReply i .deferredEmergency 0xFFFFFFFF [] false (modDvfs (fun d => { d with
      target := ef e 4 0 3, tVolt := ef e 5 0 12, deferred := true, governed := false, defers := d.defers ++ [i] }) b) :=
  (if_neg (step_admitted hstep hmin)).trans ((if_neg (askedVolt_admitted hlow hhigh hopp)).trans (if_pos hemerg))

theorem dvfsSet_starts (hcalm : b.pwr.emerg.active = false)
    (horder : ef e 4 0 3 < b.time.divStep → b.pwr.dvfs.wrote ≤ askedVolt b e) (hidle : b.pwr.dvfs.running = false) :
    dvfsSet i e b = startSeq (ef e 4 0 3) (askedVolt b e) (some i) (modDvfs (fun d => { d with
      target := ef e 4 0 3, tVolt := ef e 5 0 12, governed := false, lows := 0, highs := 0 }) b) := by
  have hordered : ¬(ef e 4 0 3 < b.time.divStep ∧ askedVolt b e < b.pwr.dvfs.wrote) := fun ⟨hless, hbelow⟩ =>
    Nat.not_lt.mpr (horder hless) hbelow
  exact (if_neg (step_admitted hstep hmin)).trans ((if_neg (askedVolt_admitted hlow hhigh hopp)).trans
    ((if_neg (ne_true_of_eq_false hcalm)).trans ((if_neg hordered).trans (if_neg (ne_true_of_eq_false hidle)))))

end DvfsSet

/-! ### IMAGE_STAGE and IMAGE_ACTIVATE -/

section Images

variable {cs : List Instr} {i opc : Nat} {e : List Byte} {f : Nat → List Byte → Block → Block}

/-- The row of an IMAGE command that is ready does what the command does, as that of any other admin command. -/
theorem imageRow_ready (h : admReady b i opc e = true) : imageRow opc (i % 1024) f b = f i e (admStarted i b) := by
  obtain ⟨hserving, c, hc, -, -, hchecked⟩ := admReady_parts h
  rw [← adminRow_ready (f := f) h]
  simp only [imageRow, hc, domOn_of_serving hserving, hchecked, Bool.not_true, Bool.false_eq_true, if_false]

theorem imageWork_ready (h : admReady b i opc e = true) :
    atUnit (decide (i % 1024 < 1024)) (work (imageRow opc (i % 1024) f) ⟨b, cs⟩)
      = nextAfter (f i e (admStarted i b)) cs := by
  obtain ⟨hserving, -⟩ := admReady_parts h
  rw [atUnit_eq (decide_eq_true (Nat.mod_lt i (by decide))), work_eq hserving, imageRow_ready h]

theorem imageStage_erases (hmin : 416 ≤ word e 4) (hmax : word e 4 ≤ 262496) (hfree : actBusy b = false)
    (hbuf : bufBad (dword e 6) (word e 4) 64 = none) : imageStage i e b =
      emit (.flash 1 (bankAddr (stageBank b)) []) (modImg (fun m => { m with
        staged := none
        stage := some { adm := i, len := word e 4, addr := dword e 6, phase := 1, data := [], bad := none } }) b) := by
  have hlen : ¬(word e 4 < 416 ∨ 262496 < word e 4) := by omega
  simp only [imageStage, if_neg hlen, hfree, hbuf, Bool.false_eq_true, if_false]

theorem imageActivate_begins {im : Image} (hcancel : ef e 4 0 1 = 0) (hstaged : b.pwr.img.staged = some im)
    (hfree : actBusy b = false) (hchecked : actCheck b im = none) (hcalm : b.pwr.emerg.active = false) :
    imageActivate i e b = actBegin i b := by
  simp only [imageActivate, hcancel, hstaged, hfree, hchecked, hcalm, zero_ne_one, Bool.false_eq_true, if_false]

end Images

/-- Settles O21: each command by its lemma on the block in which it has started. -/
theorem powerCommands : Obligations.PowerCommands := by
  unfold Obligations.PowerCommands
  refine ⟨?domain, ?voltage, ?stage, ?activate⟩
  case domain =>
    intro b cs i e hready d s hsome hd
    have row : exec (.pdSet (i % 1024)) ⟨b, cs⟩ = nextAfter (pdSet i e s) cs := adminWork_ready hready
    rw [row]
    refine ⟨fun ht hon => ?_, fun ht hasleep => ?_, fun off ht hon hrefused => ?_, fun off ht hon hfree => ?_⟩
    · rw [pdSet_awake (b := s) hsome hd ht hon]
      rfl
    · rw [pdSet_asleep (b := s) hsome hd ht hasleep]
    · rw [pdSet_leave (b := s) hsome hd ht hon, pdLeave_refused hrefused]
      rfl
    · rw [pdSet_leave (b := s) hsome hd ht hon, pdLeave_enters hfree]
      rfl
  case voltage =>
    intro b cs i e hready t n v s hstep hmin hlow hhigh hopp
    have row : exec (.dvfsSet (i % 1024)) ⟨b, cs⟩ = nextAfter (dvfsSet i e s) cs := adminWork_ready hready
    rw [row]
    refine ⟨fun hemerg => ?_, fun hcalm horder hidle => ?_⟩
    · rw [dvfsSet_deferred (b := s) hstep hmin hlow hhigh hopp hemerg]
    · rw [dvfsSet_starts (b := s) hstep hmin hlow hhigh hopp hcalm horder hidle]
      rfl
  case stage =>
    intro b cs i e hready s hmin hmax hfree hbuf
    have row : exec (.imageStage (i % 1024)) ⟨b, cs⟩ = nextAfter (imageStage i e s) cs := imageWork_ready hready
    rw [row, imageStage_erases hmin hmax hfree hbuf]
  case activate =>
    intro b cs i e im hready s hcancel hstaged hfree hchecked hcalm
    have row : exec (.imageActivate (i % 1024)) ⟨b, cs⟩ = nextAfter (imageActivate i e s) cs := imageWork_ready hready
    rw [row, imageActivate_begins (b := s) hcancel hstaged hfree hchecked hcalm]
    rfl

/-! ### IDENTIFY and DUMP_READ -/

/-- The flags of IDENTIFY's word 10: READY, RECOVERY, and the node once there is one (R422). -/
theorem identifyFlags_eq (b : Block) :
    at_ (b2n (b.fab.phase == 8)) 31 + at_ b.pwr.img.recovery.toNat 30 + (if b.fab.phase == 8 then b.fab.node else 0) =
      (if b.fab.phase = 8 then 2 ^ 31 else 0) + (if b.pwr.img.recovery then 2 ^ 30 else 0)
        + (if b.fab.phase = 8 then b.fab.node else 0) := by
  have hrecovery : at_ b.pwr.img.recovery.toNat 30 = if b.pwr.img.recovery then 2 ^ 30 else 0 := by
    cases b.pwr.img.recovery <;> rfl
  rw [at_b2n, hrecovery]
  simp only [beq_iff_eq]

theorem identifyResult_keyed (hkey : b.sec.idkValid = true) : identifyResult b =
    words64 (glbId b) ++ words64 (glbIfrev b) ++ words64 (glbCap b)
      ++ [(if b.fab.phase = 8 then 2 ^ 31 else 0) + (if b.pwr.img.recovery then 2 ^ 30 else 0)
            + (if b.fab.phase = 8 then b.fab.node else 0), 0]
      ++ (List.range 12).map (word (sha384 b.sec.pub)) ++ words64 b.fab.fru.serial := by
  rw [identifyResult, idkHash, if_pos hkey]
  rw [identifyFlags_eq]

theorem identify_keyed {i : Nat} {e : List Byte} (hkey : b.sec.idkValid = true) :
    identify i e b = admReply i .ok 0xFFFFFFFF (identifyResult b) true b := by
  rw [identify, if_pos hkey]

theorem dumpRead_copies {i : Nat} {e : List Byte} (hcap : b.flt.capDue = none) (hoff : word e 5 % 64 = 0)
    (hlen : word e 6 % 64 = 0) (hmin : 64 ≤ word e 6)
    (hextent : word e 5 + word e 6 ≤ if ef e 4 0 1 = 0 then 2 ^ 18 else 2 ^ 14)
    (hbuf : bufBad (dword e 8) (word e 6) 64 = none) :
    dumpRead i e b = admWrite i (dumpBytes b (ef e 4 0 1) (word e 5) (word e 6)) b := by
  simp only [dumpRead, hcap, hoff, hlen, hbuf, Option.isSome_none, Bool.false_eq_true, and_false, if_false,
    if_neg (Nat.not_lt.mpr hmin), if_neg (Nat.not_lt.mpr hextent), ne_eq, not_true_eq_false]

/-- Settles O22: with an identity key the hash is its own, and a stretch that R421 allows is copied. -/
theorem readCommands : Obligations.ReadCommands := by
  unfold Obligations.ReadCommands
  refine ⟨?identify, ?dump⟩
  case identify =>
    intro b cs i e hready hkey id cap
    have row : exec (.identify (i % 1024)) ⟨b, cs⟩ = nextAfter (identify i e (admStarted i b)) cs :=
      adminWork_ready hready
    rw [row, identify_keyed (b := admStarted i b) hkey, identifyResult_keyed (b := admStarted i b) hkey]
    rfl
  case dump =>
    intro b cs i e hready hcap hoff hlen hmin hextent hbuf
    have row : exec (.dumpRead (i % 1024)) ⟨b, cs⟩ = nextAfter (dumpRead i e (admStarted i b)) cs :=
      adminWork_ready hready
    rw [row, dumpRead_copies (b := admStarted i b) hcap hoff hlen hmin hextent hbuf]
    rfl

/-! ### Staging and switching an image -/

theorem exec_flashOperationDone {cs : List Instr} {r : FlashResult} (hr : running b = true) :
    exec (.flashOperationDone r) ⟨b, cs⟩ = nextAfter (flashDone r b) cs := live_eq hr

section Staging

variable {s : Stage} (hstage : b.pwr.img.stage = some s)
include hstage

theorem flashDone_erased (hphase : s.phase = 1) :
    flashDone .done b = admRead s.adm (modStage (fun s => { s with phase := 2 }) b) := by
  simp [flashDone, hstage, stageFlash, hphase]

theorem flashDone_programmed (hphase : s.phase = 3) : flashDone .done b =
    emit (.flash 0 (bankAddr (stageBank b)) []) (modStage (fun s => { s with phase := 4 }) b) := by
  simp [flashDone, hstage, stageFlash, hphase]

theorem flashDone_failed (hphase : s.phase = 1 ∨ s.phase = 3) : flashDone .failed b = stageErase .memUncorrected b := by
  rcases hphase with hphase | hphase <;> simp [flashDone, hstage, stageFlash, hphase]

end Staging

/-- Outside recovery the switch leaves the time of the next power sample as it is. -/
theorem activationSwitch_normal {im : Image} (hphase : b.pwr.img.actPhase = 2) (hstaged : b.pwr.img.staged = some im)
    (hnormal : b.pwr.img.recovery = false) : activationSwitch b =
      modDvfs (fun d => { d with tVolt := 0 }) (spdmEnd (foldImage im.meas (modImg (fun i => { i with
        fallback := stageBank b != b.pwr.img.recBank, staged := none, actPhase := 5 }) (imageForce im (stageBank b) b)))) := by
  simp only [activationSwitch, hphase, hstaged, hnormal, Bool.false_eq_true, if_false]

/-- Settles O23: each flash operation's end by the phase of the staging, then the switch. -/
theorem imageSteps : Obligations.ImageSteps := by
  unfold Obligations.ImageSteps
  refine ⟨?staging, ?switch⟩
  case staging =>
    intro b cs s hr hstage
    refine ⟨fun hphase => ?_, fun hphase => ?_, fun hphase => ?_⟩
    · rw [exec_flashOperationDone hr, flashDone_erased hstage hphase]
      rfl
    · rw [exec_flashOperationDone hr, flashDone_programmed hstage hphase]
    · rw [exec_flashOperationDone hr, flashDone_failed hstage hphase]
      rfl
  case switch =>
    intro b cs im hserving hphase hstaged hnormal
    have row : exec .activationSwitch ⟨b, cs⟩ = nextAfter (activationSwitch b) cs := work_eq hserving
    rw [row, activationSwitch_normal hphase hstaged hnormal]
    rfl

end Sys2Proof.Machine

/-! ### Taking and ending admin commands -/

namespace Sys2Proof.Machine

variable {b : Block} {cs : List Instr} {i : Nat} {c : AdmCmd}

/-- The block that has taken the entry at HEAD (R408). -/
def admTaken (b : Block) : Block := { b with
  adm := { b.adm with
    cmds := b.adm.cmds ++ [admZero (1024 * b.adm.laps + b.adm.cmdHead) (entryAt b b.adm.cmdHead) b]
    cmdHead := (b.adm.cmdHead + 1) % 1024, takenAt := some (hubNow b)
    laps := if b.adm.cmdHead = 1023 then b.adm.laps + 1 else b.adm.laps
    bad := b.adm.bad.filter (· != b.adm.cmdHead) }
  flt := { b.flt with admLog := ((entryAt b b.adm.cmdHead).take 32 :: b.flt.admLog).take 64 } }

/-- The ring holds an entry, there is room for its reply, and no taking is less than two cycles past (R408, R411). -/
theorem adminTake_takes (hserving : serving b = true) (hsome : b.adm.cmdHead ≠ b.adm.cmdTail) (hroom : admRoom b = true)
    (hpast : ∀ t, b.adm.takenAt = some t → t + 2 ≤ hubNow b) : adminTake b =
      let n := 1024 * b.adm.laps + b.adm.cmdHead
      if b.adm.bad.contains b.adm.cmdHead then admFinal n .memUncorrected (admTaken b)
      else if admListed (admOpc (entryAt b b.adm.cmdHead)) then admTaken b
      else admBad n .badOpcode 0 (admTaken b) := by
  refine if_neg ?_
  cases htaken : b.adm.takenAt with
  | none => simp [hsome, hroom, domOn_of_serving hserving]
  | some t => simp [hsome, hroom, domOn_of_serving hserving, hpast t htaken]

/-- The taking, with what becomes of the entry: it is answered at once or waits to start. -/
theorem exec_adminCommandTake (hserving : serving b = true) (hsome : b.adm.cmdHead ≠ b.adm.cmdTail)
    (hroom : admRoom b = true) (hpast : ∀ t, b.adm.takenAt = some t → t + 2 ≤ hubNow b) :
    exec .adminCommandTake ⟨b, cs⟩ = nextAfter (
      let n := 1024 * b.adm.laps + b.adm.cmdHead
      if b.adm.bad.contains b.adm.cmdHead then admFinal n .memUncorrected (admTaken b)
      else if admListed (admOpc (entryAt b b.adm.cmdHead)) then admTaken b
      else admBad n .badOpcode 0 (admTaken b)) cs := by
  rw [← adminTake_takes hserving hsome hroom hpast]
  exact work_eq hserving

theorem deferredFinal_due {st : Status} {res : List Byte} (hdue : admDueAt b i = some c)
    (hfinal : c.finalDue = some (st, res)) :
    deferredFinal i b = admReply c.idx st 0xFFFFFFFF ((List.range (res.length / 4)).map (word res)) true b := by
  simp only [deferredFinal, hdue, hfinal]

/-- A command that fails a common check has started, and does nothing but reply (R415). -/
theorem adminRow_failed {opc : Nat} {f : Nat → List Byte → Block → Block} {st : Status} {off : Nat}
    (hon : domOn b 1 = true) (hat : admAt b opc i = some c) (hcheck : commonCheck c = some (st, off)) :
    adminRow opc i f b = admBad c.idx st off (admStarted c.idx b) := by
  simp only [adminRow, hat, hon, hcheck, Bool.not_true, Bool.false_eq_true, if_false]
  rfl

theorem adminWork_failed {opc : Nat} {f : Nat → List Byte → Block → Block} {st : Status} {off : Nat}
    (hserving : serving b = true) (hi : i < 1024) (hat : admAt b opc i = some c)
    (hcheck : commonCheck c = some (st, off)) :
    atUnit (decide (i < 1024)) (work (adminRow opc i f) ⟨b, cs⟩)
      = nextAfter (admBad c.idx st off (admStarted c.idx b)) cs := by
  rw [atUnit_eq (decide_eq_true hi), work_eq hserving, adminRow_failed (domOn_of_serving hserving) hat hcheck]

section Written

variable {id : Nat} {status : BitVec 2}

theorem writeResponse_adm (huse : tget none b.hub.writes (id % 512) = some (.adm i)) :
    writeResponse id status b = admWriteAnswer i status (writeTaken id b) := by
  simp only [writeResponse, takeWrite, huse, writeTaken]

theorem admWriteAnswer_failed (hcmd : admOf b i = some c) (hstatus : status ≠ 0) :
    admWriteAnswer i status b = admBad i .xlatFault (admDest c.entry).2 b := by
  simp only [admWriteAnswer, hcmd, if_pos hstatus]

/-- The last piece of a DUMP_READ's buffer is written: it is answered OK (R421). -/
theorem admWriteAnswer_dumpDone (hcmd : admOf b i = some c) (hall : c.data.length ≤ c.next)
    (hopc : admOpc c.entry = 0x41) : admWriteAnswer i 0 b =
      admFinal i .ok (modAdm i (fun c => { c with stage := 0 }) (modAdm i (fun c => { c with out := 0 }) b)) := by
  simp only [admWriteAnswer, hcmd, if_pos hall, admDestDone, hopc, ne_eq, not_true_eq_false, if_false]

end Written

/-- Settles O14: the outcome that is due, the check that fails, and the two answers to a write of a command's buffer. -/
theorem adminOutcomes : Obligations.AdminOutcomes := by
  unfold Obligations.AdminOutcomes
  refine ⟨?deferred, ?check, ?failed, ?dump⟩
  case deferred =>
    intro b cs i c st res hserving hi hdue hfinal
    have row : exec (.deferredFinalReply i) ⟨b, cs⟩ = nextAfter (deferredFinal i b) cs :=
      (atUnit_eq (decide_eq_true hi)).trans (work_eq hserving)
    rw [row, deferredFinal_due hdue hfinal]
  case check =>
    intro b cs i c st off hserving hi hcheck
    exact ⟨fun hat => adminWork_failed hserving hi hat hcheck, fun hat => adminWork_failed hserving hi hat hcheck⟩
  case failed =>
    intro b cs id i c status hserving huse hcmd hstatus
    have row : exec (.hostWriteResponse id status) ⟨b, cs⟩ = nextAfter (writeResponse id status b) cs := work_eq hserving
    rw [row, writeResponse_adm huse, admWriteAnswer_failed (b := writeTaken id b) hcmd hstatus]
    rfl
  case dump =>
    intro b cs id i c hserving huse hcmd hall hopc
    have row : exec (.hostWriteResponse id 0) ⟨b, cs⟩ = nextAfter (writeResponse id 0 b) cs := work_eq hserving
    rw [row, writeResponse_adm huse, admWriteAnswer_dumpDone (b := writeTaken id b) hcmd hall hopc]
    rfl

end Sys2Proof.Machine

namespace Sys2Proof

/-- Settles O12: with an entry, room and the interval past, the block takes the entry at HEAD. -/
theorem adminTake : Obligations.AdminTake := by
  unfold Obligations.AdminTake
  intro b cs hserving hsome hroom hpast
  exact Machine.exec_adminCommandTake hserving hsome hroom hpast

end Sys2Proof

/-! ### Two writes to one key of a table -/

namespace Sys2Proof.Machine

variable {α : Type} {t : Table α} {j : Nat}

theorem terase_absent (h : ∀ e ∈ t, e.1 ≠ j) : terase t j = t := by
  induction t with
  | nil => rfl
  | cons e t ih =>
    have hne : j ≠ e.1 := (h e List.mem_cons_self).symm
    rw [terase, if_neg hne, ih fun x hx => h x (List.mem_cons_of_mem _ hx)]

theorem terase_tinsert (v : α) (h : ∀ e ∈ t, e.1 ≠ j) : terase (tinsert j v t) j = t := by
  induction t with
  | nil => simp [tinsert, terase]
  | cons e t ih =>
    have hne : j ≠ e.1 := (h e List.mem_cons_self).symm
    unfold tinsert
    split
    · rw [terase, if_pos rfl, terase_absent h]
    · rw [terase, if_neg hne, ih fun x hx => h x (List.mem_cons_of_mem _ hx)]

theorem terase_tset [DecidableEq α] (d : α) (t : Table α) (j : Nat) (v : α) : terase (tset d t j v) j = terase t j := by
  have gone : ∀ e ∈ terase t j, e.1 ≠ j := fun e he => (terase_key he).2
  unfold tset
  split
  · exact terase_absent gone
  · exact terase_tinsert v gone

theorem tset_tset [DecidableEq α] (d : α) (t : Table α) (j : Nat) (v w : α) :
    tset d (tset d t j v) j w = tset d t j w := by
  rw [tset, terase_tset, tset]

theorem tmod_tmod [DecidableEq α] (d : α) (t : Table α) (j : Nat) (f g : α → α) :
    tmod d (tmod d t j f) j g = tmod d t j (g ∘ f) := by
  rw [tmod, tget_tmod_same, tmod, tset_tset]
  rfl

end Sys2Proof.Machine

/-! ### The entry of a domain, cycle by cycle -/

namespace Sys2Proof.Machine

variable {b : Block} {d n : Nat}

theorem modDom_modDom (d : Nat) (f g : Dom → Dom) (b : Block) : modDom d g (modDom d f b) = modDom d (g ∘ f) b := by
  simp only [modDom, tmod_tmod]

theorem modDom_congr {f g : Dom → Dom} (hd : d < 5 + nSeqrs b / 8) (h : f (domOf b d) = g (domOf b d)) :
    modDom d f b = modDom d g b := by
  have hin : ¬5 + b.fuses.config.sequencers / 8 ≤ d := Nat.not_le.mpr hd
  rw [domOf, if_neg hin] at h
  simp only [modDom, tmod, h]

/-- A domain that the configuration lacks reads OFF. -/
theorem exists_of_entering (h : (domOf b d).st = .entering) : d < 5 + nSeqrs b / 8 := by
  by_contra hout
  have habsent : 5 + b.fuses.config.sequencers / 8 ≤ d := Nat.not_lt.mp hout
  simp [domOf, if_pos habsent] at h

/-- A domain that is not entering has no cycle of an entry due. -/
theorem entrySteps_left (h : (domOf b d).st ≠ .entering) : entrySteps d n b = b := by
  cases n with
  | zero => rfl
  | succ n => exact if_pos (by simpa using h)

section Entering

variable (hent : (domOf b d).st = .entering)
include hent

theorem entrySteps_refused (hearly : (domOf b d).entStep < 2)
    (hcode : refuser b d (domOf b d).entOff (domOf b d).entAdm ≠ 0) :
    entrySteps d (n + 1) b = entryAbort d (refuser b d (domOf b d).entOff (domOf b d).entAdm) b :=
  (if_neg (by simp [hent])).trans (if_pos ⟨hearly, hcode⟩)

/-- Past its commit point, or with nothing to refuse it, the entry goes on (R383). -/
theorem entrySteps_goes (hgoes : 2 ≤ (domOf b d).entStep ∨ refuser b d (domOf b d).entOff (domOf b d).entAdm = 0) :
    entrySteps d (n + 1) b = if refNow b ≤ (domOf b d).entAt + (domOf b d).entStep then b
      else entrySteps d n (entryAction d ((domOf b d).entStep + 1)
        (modDom d (fun m => { m with entStep := m.entStep + 1 }) b)) :=
  (if_neg (by simp [hent])).trans (if_neg fun ⟨hearly, hcode⟩ => hgoes.elim (Nat.not_le.mpr hearly) hcode)

end Entering

/-! What the replies and the loss of an entry leave alone -/

theorem domOf_congr {c : Block} (hpwr : c.pwr = b.pwr) (hfuses : c.fuses = b.fuses) (d : Nat) :
    domOf c d = domOf b d := by
  simp only [domOf, hpwr, hfuses]

theorem admReply_running (i : Nat) (st : Status) (off : Nat) (l : List Nat) (fin : Bool) (b : Block) :
    running (admReply i st off l fin b) = running b := by
  obtain ⟨a, h⟩ := admReply_adm i st off l fin b
  rw [h]
  rfl

theorem admFinals_running (is : List Nat) (st : Status) (b : Block) : running (admFinals is st b) = running b := by
  obtain ⟨a, h⟩ := admFinals_adm is st b
  rw [h]
  rfl

theorem domOf_admReply (i : Nat) (st : Status) (off : Nat) (l : List Nat) (fin : Bool) (b : Block) (d : Nat) :
    domOf (admReply i st off l fin b) d = domOf b d := by
  obtain ⟨a, h⟩ := admReply_adm i st off l fin b
  rw [h]
  rfl

theorem domOf_msix (v : Nat) (b : Block) (d : Nat) : domOf (msix v b) d = domOf b d := by
  unfold msix
  split <;> rfl

theorem admPut_cases (r : AdmOut) (b : Block) :
    ∃ a : Adm, admPut r b = { b with adm := a } ∨ admPut r b = msix 1024 { b with adm := a } := by
  simp only [admPut]
  split
  · exact ⟨_, .inr rfl⟩
  · exact ⟨_, .inl rfl⟩

theorem domOf_admPut (r : AdmOut) (b : Block) (d : Nat) : domOf (admPut r b) d = domOf b d := by
  obtain ⟨a, h | h⟩ := admPut_cases r b
  · rw [h]
    rfl
  · rw [h, domOf_msix]
    rfl

theorem domOf_admPuts (rs : List AdmOut) (b : Block) (d : Nat) :
    domOf (rs.foldl (fun b r => admPut r b) b) d = domOf b d := by
  induction rs generalizing b with
  | nil => rfl
  | cons r rs ih => rw [List.foldl_cons, ih, domOf_admPut]

theorem domOf_admFlush (b : Block) (d : Nat) : domOf (admFlush b) d = domOf b d := by
  unfold admFlush
  split
  · rfl
  · exact domOf_admPuts _ _ d

theorem domLose_supply (k : Nat) (b : Block) : (domLose k b).pwr = b.pwr ∧ (domLose k b).fuses = b.fuses := by
  unfold domLose
  split <;> exact ⟨rfl, rfl⟩

theorem domOf_domLose (k : Nat) (b : Block) (d : Nat) : domOf (domLose k b) d = domOf b d :=
  domOf_congr (domLose_supply k b).1 (domLose_supply k b).2 d

/-! The abort -/

theorem entryReply_running (i : Option Nat) (f : Nat → Block → Block) (hr : running b = true) :
    entryReply i f b = i.elim b (f · b) := by
  cases i with
  | none => rfl
  | some i => exact if_pos hr

/-- Neither accesses nor messages wait for a domain that is neither PD_HUB nor PD_FAB. -/
theorem domBack_other (hhub : d ≠ 1) (hfab : d ≠ 3) : domBack d b = b := by
  simp [domBack, hhub, hfab]

/-- An abort puts the domain ON again, answers the commands that wait for it and refuses the one that began it (R383). -/
theorem entryAbort_running (code : Nat) (hr : running b = true) (hhub : d ≠ 1) (hfab : d ≠ 3) : entryAbort d code b =
    let w := admFinals (domOf b d).adms .ok (pdRefuse d code
      (modDom d (fun m => { m with st := .on, adms := [], entAdm := none, latched := none }) b))
    (domOf b d).entAdm.elim w (admBad · .badState 16 w) := by
  have hstill : running (admFinals (domOf b d).adms .ok (pdRefuse d code
      (modDom d (fun m => { m with st := .on, adms := [], entAdm := none, latched := none }) b))) = true :=
    (admFinals_running _ _ _).trans hr
  rw [entryAbort]
  dsimp only
  rw [domBack_other hhub hfab, ← entryReply_running (f := fun i b => admBad i .badState 16 b) _ hstill]
  exact congrArg _ (if_pos hr)

/-! The commit -/

/-- Domain `d` stands in cycle `n` of its entry. -/
def inCycle (d n : Nat) (b : Block) : Block := modDom d (fun m => { m with entStep := n }) b

/-- Cycle 3 of the entry of domain `d` raises its retention, unless it goes to OFF (R382). -/
def retained (d : Nat) (b : Block) : Block :=
  { b with out := (if (domOf b d).entOff then [] else [.pdRet d true]) ++ b.out }

/-- The domain in its target state, cycle 5 of its entry. -/
def entered (d : Nat) (b : Block) : Block := modDom d (fun m => { m with
  entStep := 5, st := if m.entOff then .off else .ret, entAdm := none }) b

theorem retained_eq (d : Nat) (b : Block) :
    retained d b = if (domOf b d).entOff then b else emit (.pdRet d true) b := by
  unfold retained
  split <;> rfl

theorem inCycle_inCycle (d m n : Nat) (b : Block) : inCycle d n (inCycle d m b) = inCycle d n b :=
  modDom_modDom d _ _ b

theorem entered_inCycle (d n : Nat) (b : Block) : entered d (inCycle d n b) = entered d b :=
  modDom_modDom d _ _ b

theorem entryAction_four : entryAction d 4 (inCycle d 4 b) = inCycle d 4 (emit (.pdSwitch d false) b) := rfl

section Committed

variable (hd : d < 5 + nSeqrs b / 8)
include hd

theorem domOf_inCycle (n : Nat) : domOf (inCycle d n b) d = { domOf b d with entStep := n } := domOf_modDom_same _ hd

/-- Past the commit point each cycle of the entry is driven as it is due. -/
theorem entrySteps_cycle {k : Nat} (hent : (domOf b d).st = .entering) (hstep : (domOf b d).entStep = k) (hk : 2 ≤ k)
    (hpast : (domOf b d).entAt + k < refNow b) :
    entrySteps d (n + 1) b = entrySteps d n (entryAction d (k + 1) (inCycle d (k + 1) b)) := by
  have hnext : modDom d (fun m => { m with entStep := m.entStep + 1 }) b = inCycle d (k + 1) b :=
    modDom_congr hd (by rw [hstep])
  rw [entrySteps_goes hent (.inl (by omega)), hstep, hnext, if_neg (Nat.not_le.mpr hpast)]

theorem entrySteps_inCycle {k : Nat} (hent : (domOf b d).st = .entering) (hk : 2 ≤ k)
    (hpast : (domOf b d).entAt + k < refNow b) :
    entrySteps d (n + 1) (inCycle d k b) = entrySteps d n (entryAction d (k + 1) (inCycle d (k + 1) b)) := by
  have hdom := domOf_inCycle hd k
  have hcycle : entrySteps d (n + 1) (inCycle d k b)
      = entrySteps d n (entryAction d (k + 1) (inCycle d (k + 1) (inCycle d k b))) :=
    entrySteps_cycle (b := inCycle d k b) hd (by rw [hdom]; exact hent) (by rw [hdom]) hk (by rw [hdom]; exact hpast)
  rw [hcycle, inCycle_inCycle]

theorem entryAction_three : entryAction d 3 (inCycle d 3 b) = inCycle d 3 (retained d b) := by
  simp only [entryAction, domOf_inCycle hd, retained_eq]
  split <;> rfl

theorem entryAction_five (hr : running b = true) : entryAction d 5 (inCycle d 5 b) =
    let w := (domOf b d).entAdm.elim (entered d b) (admFinal · .ok (entered d b))
    if (domOf b d).entOff then domLose d (admFlush w) else w := by
  have hsame : modDom d (fun m => { m with st := if m.entOff then .off else .ret, entAdm := none }) (inCycle d 5 b)
      = entered d b := modDom_modDom d _ _ b
  have hstill : running (entered d b) = true := hr
  simp only [entryAction, domOf_inCycle hd, hsame, entryReply_running _ _ hstill]

/-- At its end the domain no longer enters. -/
theorem st_entered : (domOf (entered d b) d).st ≠ .entering := by
  rw [entered, domOf_modDom_same _ hd]
  dsimp only
  split <;> nofun

end Committed

theorem domOf_elim_admFinal (i : Option Nat) (b : Block) (k : Nat) :
    domOf (i.elim b (admFinal · .ok b)) k = domOf b k := by
  cases i with
  | none => rfl
  | some i => exact domOf_admReply i .ok 0xFFFFFFFF [] true b k

/-- The cycles 3 to 5 of an entry, all of them due: its supply goes, then it is in its target state, its command is answered,
and OFF loses what the domain held (R382). -/
theorem entrySteps_commits (hr : running b = true) (hent : (domOf b d).st = .entering) (hstep : (domOf b d).entStep = 2)
    (hpast : (domOf b d).entAt + 4 < refNow b) : entrySteps d (n + 4) b =
      let r := entered d (emit (.pdSwitch d false) (retained d b))
      let w := (domOf b d).entAdm.elim r (admFinal · .ok r)
      if (domOf b d).entOff then domLose d (admFlush w) else w := by
  have hd := exists_of_entering hent
  have three : entrySteps d (n + 4) b = entrySteps d (n + 3) (inCycle d 3 (retained d b)) := by
    rw [entrySteps_cycle hd hent hstep le_rfl (by omega), entryAction_three hd]
  have four : entrySteps d (n + 3) (inCycle d 3 (retained d b))
      = entrySteps d (n + 2) (inCycle d 4 (emit (.pdSwitch d false) (retained d b))) := by
    rw [entrySteps_inCycle (b := retained d b) hd hent (by decide) (by change (domOf b d).entAt + 3 < refNow b; omega)]
    exact congrArg _ entryAction_four
  have five := entrySteps_inCycle (b := emit (.pdSwitch d false) (retained d b)) (n := n + 1) hd hent (by decide) hpast
  rw [three, four, five, entryAction_five (b := emit (.pdSwitch d false) (retained d b)) hd hr]
  refine entrySteps_left ?_
  have hleft := st_entered (b := emit (.pdSwitch d false) (retained d b)) hd
  dsimp only
  split
  · rw [domOf_domLose, domOf_admFlush, domOf_elim_admFinal]
    exact hleft
  · rw [domOf_elim_admFinal]
    exact hleft

end Sys2Proof.Machine

/-! ### The supply of a domain -/

namespace Sys2Proof.Machine

variable {b : Block} {cs : List Instr} {d : Nat}

/-- The supply of domain `d` has come: its retention and clamps have gone, and it is ON. -/
def domUp (d : Nat) (b : Block) : Block :=
  modDom d (fun m => { m with st := .on, fromOff := false, adms := [], idleAt := none }) (pdUnclamp d b)

section Supplied

variable (hst : (domOf b d).st = .leaving)
include hst

/-- A domain that works again starts if it was OFF, takes what waited for it and answers its commands (R387). -/
theorem pdOn_working (halive : b.flt.stale = false) (hclock : b.flt.clockLost = false) : pdOn d b =
    let s := if (domOf b d).fromOff then domStart d (domUp d b) else domUp d b
    admFinals (domOf b d).adms .ok (if d = 3 then replayRx s else s) := by
  have hleaving : ¬((domOf b d).st != .leaving) = true := by simp [hst]
  have hworks : ¬(b.flt.stale || b.flt.clockLost) = true := by simp [halive, hclock]
  exact (if_neg hleaving).trans (if_neg hworks)

theorem pdOn_stale (hstale : b.flt.stale = true) (hfab : d ≠ 3) : pdOn d b = domUp d b := by
  have hleaving : ¬((domOf b d).st != .leaving) = true := by simp [hst]
  have hstopped : (b.flt.stale || b.flt.clockLost) = true := by simp [hstale]
  exact (if_neg hleaving).trans ((if_pos hstopped).trans (if_neg hfab))

/-- In step 3 of start-up the next domain follows (R395). -/
theorem pgoodRise_startUp (hstep : b.pwr.step = 3) :
    pgoodRise d b = startDomain (modDom d (fun m => { m with st := .on }) (pdUnclamp d b)) := by
  simp [pgoodRise, hstep, hst]

end Supplied

theorem pgoodRise_later (hstep : b.pwr.step ≠ 3) : pgoodRise d b = pdOn d b := if_neg hstep

theorem pgoodEvent_other (hhub : d ≠ 1) : pgoodEvent d b = pgoodRise d b := if_neg hhub

section Idle

variable {t : Nat} (hd : d ≠ 0) (hon : (domOf b d).st = .on) (hen : (domOf b d).idleEn = true)
  (hat : (domOf b d).idleAt = some t) (hpast : t + (domOf b d).idle < refNow b)
include hd hon hen hat hpast

/-- The idle count has reached its limit, and nothing refuses the entry (R385). -/
theorem idleExpiry_enters (hfree : refuser b d (domOf b d).idleOff none = 0) :
    idleExpiry d b = pdEnter d (domOf b d).idleOff none b := by
  simp [idleExpiry, hd, hon, hen, hat, expired, hpast, hfree]

theorem idleExpiry_refused (hrefused : refuser b d (domOf b d).idleOff none ≠ 0) :
    idleExpiry d b = pdRefuse d (refuser b d (domOf b d).idleOff none) b := by
  simp only [idleExpiry, hd, hon, hen, hat, expired, hpast, bne_self_eq_false, decide_true, Bool.not_true,
    Bool.false_eq_true, or_self, if_false]

end Idle

/-- The row of a domain that the configuration has. -/
theorem atUnit_domain_eq {f : Block → Block} (hr : released b = true) (hlow : 1 ≤ d) (hd : d < 5 + nSeqrs b / 8) :
    atUnit (decide (1 ≤ d) && decide (d < 5 + nSeqrs b / 8)) (power f ⟨b, cs⟩) = nextAfter (f b) cs := by
  rw [atUnit_eq (by simp [hlow, hd]), power_eq hr]

/-! ### The DVFS sequencer -/

section Confirmed

theorem avsWriteDone_up (h : b.pwr.dvfs.phase = .upWrite) : avsWriteDone b =
    modDvfs (fun d => { d with phase := .upPoll, dead := some (refNow b + b.pwr.dvfs.settle) }) b := by
  simp only [avsWriteDone, h]

theorem avsWriteDone_down (h : b.pwr.dvfs.phase = .downWrite) : avsWriteDone b =
    modDvfs (fun d => { d with phase := .downPoll, dead := some (refNow b + b.pwr.dvfs.settle) }) b := by
  simp only [avsWriteDone, h]

theorem avsWriteDone_emergency (h : b.pwr.dvfs.phase = .emergWrite) :
    avsWriteDone b = modDvfs (fun d => { d with phase := .idle, dead := none }) b := by
  simp only [avsWriteDone, h]

variable {mv : Nat}

theorem avsReadvout_below (h : b.pwr.dvfs.phase = .upPoll) (hbelow : mv + 10 < b.pwr.dvfs.seqVolt) :
    avsReadvout mv b = b := by
  simp only [avsReadvout, h, if_pos hbelow]

theorem avsReadvout_raised (h : b.pwr.dvfs.phase = .upPoll) (hreached : b.pwr.dvfs.seqVolt ≤ mv + 10)
    (hstep : b.time.divStep = b.pwr.dvfs.seqStep) :
    avsReadvout mv b = dvfsEnd true (modDvfs (fun d => { d with volt := b.pwr.dvfs.seqVolt }) b) := by
  simp only [avsReadvout, h, if_neg (Nat.not_lt.mpr hreached)]
  exact if_pos hstep

/-- Upward the divider follows the voltage (R389). -/
theorem avsReadvout_divides (h : b.pwr.dvfs.phase = .upPoll) (hreached : b.pwr.dvfs.seqVolt ≤ mv + 10)
    (hstep : b.time.divStep ≠ b.pwr.dvfs.seqStep) : avsReadvout mv b =
      setDiv b.pwr.dvfs.seqStep (modDvfs (fun d => { d with
        volt := b.pwr.dvfs.seqVolt, phase := .upDiv, dead := some (refNow b + 64) }) b) := by
  simp only [avsReadvout, h, if_neg (Nat.not_lt.mpr hreached)]
  exact if_neg hstep

theorem avsReadvout_lowered (h : b.pwr.dvfs.phase = .downPoll) (hlow : b.pwr.dvfs.seqVolt ≤ mv + 10)
    (hhigh : mv ≤ b.pwr.dvfs.seqVolt + 10) :
    avsReadvout mv b = dvfsEnd true (modDvfs (fun d => { d with volt := b.pwr.dvfs.seqVolt }) b) := by
  have hwithin : ¬(mv + 10 < b.pwr.dvfs.seqVolt ∨ b.pwr.dvfs.seqVolt + 10 < mv) := by omega
  simp only [avsReadvout, h, if_neg hwithin]

theorem divAck_up (h : b.pwr.dvfs.phase = .upDiv) : divAck b = dvfsEnd true b := by
  simp only [divAck, h]

/-- Downward the voltage follows the divider (R389). -/
theorem divAck_down (h : b.pwr.dvfs.phase = .downDiv) : divAck b =
    avsWrite b.pwr.dvfs.seqVolt (modDvfs (fun d => { d with phase := .downWrite, dead := none }) b) := by
  simp only [divAck, h]

theorem divAck_emergency (h : b.pwr.dvfs.phase = .emergDiv) : divAck b =
    avsWrite b.fuses.vsafeMv.toNat (modDvfs (fun d => { d with phase := .emergWrite, dead := none }) b) := by
  simp only [divAck, h]

end Confirmed

section Expired

variable {t : Nat} (hdead : b.pwr.dvfs.dead = some t) (hpast : t < refNow b)
include hdead hpast

theorem dvfs_due : due (refNow b) b.pwr.dvfs.dead = true := by
  simp [hdead, due, expired, hpast]

/-- A rise that is not confirmed writes back the voltage that was written before it (R389). -/
theorem settleExpiry_up (h : b.pwr.dvfs.phase = .upPoll) :
    settleExpiry b = dvfsEnd false (avsWrite b.pwr.dvfs.prevVolt b) := by
  simp only [settleExpiry, dvfs_due hdead hpast, h, Bool.not_true, Bool.false_eq_true, if_false]

theorem settleExpiry_down (h : b.pwr.dvfs.phase = .downPoll) : settleExpiry b = dvfsEnd false b := by
  simp only [settleExpiry, dvfs_due hdead hpast, h, Bool.not_true, Bool.false_eq_true, if_false]

theorem divAckExpiry_fails (h : b.pwr.dvfs.phase = .upDiv ∨ b.pwr.dvfs.phase = .downDiv) :
    divAckExpiry b = dvfsEnd false b := by
  rcases h with h | h <;>
    simp only [divAckExpiry, dvfs_due hdead hpast, h, Bool.not_true, Bool.false_eq_true, if_false]

end Expired

section Ended

/-- The sequencer is idle, and counts a sequence that failed. -/
def seqEnded (ok : Bool) (b : Block) : Block := modDvfs (fun d => { d with
  phase := .idle, dead := none, adm := none, fails := if ok then d.fails else satAdd 16 d.fails 1 }) b

variable (ok : Bool) (hdefers : b.pwr.dvfs.defers = [])
include hdefers

/-- With no command deferred only the one of the sequence itself, if it has one, gets its outcome. -/
theorem dvfsEnd_undeferred : dvfsEnd ok b = b.pwr.dvfs.adm.toList.foldl
    (fun b i => admDone i (if ok then .ok else .badState) (dvfsResult b) b) (seqEnded ok b) := by
  have hcleared : modDvfs (fun d => { d with
      phase := .idle, dead := none, adm := none, defers := []
      fails := if ok then d.fails else satAdd 16 d.fails 1 }) b = seqEnded ok b :=
    modDvfs_congr (by rw [hdefers])
  rw [← hcleared]
  simp only [dvfsEnd, hdefers, List.append_nil]

theorem dvfsEnd_unasked (hadm : b.pwr.dvfs.adm = none) : dvfsEnd ok b = modDvfs (fun d => { d with
    phase := .idle, dead := none, fails := if ok then d.fails else satAdd 16 d.fails 1 }) b := by
  rw [dvfsEnd_undeferred ok hdefers, hadm]
  change seqEnded ok b = _
  exact modDvfs_congr (by rw [hadm])

theorem dvfsEnd_answers {i : Nat} {c : AdmCmd} (hadm : b.pwr.dvfs.adm = some i) (hcmd : admOf b i = some c)
    (hfirst : c.replied = false) : dvfsEnd ok b =
      admReply i (if ok then .ok else .badState) 0xFFFFFFFF (dvfsResult b) true (seqEnded ok b) := by
  have hcmd' : admOf (seqEnded ok b) i = some c := hcmd
  rw [dvfsEnd_undeferred ok hdefers, hadm]
  simp only [Option.toList_some, List.foldl_cons, List.foldl_nil, admDone, hcmd', hfirst, Bool.false_eq_true, if_false]
  rfl

end Ended

/-- Settles O54: the exit and the entry of a domain by the lemmas above, then each answer and bound of the sequencer by its
phase. -/
theorem domainsAndDvfs : Obligations.DomainsAndDvfs := by
  unfold Obligations.DomainsAndDvfs
  refine ⟨?pgood, ?idle, ?abort, ?early, ?commit, ?written, ?readout, ?divided, ?bounds, ?unasked, ?answered⟩
  case pgood =>
    intro b cs d hr hlow hd hst m u r
    have row : exec (.pgoodRise d) ⟨b, cs⟩ = nextAfter (pgoodEvent d b) cs := atUnit_domain_eq hr hlow hd
    rw [row]
    refine ⟨fun hstep halive hclock => ?_, fun hstep hstale hhub hfab => ?_, fun hstep hhub => ?_⟩
    · have hon := (pgoodRise_later hstep).trans (pdOn_working hst halive hclock)
      rw [pgoodEvent, hon]
      rfl
    · rw [pgoodEvent_other hhub, pgoodRise_later hstep, pdOn_stale hst hstale hfab]
      rfl
    · rw [pgoodEvent_other hhub, pgoodRise_startUp hst hstep]
      rfl
  case idle =>
    intro b cs d t hr hlow hd hon hen hat hpast
    have row : exec (.domainIdleExpiry d) ⟨b, cs⟩ = nextAfter (idleExpiry d b) cs := atUnit_domain_eq hr hlow hd
    have hsome : d ≠ 0 := Nat.one_le_iff_ne_zero.mp hlow
    rw [row]
    refine ⟨fun hfree => ?_, fun c hcode hc => ?_⟩
    · rw [idleExpiry_enters hsome hon hen hat hpast hfree]
      rfl
    · subst hcode
      rw [idleExpiry_refused hsome hon hen hat hpast hc]
      rfl
  case abort =>
    intro b d n c hr hhub hfab hent hearly hcode hc
    subst hcode
    rw [entrySteps_refused hent hearly hc, entryAbort_running _ hr hhub hfab]
    dsimp only
    cases (domOf b d).entAdm <;> rfl
  case early =>
    intro b d n hent hearly hfree
    rw [entrySteps_goes hent (.inr hfree)]
    refine ⟨fun hwait => if_pos hwait, fun hdue => ?_⟩
    rw [if_neg (Nat.not_le.mpr hdue)]
    obtain hfirst | hsecond : (domOf b d).entStep = 0 ∨ (domOf b d).entStep = 1 := by omega
    · rw [hfirst]
      rfl
    · rw [hsecond]
      rfl
  case commit =>
    intro b d n hr hent hstep hpast
    rw [entrySteps_commits hr hent hstep hpast, retained_eq]
    dsimp only
    cases (domOf b d).entAdm <;> rfl
  case written =>
    intro b cs hr d w
    have row : exec .avsTargetWriteDone ⟨b, cs⟩ = nextAfter (avsWriteDone b) cs := power_eq hr
    rw [row]
    refine ⟨fun h => ?_, fun h => ?_, fun h => ?_⟩
    · rw [avsWriteDone_up h]
      rfl
    · rw [avsWriteDone_down h]
      rfl
    · rw [avsWriteDone_emergency h]
      rfl
  case readout =>
    intro b cs mv hr d w
    have row : exec (.avsReadvout mv) ⟨b, cs⟩ = nextAfter (avsReadvout mv b) cs := power_eq hr
    rw [row]
    refine ⟨fun h hbelow => ?_, fun h hreached hstep => ?_, fun h hreached hstep => ?_, fun h hlow hhigh => ?_⟩
    · rw [avsReadvout_below h hbelow]
    · rw [avsReadvout_raised h hreached hstep]
      rfl
    · rw [avsReadvout_divides h hreached hstep]
      rfl
    · rw [avsReadvout_lowered h hlow hhigh]
      rfl
  case divided =>
    intro b cs hr d w
    have row : exec .divAck ⟨b, cs⟩ = nextAfter (divAck b) cs := power_eq hr
    rw [row]
    refine ⟨fun h => ?_, fun h => ?_, fun h => ?_⟩
    · rw [divAck_up h]
    · rw [divAck_down h]
      rfl
    · rw [divAck_emergency h]
      rfl
  case bounds =>
    intro b cs t hr hdead hpast d
    have settle : exec .dvfsSettleExpiry ⟨b, cs⟩ = nextAfter (settleExpiry b) cs := power_eq hr
    have ack : exec .divAckExpiry ⟨b, cs⟩ = nextAfter (divAckExpiry b) cs := power_eq hr
    rw [settle, ack]
    refine ⟨fun h => ?_, fun h => ?_, fun h => ?_⟩
    · rw [settleExpiry_up hdead hpast h]
      rfl
    · rw [settleExpiry_down hdead hpast h]
    · rw [divAckExpiry_fails hdead hpast h]
  case unasked => exact fun b ok hadm hdefers => dvfsEnd_unasked ok hdefers hadm
  case answered =>
    intro b i c ok hadm hdefers hcmd hfirst
    exact dvfsEnd_answers ok hdefers hadm hcmd hfirst

end Sys2Proof.Machine
